-- ==== Sys2Proof/Word.lean ====
section
/-! DEFINITION. The word types of the LL2416 and the two plain containers every later file uses: a list of bytes,
and a sparse table keyed by a number. -/

namespace Sys2Proof

/-- One byte. -/
abbrev Byte := BitVec 8
/-- A run of bytes, the one at the lowest address first (R3). -/
abbrev Bytes := List Byte
/-- The register and instruction widths the chapters use. -/
abbrev W16 := BitVec 16
abbrev W32 := BitVec 32
abbrev W64 := BitVec 64
abbrev W128 := BitVec 128

/-- A sparse table: pairs of a number and a value, the numbers rising. What an unlisted number holds is said where
the table is read. -/
abbrev Table (α : Type) := List (Nat × α)

end Sys2Proof
end

