-- ==== Sys2Proof/Syntax.lean ====
section
/-! DEFINITION. The commands of the block: one constructor for each row of the table of operations and events, with
the operands the chapters give the step. No row gives bits, so none is decoded from a word. -/

namespace Sys2Proof

/-- Who waits in a fence: a thread (R149) or the FENCE descriptor at the head of a ring pair (R336). -/
inductive Fencer where
  | thread (tile slot : Nat)
  | ring (ring : Nat)
  deriving DecidableEq, Repr

/-- What moves bytes under a fence timeout: a copy of a tile's copy engine (R160) or a descriptor (R335). -/
inductive Mover where
  | engine (tile copy : Nat)
  | ring (ring : Nat)
  deriving DecidableEq, Repr

/-- Who made a host read that failed (R464). -/
inductive HostReader where
  | doorbell (host : Nat)
  | fetch (ring : Nat)
  | descriptor (ring : Nat)
  | thread (tile slot : Nat)
  | copy (tile copy : Nat)
  deriving DecidableEq, Repr

/-- A message of the tile mesh: a thread's request on its way out, the answer on its way back, the request for a copy's source
lines, the lines as they come to the tile, a copy's destination line on its way out, or the next request of another part on
its way from the hub to a tile (R183, R184). -/
inductive MeshMessage where
  | request (id : Nat)
  | reply (id : Nat)
  | copyAsk (tile copy line : Nat)
  | copyIn (tile copy line : Nat)
  | copyOut (tile copy line : Nat)
  | inbound (src : Nat)
  deriving DecidableEq, Repr

/-- What the SECDED of a mesh message finds (R183). -/
inductive MeshErrors where
  | none | single | double
  deriving DecidableEq, Repr

/-- Bits of a stored granule of HBM that have flipped in the stack: its place, the symbol and the bits (R204). -/
structure Upset where
  granule : Nat
  symbol  : Nat
  bits    : W16
  deriving DecidableEq, Repr

/-- Storage of a tile other than its banks (R434); an instruction word is one of the cache, by its number in the image. -/
inductive TileStore where
  | accumulator (bank entry : Nat)
  | register (number element : Nat)
  | counter (number : Nat)
  | word (number : Nat)
  deriving DecidableEq, Repr

/-- Storage of a tile in which one bit, or more than one, has flipped: a granule of SRAM (R180), or another store (R434). -/
inductive TileUpset where
  | granule (number : Nat) (many : Bool)
  | store (place : TileStore) (many : Bool)
  deriving DecidableEq, Repr

/-- A place in the buffers of a fabric die (R434): a flit of a replay buffer, the first packet of a class in a receive buffer, a
packet of a reorder buffer, an entry of the reply cache. -/
inductive BufferPlace where
  | replay (port : Nat) (fseq : W16)
  | receive (port : Nat) (cls : BitVec 2)
  | reorder (src cls : Nat) (seq : W32)
  | reply (src : Nat) (seq : W32)
  deriving DecidableEq, Repr

/-- A place of a fabric die's buffers in which one bit, or more than one, has flipped. -/
structure BufferUpset where
  place : BufferPlace
  many  : Bool
  deriving DecidableEq, Repr

/-- A memory request of a drive on its N0 link (R373). -/
inductive DriveRequest where
  | read (addr : W64) (length : Nat)
  | write (addr : W64) (data : Bytes)
  deriving DecidableEq, Repr

/-- What the FEC of a port finds in a codeword (R216). -/
inductive FecResult where
  | clean | corrected | uncorrectable
  deriving DecidableEq, Repr

/-- A codeword that a flit touches: its result, and whether this flit is the first that it touches. -/
structure Codeword where
  result : FecResult
  first  : Bool := true
  deriving DecidableEq, Repr

/-- A 128-byte source line a descriptor reads from outside the part (host memory or another part), as it came:
good, marked bad, poison formed for a dead part, or failing its check (R432, R433). -/
inductive LineState where
  | good | markedBad | poison | mismatch
  deriving DecidableEq, Repr

/-- One line read from outside the part for a descriptor. -/
structure OutsideLine where
  data  : Bytes
  state : LineState
  deriving DecidableEq, Repr

/-- An endpoint of the management core: SMBus, or the vendor-defined messages of a host port (R461). -/
inductive Endpoint where
  | smbus
  | vdm (host : Nat)
  deriving DecidableEq, Repr

/-- The spaces of a host port that 4-byte accesses reach: the set-up registers, the MSI-X table with its PBA, and the
configuration space (R466, R467). -/
inductive HostSpace where
  | bar0
  | bar4
  | config
  deriving DecidableEq, Repr

/-- The commands, in the order of the table. An operand with a default is what happens on the way (stalls, upsets, poison), or
where a request comes in; left out, nothing happens on the way, and the request comes through SMBus or to BAR0. -/
inductive Instr where
  /-- R485. VAUX rises above 3.135 V: the service die wakes, latches the straps, zeroes the time base and starts boot. -/
  | vauxRise (straps : BitVec 4)
  /-- R415. The root PLL locks on REFCLK, or FLT_CLOCK_LOSS stops boot when it has not locked by T0 + 1 s. -/
  | rootPllLock (locked : Bool)
  /-- R450. The ROM and stage one verify slot A, then slot B, and the configuration blob; measurements are extended and the controller goes to ENABLING, or a FATAL boot fault is raised. -/
  | bootVerify (floorReadable : Bool)
  /-- R485. PWR_OK goes high and VIN12 domain enabling begins, or restarts from domain 0 after an earlier loss. -/
  | pwrOkRise
  /-- R486. PWR_OK falls during ENABLING or later: every VIN12 domain switches off in reverse order, PWROKLOSS is set and the controller returns to OFF. -/
  | pwrOkFall
  /-- R485. The next power domain in the power-up order is enabled, with the rise in draw held under r_up. -/
  | domainEnable (tests : Table (BitVec 260))
  /-- R212. A stack finishes training and every granule is cleared to zeros, or FLT_HBM_TRAIN is raised. -/
  | hbmTrainingComplete (stack : Nat) (ok : Bool) (repaired : List Nat) (spares : Table Nat)
  /-- R487. RESET_N held low for at least 1 us resets the part, switches the domains off and clears the measurement registers. -/
  | resetNAssert
  /-- R487. RESET_N rises and boot reruns from step 1, unless THERMTRIP_N is still low. -/
  | resetNRelease
  /-- R488. VAUX is removed while VIN12 is present: the converters stop within 10 us and nothing is recorded. -/
  | vauxRemove
  /-- R416. The reference is lost or a PLL loses lock: FLT_CLOCK_LOSS is FATAL and every VIN12 domain switches off within 1 ms. -/
  | clockLoss
  /-- R440. The log ring comes up and the early buffer's records are copied to it with their LSEQ. -/
  | logRingUp
  /-- R70. The stationary loader starts an MLOAD once its order conditions hold and fills the shadow set from packs, one pack per cycle. -/
  | mload (tile : Nat)
  /-- R73. The load ends: the shadow set becomes valid or invalid, the status record is written and the counter increments. -/
  | mloadComplete (tile stalls : Nat)
  /-- R74. MSWAP executes once its order conditions hold and copies the shadow set into the active set in one cycle. -/
  | mswap (tile : Nat)
  /-- R104. MRUN starts streaming vectors through the active set in slots of w cycles, in forward or transposed operation. -/
  | mrun (tile : Nat)
  /-- R92. A vector's accumulator row is written 20 cycles after its last slot, under the FP32 foot rules. -/
  | mrunRowWrite (tile : Nat) (stalls : Nat := 0)
  /-- R96. After each window of 32 slots a check slot compares the window and verify sums and raises FLT_CHECKSUM on a failure. -/
  | mrunCheckSlot (tile : Nat) (stalls : Nat := 0)
  /-- R92. A run completes: the status record is written and then the counter increments. -/
  | mrunComplete (tile stalls : Nat)
  /-- R115. Element-wise add, rounded once to FMT. -/
  | vadd (tile : Nat)
  /-- R115. Element-wise subtract. -/
  | vsub (tile : Nat)
  /-- R115. Element-wise multiply. -/
  | vmul (tile : Nat)
  /-- R115. Element-wise fused multiply-add with one rounding. -/
  | vfma (tile : Nat)
  /-- R115. Element-wise minimum. -/
  | vmin (tile : Nat)
  /-- R115. Element-wise maximum. -/
  | vmax (tile : Nat)
  /-- R116. Correctly rounded 2^a. -/
  | vexp2 (tile : Nat)
  /-- R116. Correctly rounded log2 a. -/
  | vlog2 (tile : Nat)
  /-- R116. Correctly rounded reciprocal. -/
  | vrcp (tile : Nat)
  /-- R116. Correctly rounded reciprocal square root. -/
  | vrsq (tile : Nat)
  /-- R118. Compares a with b under a condition and writes a mask. -/
  | vcmp (tile : Nat)
  /-- R115. Selects bits of a or b under the mask c. -/
  | vsel (tile : Nat)
  /-- R117. Reduces each row or column by sum, maximum or minimum in pairwise order. -/
  | vred (tile : Nat)
  /-- R115. Transposes a register as bits. -/
  | vtrn (tile : Nat)
  /-- R120. Converts between the accepted format pairs. -/
  | vcvt (tile : Nat)
  /-- R115. Copies a register as bits. -/
  | vmov (tile : Nat)
  /-- R121. Loads one register from tile SRAM with strides. -/
  | vld (tile : Nat)
  /-- R121. Stores one register to tile SRAM with strides. -/
  | vst (tile : Nat)
  /-- R125. Packs FP32 tiles into stream form or packs, with per-block scales. -/
  | vpack (tile : Nat)
  /-- R127. Unpacks stream form or packs into FP32 tiles. -/
  | vunpk (tile : Nat)
  /-- R128. Compresses FP32 gradients to SG1 with error feedback into the BF16 residual. -/
  | vsg1 (tile : Nat)
  /-- R131. The rank unit computes BF16 products with FP32 accumulation into the accumulator or registers. -/
  | rmm (tile : Nat)
  /-- R133. A vector instruction ends: the status record is written and then the counter increments. -/
  | vectorComplete (tile stalls : Nat)
  /-- R144. No operation. -/
  | nop (tile slot : Nat)
  /-- R144. rd := ra + rb. -/
  | add (tile slot : Nat)
  /-- R144. rd := ra - rb. -/
  | sub (tile slot : Nat)
  /-- R144. Low 64 bits of ra x rb. -/
  | mul (tile slot : Nat)
  /-- R144. High 64 bits of the signed product. -/
  | mulh (tile slot : Nat)
  /-- R144. Bitwise AND. -/
  | and (tile slot : Nat)
  /-- R144. Bitwise OR. -/
  | or (tile slot : Nat)
  /-- R144. Bitwise XOR. -/
  | xor (tile slot : Nat)
  /-- R144. Shift left by rb[5:0]. -/
  | shl (tile slot : Nat)
  /-- R144. Logical shift right. -/
  | shr (tile slot : Nat)
  /-- R144. Arithmetic shift right. -/
  | sar (tile slot : Nat)
  /-- R144. Signed minimum. -/
  | min (tile slot : Nat)
  /-- R144. Signed maximum. -/
  | max (tile slot : Nat)
  /-- R144. Unsigned minimum. -/
  | minu (tile slot : Nat)
  /-- R144. Unsigned maximum. -/
  | maxu (tile slot : Nat)
  /-- R144. Add the sign-extended immediate. -/
  | addi (tile slot : Nat)
  /-- R144. AND with the sign-extended immediate. -/
  | andi (tile slot : Nat)
  /-- R144. OR with the sign-extended immediate. -/
  | ori (tile slot : Nat)
  /-- R144. XOR with the sign-extended immediate. -/
  | xori (tile slot : Nat)
  /-- R144. Shift left by an immediate. -/
  | shli (tile slot : Nat)
  /-- R144. Logical shift right by an immediate. -/
  | shri (tile slot : Nat)
  /-- R144. Arithmetic shift right by an immediate. -/
  | sari (tile slot : Nat)
  /-- R144. rd := (rd << 16) OR IMM16. -/
  | shi (tile slot : Nat)
  /-- R145. Sets a predicate from a register comparison. -/
  | cmp (tile slot : Nat)
  /-- R144. Sets a predicate from a comparison with an immediate. -/
  | cmpi (tile slot : Nat)
  /-- R144. Combines two predicates. -/
  | plog (tile slot : Nat)
  /-- R144. PC-relative branch. -/
  | br (tile slot : Nat)
  /-- R144. Branch and link into g15. -/
  | brl (tile slot : Nat)
  /-- R146. Jump to the address in ra. -/
  | jr (tile slot : Nat)
  /-- R147. Local 1-byte load, zero-extended. -/
  | ldl1 (tile slot : Nat)
  /-- R147. Local 2-byte load, zero-extended. -/
  | ldl2 (tile slot : Nat)
  /-- R147. Local 4-byte load, zero-extended. -/
  | ldl4 (tile slot : Nat)
  /-- R147. Local 8-byte load. -/
  | ldl8 (tile slot : Nat)
  /-- R147. Local 1-byte load, sign-extended. -/
  | ldls1 (tile slot : Nat)
  /-- R147. Local 2-byte load, sign-extended. -/
  | ldls2 (tile slot : Nat)
  /-- R147. Local 4-byte load, sign-extended. -/
  | ldls4 (tile slot : Nat)
  /-- R147. Local 1-byte store. -/
  | stl1 (tile slot : Nat)
  /-- R147. Local 2-byte store. -/
  | stl2 (tile slot : Nat)
  /-- R147. Local 4-byte store. -/
  | stl4 (tile slot : Nat)
  /-- R147. Local 8-byte store. -/
  | stl8 (tile slot : Nat)
  /-- R148. Global 1-byte load, zero-extended. -/
  | ldg1 (tile slot : Nat)
  /-- R148. Global 2-byte load, zero-extended. -/
  | ldg2 (tile slot : Nat)
  /-- R148. Global 4-byte load, zero-extended. -/
  | ldg4 (tile slot : Nat)
  /-- R148. Global 8-byte load. -/
  | ldg8 (tile slot : Nat)
  /-- R148. Global 1-byte load, sign-extended. -/
  | ldgs1 (tile slot : Nat)
  /-- R148. Global 2-byte load, sign-extended. -/
  | ldgs2 (tile slot : Nat)
  /-- R148. Global 4-byte load, sign-extended. -/
  | ldgs4 (tile slot : Nat)
  /-- R148. Posted global 1-byte store. -/
  | stg1 (tile slot : Nat)
  /-- R148. Posted global 2-byte store. -/
  | stg2 (tile slot : Nat)
  /-- R148. Posted global 4-byte store. -/
  | stg4 (tile slot : Nat)
  /-- R148. Posted global 8-byte store. -/
  | stg8 (tile slot : Nat)
  /-- R148. The reply of a global load or atomic arrives and the thread becomes ready. -/
  | globalLoadReply (tile slot : Nat) (hostData : W64) (poisoned : Bool := false)
  /-- R148. The load/store path accepts a posted store once it has room. -/
  | globalStoreAccept (tile slot : Nat)
  /-- R150. Local 64-bit atomic as one indivisible read-modify-write. -/
  | atoml (tile slot : Nat)
  /-- R150. Global 64-bit atomic. -/
  | atomg (tile slot : Nat)
  /-- R151. Pushes a 128-bit engine instruction into the matrix, vector or copy queue once that queue has room. -/
  | enq (tile slot : Nat)
  /-- R154. The thread waits until an arrival counter reaches a target. -/
  | waitc (tile slot : Nat)
  /-- R154. The counter reaches the target and the waiting thread becomes ready. -/
  | waitcRelease (tile slot : Nat)
  /-- R153. Reads, adds to or sets an arrival counter. -/
  | ctr (tile slot : Nat)
  /-- R156. The thread arrives at its party barrier. -/
  | bar (tile slot : Nat)
  /-- R157. The thread is not ready for FN cycles. -/
  | yield (tile slot : Nat)
  /-- R157. The yield count runs out and the thread becomes ready. -/
  | yieldExpire (tile slot : Nat)
  /-- R149. The thread waits until its earlier stores and atomics are performed at the chosen scope. -/
  | fence (tile slot : Nat)
  /-- R252. The fence's set of requests is covered and the thread becomes ready. -/
  | fenceComplete (who : Fencer)
  /-- R254. A fence not covered after FFENCETO completes with FLT_FENCE_TIMEOUT. -/
  | fenceTimeoutExpire (who : Fencer)
  /-- R159. Reads the time base. -/
  | time (tile slot : Nat)
  /-- R159. Draws one 128-bit word from a random stream. -/
  | rand (tile slot : Nat)
  /-- R159. Reads a thread or tile property. -/
  | sreg (tile slot : Nat)
  /-- R159. Returns the physical tile of a logical tile. -/
  | tmap (tile slot : Nat)
  /-- R158. Ends the thread. -/
  | exit (tile slot : Nat)
  /-- R138. An instruction-cache miss fills a 256-byte line from the program image and the instruction proceeds. -/
  | icacheFill (tile slot : Nat)
  /-- R160. The copy engine starts a copy of rows between global addresses, checked before any byte moves. -/
  | cpy (tile : Nat)
  /-- R161. A signal to add LEN to a counter on a named tile, once every earlier copy of the queue has completed. -/
  | csig (tile : Nat)
  /-- R160. A destination line of a copy is written and the DCTR counter increments. -/
  | copyLineLand (tile copy line : Nat) (hostData : Bytes) (poisoned : Bool := false)
  /-- R160. Every line of a copy is written and acknowledged: the status record is written and then CTR increments. -/
  | copyComplete (tile copy stalls : Nat)
  /-- R160. A copy or CSIG whose remote writes stay unacknowledged past FFENCETO completes with FLT_FENCE_TIMEOUT. -/
  | copyFenceTimeout (who : Mover)
  /-- R168. The LAUNCH descriptor checks a launch table and starts a program on a set of tiles. -/
  | launch (ring : Nat)
  /-- R317. The replay-list form of LAUNCH starts its entries in order as separate launches. -/
  | launchReplayList (ring : Nat)
  /-- R169. A tile that is free starts the launch after its stagger: it loads its streams, zeroes its registers and makes the threads ready. -/
  | launchTileStart (tile : Nat)
  /-- R170. All threads have exited and every engine is idle: the tile writes back its streams and releases its slots. -/
  | launchTileEnd (tile : Nat)
  /-- R170. The WDOG timer expires and every still-running tile stops with FLT_LAUNCH_TIMEOUT. -/
  | launchWatchdogExpire (launch : Nat)
  /-- R171. After a tile stops, the command processor ends the launch on every tile of TSET. -/
  | launchFaultEnd (launch : Nat)
  /-- R180. A corrected bank granule is written back at the lowest priority, unless a write reaches it first. -/
  | bankEccWriteback (tile granule : Nat)
  /-- R181. A bank idle for 100 us with no running launch and RETEN = 1 drops to retention voltage. -/
  | bankRetentionEnter (tile bank : Nat)
  /-- R181. A bank wake of 2 us ends and the waiting requests enter arbitration. -/
  | bankWakeComplete (tile bank : Nat) (upsets : List TileUpset := [])
  /-- R403. A tile-row domain switches on for a launch and its banks clear to zero with valid ECC. -/
  | tileRowPowerOn (domain : Nat)
  /-- R182. The clearing of a powered-on row ends and the banks accept requests. -/
  | bankClearComplete (domain : Nat)
  /-- R183. A mesh message arrives; a single-bit error is corrected and a double-bit error raises FLT_MESH_UE. -/
  | meshMessageDeliver (message : MeshMessage) (errors : MeshErrors)
  /-- R187. A die-to-die beat is checked; a failure is resent, and 16 failures in a row raise FLT_EDGE_DOWN. -/
  | edgeBeatReceive (edge : Nat) (good : Bool)
  /-- R199. An access reaches a pseudo-channel controller, passes the refusal checks and is decoded or written per granule. -/
  | hbmAccess (request : Nat) (upsets : List Upset := [])
  /-- R200. A partial write held for 64 control cycles is written as read, merge and write. -/
  | hbmPartialWriteFlush (granule : Nat)
  /-- R205. A corrected granule is written back at the lowest priority. -/
  | hbmCeWriteback (granule : Nat)
  /-- R201. Refresh takes its slot on a pseudo-channel at the current refresh rate. -/
  | hbmRefresh (channel : Nat)
  /-- R202. Every 1 ms the controller reads a stack's temperature and sets its refresh rate, stop or resume. -/
  | hbmTempRead (stack celsius : Nat)
  /-- R203. A stack stopped for 1 s raises FLT_HBM_STALL, FATAL. -/
  | hbmStallTimeout (stack : Nat)
  /-- R403. A stack with no access for 1 ms enters self-refresh when HBMSR = 1. -/
  | hbmSelfRefreshEnter (stack : Nat)
  /-- R197. A write of MRCOMMIT.GO checks the shadow region table and commits it, or refuses it with FLT_MEM_CONFIG. -/
  | mrcommitGo (host : Nat)
  /-- R197. The new region table is active within 10 us and the waiting accesses proceed. -/
  | mrcommitComplete
  /-- R208. A write of a retirement entry retires or returns a logical 64 KiB granule. -/
  | mretWrite (host index : Nat) (value : W32)
  /-- R210. The descriptor starts hard post-package repair of one row: hold the row, block the pseudo-channel and repair it. -/
  | memRepair (ring : Nat)
  /-- R210. The repair ends: the granules are written back, the channel is unblocked and the descriptor completes. -/
  | memRepairComplete
  /-- R228. Writing PCTLn.EN turns a Rope port OFF or starts its training. -/
  | pctlEnWrite (host port : Nat) (value : W32)
  /-- R228. Writing PCTLn.RETRAIN forces the port back to TRAIN. -/
  | pctlRetrain (host port : Nat)
  /-- R215. The lanes lock and the FEC aligns: the port enters CARD, narrowed under R217 when only half the lanes lock. -/
  | linkTrained (port : Nat) (locked : BitVec 8)
  /-- R222. A lane loses lock and the link goes down to TRAIN. -/
  | laneLockLoss (port : Nat)
  /-- R218. A port sends a data, control or idle flit with its ACK, credit and PACE fields. -/
  | flitSend (port : Nat)
  /-- R221. A flit arrives: it is checked and accepted in order or discarded with NAK, and its credits and PACE are taken. -/
  | flitReceive (port : Nat) (flit : Bytes) (fec : List Codeword)
  /-- R221. 10 us with unacknowledged flits and no advance of FACK starts a replay. -/
  | linkReplayTimeout (port : Nat)
  /-- R222. No intact flit for 100 us takes the link down. -/
  | linkRxTimeout (port : Nat)
  /-- R224. After each 1 us of time base a port sends an idle flit with a time sample. -/
  | timeSampleSend (port : Nat)
  /-- R226. A port sends its card on entering CARD, after a field change, and every 100 ms. -/
  | ropeCardSend (port : Nat)
  /-- R227. A received card is checked in order and sets the port to HELD, TIME_HOLD, MGMT or UP. -/
  | ropeCardEvaluate (port : Nat)
  /-- R226. No card for 300 ms takes the link down. -/
  | cardTimeout (port : Nat)
  /-- R231. A write of FAB.FDEV assigns the device number, refused unless every port is OFF and the job is UNLOCKED. -/
  | fdevWrite (host : Nat) (value : W32)
  /-- R232. A write of RHId commits the whole route entry for device D. -/
  | rhiWrite (host device : Nat) (value : W32)
  /-- R233. A transit part forwards a packet on a usable path, decrementing HOPS, or drops it with FLT_PKT_DROP. -/
  | packetForward (port : Nat)
  /-- R238. At its home die a stream packet is delivered in order, held in the reorder buffer, or treated as a duplicate. -/
  | packetReorder (port : Nat)
  /-- R239. The destination sends an ACK after 64 deliveries or 2 us after an unacknowledged delivery. -/
  | ackSend (src cls : Nat)
  /-- R239. An ACK arrives and advances the stream's acknowledged point. -/
  | ack (port : Nat)
  /-- R240. A stream's 200 us retry timer expires and the unacknowledged packets are resent in order. -/
  | streamRetryExpire (dst cls : Nat)
  /-- R242. A broken stream resends its oldest unacknowledged packet every millisecond. -/
  | brokenStreamResend (dst cls : Nat)
  /-- R241. A READ or ATOMIC without reply 200 us after its last send is resent alone with RETRY = 1. -/
  | requestRetryExpire (tag : Nat)
  /-- R245. A READ request at the target returns its whole line in RDATA, or the stage's view for its own stage. -/
  | read (src : Nat)
  /-- R245. A WRITE replaces a whole line, or is staged when INPITCH = 1. -/
  | write (src : Nat)
  /-- R245. A WRITEM replaces the masked bytes of a line. -/
  | writem (src : Nat)
  /-- R247. An ATOMIC at the target performs one read-modify-write, records a reply-cache entry and returns ARESULT. -/
  | atomic (src : Nat)
  /-- R248. A SIGNAL adds its count to an arrival counter of the named tile. -/
  | signalPacket (src : Nat)
  /-- R257. A read reply arrives; the first reply for a tag is used and later ones are discarded. -/
  | rdata (port : Nat)
  /-- R257. An atomic reply arrives and returns the old value. -/
  | aresult (port : Nat)
  /-- R263. A STATUS reply arrives; a refusal code stops the issuing tile. -/
  | status (port : Nat)
  /-- R255. A reply-cache entry expires after 4 ms and a waiting atomic may proceed. -/
  | replyCacheExpire (die : Nat) (upsets : List BufferUpset := [])
  /-- R259. A read without reply at LOAD_TIMEOUT delivers poison with FLT_TARGET_DEAD; an atomic returns poison with FLT_ATOMIC_UNKNOWN. -/
  | loadTimeoutExpire (tag : Nat)
  /-- R266. A cacheable read at the target is served under R262, setting CACHED, or is answered busy. -/
  | cread (src : Nat)
  /-- R267. A CREAD answered busy, or unanswered for 200 us, is replaced by a plain READ. -/
  | creadAbandon (tag : Nat)
  /-- R264. The REGION descriptor sets the state and owner of a range of regions, with a recall first where needed. -/
  | region (ring : Nat)
  /-- R268. The INVALIDATE descriptor recalls cached copies of SHARED-READ regions and opens the owner's write window. -/
  | invalidate (ring : Nat)
  /-- R268. An owner's RECALL packet at the home part starts the recall of one region. -/
  | recall (src : Nat)
  /-- R268. An INV makes the recipient mark its outstanding CREADs, drop the region's cached lines and answer STATUS 0. -/
  | inv (src : Nat)
  /-- R268. The home part resends INV to a recipient silent for 200 us. -/
  | invResend (region device : Nat)
  /-- R268. Every recipient has answered: CACHED clears, WOPEN is set and the recall is answered. -/
  | recallComplete (region : Nat)
  /-- R268. A recall unfinished after FFENCETO ends with FLT_INVAL_TIMEOUT. -/
  | recallTimeout (region : Nat)
  /-- R268. An owner without an answer by FFENCETO + 200 us sends RECALL again. -/
  | recallResend (ring : Nat)
  /-- R269. A PUBLISH from the owner asks to close the write window of a region. -/
  | publish (src : Nat)
  /-- R269. Once no open stage holds a write to the region, WOPEN clears and the request is answered. -/
  | writeWindowClose (region : Nat)
  /-- R270. A write of FAB.FRLC places or sizes the remote line cache and empties it. -/
  | frlcWrite (host : Nat) (value : W32)
  /-- R270. Writing FRLC.FLUSH empties the remote line cache. -/
  | frlcFlush (host : Nat)
  /-- R272. A write of FCWHIw commits cacheable window w. -/
  | fcwhiWrite (host window : Nat) (value : W32)
  /-- R278. BUCKET DECLARE reads and checks a bucket record and loads it. -/
  | bucketDeclare (ring : Nat)
  /-- R279. BUCKET ARM sets the current step and enables one firing, or holds the arm until closing. -/
  | bucketArm (ring : Nat)
  /-- R279. BUCKET RELEASE returns the bucket to FREE. -/
  | bucketRelease (ring : Nat)
  /-- R280. The watch counter reaches QPACKS: the engine subtracts QPACKS, takes READY and sends the step's lines. -/
  | bucketFire (bucket : Nat)
  /-- R284. A reduction line arrives and is placed in RECV or PUSHRX, or discarded as stray. -/
  | red (src : Nat)
  /-- R285. A complete contribution is decoded and folded into the sum, or into the Sweep accumulator when late. -/
  | contributionFold (bucket owner : Nat)
  /-- R286. At READY + DEADLINE the step closes: sweep added, mean formed, result, record and DCTR written. -/
  | scatterClose (bucket : Nat)
  /-- R289. A received ring partial is added to the own contribution, re-encoded and forwarded. -/
  | ringHop (bucket shard : Nat)
  /-- R290. The shard owner finishes the final partial and writes result, record and DCTR. -/
  | ringClose (bucket : Nat)
  /-- R291. No partial within RRINGTO: FLT_RING_STALL, and the owner closes the step STALLED. -/
  | ringTimeout (bucket : Nat)
  /-- R294. A closed step whose push counter reaches PUSHLEN / 256 sends its push lines to every PUSHED member. -/
  | pushFire (bucket : Nat)
  /-- R295. A PUSHED member closes the step once every owner's push has landed and committed. -/
  | pushedClose (bucket : Nat)
  /-- R305. LOCK checks the job record, computes DIGEST, sets the job epoch and resets streams. -/
  | jobLockLock (ring : Nat)
  /-- R306. UNLOCK returns the part to UNLOCKED and zeroes the job epoch. -/
  | jobLockUnlock (ring : Nat)
  /-- R308. PIPE DECLARE checks a pipe record and sets up one side of a pipe with zeroed counters. -/
  | pipeDeclare (ring : Nat)
  /-- R308. PIPE REMOVE removes a pipe side. -/
  | pipeRemove (ring : Nat)
  /-- R309. When produced count and credit allow, the sender sends pack k as two PIPE packets. -/
  | pipePackSend (pipe : Nat)
  /-- R310. A pipe line lands in its slot and the arrival counter rises when both halves have landed. -/
  | pipe (src : Nat)
  /-- R310. The receiver returns released credits as one SIGNAL within 2 us, or at the belay. -/
  | pipeCreditReturn (pipe : Nat)
  /-- R315. The GATHER descriptor checks a gather table and starts issuing its entries in order. -/
  | gather (ring : Nat)
  /-- R315. An entry whose wait counter has reached WVAL issues its line reads. -/
  | gatherEntryIssue (ring : Nat)
  /-- R320. The PACE descriptor joins, replaces or leaves a pace group. -/
  | pace (ring : Nat)
  /-- R321. A member sends its controller pace to the collector on change and every 100 us. -/
  | paceReportSend
  /-- R321. The collector sends the group pace to every member on change and periodically. -/
  | groupPaceSend
  /-- R321. A KIND 1 MGMT report reaches the collector. -/
  | mgmtPaceReport (port : Nat)
  /-- R322. A KIND 2 MGMT group pace reaches a member, which runs under MATCH or SWEEP. -/
  | mgmtGroupPace (port : Nat)
  /-- R321. 300 us without a group pace below 64 makes the member treat it as 64. -/
  | groupPaceTimeout
  /-- R321. 3 ms without any group pace raises FLT_PACE_LOST. -/
  | paceLostTimeout
  /-- R327. Every WATCH_PERIOD the doorbell block is read and new descriptors are fetched. -/
  | doorbellPoll (host : Nat) (block : Bytes)
  /-- R328. Fetched descriptors are checked by SEQ, accepted, skipped as duplicates or stop the ring, and the shadow head is written. -/
  | descriptorFetch (ring : Nat) (raw : Bytes)
  /-- R330. Once a descriptor and every earlier one have completed, its record is written, with an MSI-X event if asked. -/
  | completionRecordWrite (ring : Nat)
  /-- R329. Writing RCTLn.EN activates a ring pair, or disables it and stops its work. -/
  | rctlEnWrite (host ring : Nat) (value : W32)
  /-- R329. Writing RCTLn.RESTART returns a STOPPED ring pair to ACTIVE. -/
  | rctlRestart (host ring : Nat)
  /-- R335. The COPY descriptor copies LEN bytes and then applies its signal. -/
  | copy (ring : Nat) (outside : List OutsideLine)
  /-- R336. The FENCE descriptor completes when the earlier descriptors have completed and their effects are covered at its scope. -/
  | fenceDescriptor (ring : Nat)
  /-- R337. The WAIT descriptor holds the ring pair until a counter or word condition holds. -/
  | wait (ring : Nat)
  /-- R337. A WAIT word is read once per WATCH_PERIOD and the condition tested. -/
  | waitPoll (ring : Nat) (outsideWord : W64) (poisoned : Bool := false)
  /-- R337. TMO expires: FLT_WAIT_TIMEOUT, and the ring pair stops. -/
  | waitTimeout (ring : Nat)
  /-- R335. The SIGNAL descriptor adds to a counter, at once or deferred to the belay. -/
  | signal (ring : Nat)
  /-- R339. The TIMED descriptor holds the ring pair until the time base reaches AT. -/
  | timed (ring : Nat)
  /-- R339. The time base reaches AT and the ring pair is released, or stops when REQLOCK finds no lock. -/
  | timedRelease (ring : Nat)
  /-- R340. Opens a pitch: staging begins, engines record their counters, FBWORD is zeroed. -/
  | pitchOpen (ring : Nat)
  /-- R348. BELAY starts the two-phase commit of the pitch once its descriptors are done and its requests are covered. -/
  | belay (ring : Nat)
  /-- R348. A participant's answer to SPREP arrives at the source. -/
  | sprepAnswer (port : Nat)
  /-- R348. Prepare answers missing after FFENCETO: the pitch fails with FLT_PREPARE_FAILED. -/
  | belayPrepareTimeout (ring : Nat)
  /-- R348. Commit answers arrive or the wait ends: BELAY completes, the role words turn and deferred descriptors take effect. -/
  | belayComplete (ring : Nat)
  /-- R346. SPREP, SCOMMIT or SQUERY without answer after 200 us is resent with a new SEQ. -/
  | stagePacketResend (tag : Nat)
  /-- R349. The source sends SCOMMIT every 100 ms to each unconfirmed participant. -/
  | scommitResend (record device : Nat)
  /-- R347. At a participant, SPREP prepares the stage or reports it lost or refused. -/
  | sprep (src : Nat)
  /-- R347. At a participant, SCOMMIT commits the PREPARED stage. -/
  | scommit (src : Nat)
  /-- R347. At a participant, SDISCARD drops the stage. -/
  | sdiscard (src : Nat)
  /-- R349. The source answers a participant's query from its decision records. -/
  | squery (src : Nat)
  /-- R350. A PREPARED stage unresolved after FFENCETO sends SQUERY every 1 ms, going in doubt after three silences. -/
  | inDoubtQuery (stage : Nat)
  /-- R345. A committed block's masked pieces are copied home in the background and the block is freed. -/
  | stageBlockCopyHome (block : Nat)
  /-- R357. Stops and discards the attempt, drops deferred descriptors and completes with 0. -/
  | pitchAbort (ring : Nat)
  /-- R353. Stopping an attempt ends: stages discarded, engines restored, and the pitch replays or fails. -/
  | pitchStopComplete (ring : Nat)
  /-- R350. Writing RSRGO with DECIDE = 1 commits the PREPARED stage with the given key. -/
  | rsrgoCommit (host : Nat)
  /-- R350. Writing RSRGO with DECIDE = 2 discards the PREPARED stage with the given key. -/
  | rsrgoDiscard (host : Nat)
  /-- R362. The primary offers its role with a token for 100 ms. -/
  | hoverOffer (host : Nat) (token : W16)
  /-- R362. The other port accepts a standing offer and becomes primary. -/
  | hoverAccept (host : Nat) (token : W16)
  /-- R362. The other port claims the role after the primary's link has been down 100 ms. -/
  | hoverClaim (host : Nat)
  /-- R362. An offer not accepted within 100 ms lapses with FLT_HANDOVER, detail 2. -/
  | handoverOfferLapse
  /-- R364. Declares a snapshot set and writes its role word. -/
  | snapshotDeclare (ring : Nat)
  /-- R365. A KIND 3 query reaches the partner's service die, which answers with its feed and domain. -/
  | mgmtPartnerQuery (port : Nat)
  /-- R365. A KIND 4 answer completes the DECLARE's feed and domain check. -/
  | mgmtPartnerAnswer (port : Nat)
  /-- R365. No partner answer within 10 ms refuses the DECLARE. -/
  | partnerQueryTimeout (ring : Nat)
  /-- R372. Freezes each named READY set, capturing its cursor table. -/
  | snapshotTake (ring : Nat)
  /-- R368. The stream tables are copied into the capture area. -/
  | captureComplete (set : Nat)
  /-- R368. No open stage holds the frozen buffer: the set becomes DRAINING and its drains begin. -/
  | drainStart (set : Nat)
  /-- R376. An NVMe command of a drain or restore completes and the next drain step proceeds. -/
  | nvmeCommandComplete (set drive : Nat) (status : W16) (inbound : List DriveRequest := [])
  /-- R377. A partner-copy step's lines are covered and the next step begins. -/
  | partnerCopyStep (set : Nat)
  /-- R367. Every destination of the drain has ended: the set is READY and the TAKE's signal is applied. -/
  | drainEnd (set : Nat)
  /-- R367. Frees a snapshot set. -/
  | snapshotRelease (ring : Nat)
  /-- R372. Deallocates a slot on each drive and zeroes its manifest copies. -/
  | snapshotDiscard (ring : Nat)
  /-- R379. Reads, verifies and loads an image from the drives into a set. -/
  | restoreLoad (ring : Nat)
  /-- R382. Promotes a standby part's RECV sets to READY from a partner image. -/
  | restorePromote (ring : Nat)
  /-- R370. Replaces data cursor positions, at once or at the belay. -/
  | cursorSet (ring : Nat)
  /-- R371. Binds streams of a set to cursors. -/
  | cursorBind (ring : Nat)
  /-- R373. Writing SNCTL.EN trains the N0 links and initialises the drives. -/
  | snctlEnWrite (host : Nat) (value : W32)
  /-- R384. VIN12 is sampled every 1 us and L and A are updated. -/
  | powerSample (watts : Nat)
  /-- R387. Every 10 us the controller sets pace, shares, boost and hold load under the ranked limits. -/
  | controlTick
  /-- R390. Writing PCAP.WATTS raises C at the next tick or ramps the ceiling down to it. -/
  | pcapWrite (host : Nat) (value : W32)
  /-- R390. Writing PWIN.SEC recomputes A over the new window. -/
  | pwinWrite (host : Nat) (value : W32)
  /-- R395. Writing PFIX.PACE starts or ends fixed-pace mode. -/
  | pfixWrite (host : Nat) (value : W32)
  /-- R400. An ascent hint takes an entry and sets a floor rising to WATTS by START. -/
  | hint (ring : Nat)
  /-- R401. Checks an envelope record, which replaces the active one at its first point. -/
  | envelope (ring : Nat)
  /-- R402. Writing PCFG.ENVCLR ends the active envelope. -/
  | envclr (host : Nat)
  /-- R406. Every 100 us each hot spot's diode and ring oscillator are read and checked. -/
  | sensorRead (spot : Nat) (diode oscillator : Int)
  /-- R409. Each 1 ms at 100 C or above lowers the throttled share one more step. -/
  | throttleStep
  /-- R409. With every source at 97 C or below, the ceilings rise one step each 10 ms. -/
  | throttleRecoverStep
  /-- R411. A die not 5 C cooler within 2 s of FLOOR entry trips the part. -/
  | floorTimeout
  /-- R412. The hardware comparator sees 110 C and trips the part. -/
  | thermalComparatorTrip
  /-- R410. Every 10 ms the coolant sensors are read and warnings and the coolant ceiling are set. -/
  | coolantRead (flow : Nat) (inlet outlet : Nat)
  /-- R410. No coolant reading for 100 ms sets the ceiling to 0.7 C. -/
  | coolantReadTimeout
  /-- R419. Within 1 us of an input change the part re-chooses its leader and upstream. -/
  | leaderElection
  /-- R421. 1 ms in HOLDOVER without an upstream moves the time base to FREE. -/
  | holdoverTimeout
  /-- R421. Writing TEPOCH sets the time epoch and puts the time base in FREE. -/
  | tepochWrite (host : Nat) (value : W32)
  /-- R423. Writing TSETHI sets the time, accepted only in FREE. -/
  | tsethiWrite (host : Nat) (value : W32)
  /-- R426. Reading TNOWLO latches TNOWHI and TNOWF. -/
  | tnowloRead (host : Nat)
  /-- R453. Starts raising the rollback floor to TARGET. -/
  | sfadvGo (host : Nat) (value : W32)
  /-- R453. The counter reaches TARGET and BUSY clears. -/
  | floorAdvanceComplete
  /-- R459. Queues an attestation request through the host port. -/
  | sattGo (host : Nat)
  /-- R458. An attestation report is signed and written, and DONE is set. -/
  | attestReportComplete
  /-- R457. Extends MR10-MR15 with a host-supplied digest. -/
  | smrxGo (host : Nat) (value : W32)
  /-- R460. Reads a debug token and attempts an unlock. -/
  | sdgoGo (host : Nat) (token : Bytes)
  /-- R451. Erases 64 KiB of board flash. -/
  | sfcmdErase (host : Nat)
  /-- R451. Programs 4 KiB of board flash from SFBUF. -/
  | sfcmdProgram (host : Nat)
  /-- R451. Reads 4 KiB of board flash into SFBUF. -/
  | sfcmdRead (host : Nat)
  /-- R451. A flash operation ends and BUSY clears. -/
  | flashOpComplete
  /-- R461. Management command returning one log record. -/
  | getLog (lseq : W32) (via : Endpoint := .smbus)
  /-- R461. Management command returning power and sensor registers. -/
  | getSensors (via : Endpoint := .smbus)
  /-- R461. Management command returning 64 B of the certificate. -/
  | getCert (offset : Nat) (via : Endpoint := .smbus)
  /-- R461. Management command returning an attestation report. -/
  | attest (nonce : Bytes) (via : Endpoint := .smbus)
  /-- R461. Management command returning the debug challenge. -/
  | getChal (via : Endpoint := .smbus)
  /-- R460. Management command attempting a debug unlock with a token. -/
  | unlock (token : Bytes) (via : Endpoint := .smbus)
  /-- R461. Management command returning the boot status registers. -/
  | getBoot (via : Endpoint := .smbus)
  /-- R469. A host read through BAR2 of committed HBM. -/
  | bar2Read (host offset length : Nat)
  /-- R469. A host write through BAR2 to committed HBM. -/
  | bar2Write (host offset : Nat) (data : Bytes) (poisoned : Bool)
  /-- R464. A host read ends with UR, CA or completion timeout and is handled by requester. -/
  | hostReadFailure (who : HostReader)
  /-- R472. A host port trains its link once its domain is enabled. -/
  | hostLinkTrain (host : Nat) (speed : BitVec 3) (lanes : BitVec 4)
  /-- R471. PERSTp_N, hot reset or DL_Down resets the port and stops its work. -/
  | perstAssert (host : Nat)
  /-- R470. An FLR or D3hot entry disables the port's ring pairs and resets its RING and IRQ registers. -/
  | functionLevelReset (host : Nat) (d3hot : Bool := false)
  /-- R473. IMOD.TIME after the first counted event the vector's message is sent. -/
  | msixModerationTimer (host vector : Nat)
  /-- R473. Unmasking a vector with its PBA bit set sends one message at once. -/
  | msixVectorUnmask (host vector : Nat)
  /-- R477. A write of ERR.ELOG places and enables the log ring. -/
  | elogWrite (host : Nat) (value : W32)
  /-- R444. A write of ERR.EMIRCTL enables mirroring to a host port. -/
  | emirctlWrite (host : Nat) (value : W32)
  /-- R67. The TILE_CFG descriptor requests a mode change and marks bad columns. -/
  | tileCfg (ring : Nat)
  /-- R68. With the matrix queue empty and the array idle, the new mode and marks apply and both weight sets go invalid. -/
  | tileCfgTakeEffect (tile : Nat)
  /-- R4. A read of an RC field returns the value and clears it. -/
  | rcRegisterRead (host offset : Nat) (space : HostSpace := .bar0)
  /-- R4. A write to a register field without its own row, checked under R5 and R7. -/
  | registerWrite (host offset : Nat) (value : W32) (space : HostSpace := .bar0)
  /-- R335. The NOP descriptor (opcode 0x00) completes at once, inside or outside a pitch. -/
  | descriptorNop (ring : Nat)
  /-- R333. A descriptor whose OPC is reserved, or whose operation code (BOP, POP, JOP, SOP) is reserved, is refused, completes with its fault and, inside a pitch, ends the pitch. -/
  | descriptorReservedOpcode (ring : Nat)
  /-- R143. A thread issues an instruction word with a reserved OPC and the tile stops with FLT_THREAD_OP, even when the guard is false. -/
  | threadReservedOpcode (tile slot : Nat)
  /-- R101. The matrix engine starts an instruction whose OP is not 0x01-0x03 and refuses it with FLT_MATRIX_OP, writing its status record and counter. -/
  | matrixReservedOpcode (tile : Nat)
  /-- R113. The vector engine starts an instruction with an unlisted OP, refuses it with FLT_VECTOR_OP in one cycle and discards its queue. -/
  | vectorReservedOpcode (tile : Nat)
  /-- R162. The copy engine starts an instruction whose OP is neither 0x80 nor 0x81 and refuses it with FLT_COPY_OP before reading the copy block. -/
  | copyReservedOpcode (tile : Nat)
  /-- R378. A partner-copy destination none of whose lines is covered for FAB.FFENCETO.US ends without an image with FLT_PARTNER_COPY. -/
  | partnerCopyTimeout (set : Nat)
  /-- R403. A stack in self-refresh finishes waking, at most 2 us after its first access, and the waiting access proceeds. -/
  | hbmSelfRefreshExit (stack : Nat)
  /-- R373. The N0 links finish training and the drives finish enumeration and initialisation, and each usable drive is marked in SNAP.SNSTAT. -/
  | nvmeInitComplete (present usable : BitVec 4) (lbaBytes : List Nat) (maxTransfer : List Nat := [])
  /-- R461. An MCTP control message, or a message of an unsupported type, reaches the management core and is answered, the latter as unsupported. -/
  | mctpControlMessage (messageType : Byte) (vendor : Nat := 0) (via : Endpoint := .smbus)
  /-- R468. A BAR0 access of bad size or alignment moves nothing: a read completes with Unsupported Request, a write is discarded, and FLT_HOST_ACCESS detail 2 is raised. -/
  | bar0BadAccess (host offset size : Nat) (isWrite : Bool)
  deriving DecidableEq, Repr

end Sys2Proof
end

