-- ==== Sys2Proof/WellFormed.lean ====
section
/-! DEFINITION. When a command is well-formed: every unit it names exists on the part (R15 to R20, R260, R273, R308,
R325, R363, R406). A command that is not names no step of the part. -/

namespace Sys2Proof

/-- The thread or ring pair a fence belongs to exists. -/
def Fencer.wf : Fencer → Bool
  | .thread t k => decide (t < 1152) && decide (k < 2048)
  | .ring r => decide (r < 32)

/-- The copy engine or ring pair a transfer belongs to exists. -/
def Mover.wf : Mover → Bool
  | .engine t _ => decide (t < 1152)
  | .ring r => decide (r < 32)

/-- The requester of a host read exists. -/
def HostReader.wf : HostReader → Bool
  | .doorbell p => decide (p < 2)
  | .fetch r => decide (r < 32)
  | .descriptor r => decide (r < 32)
  | .thread t k => decide (t < 1152) && decide (k < 2048)
  | .copy t _ => decide (t < 1152)

/-- A request of a drive moves at most a page. -/
def DriveRequest.wf : DriveRequest → Bool
  | .read _ n => decide (n ≤ 4096)
  | .write _ b => decide (b.length ≤ 4096)

/-- An endpoint's host port exists. -/
def Endpoint.wf : Endpoint → Bool
  | .smbus => true
  | .vdm host => decide (host < 2)

/-- Every unit the command names exists. -/
def Instr.wf : Instr → Bool
  | .vauxRise _ => true
  | .rootPllLock _ => true
  | .bootVerify _ => true
  | .pwrOkRise => true
  | .pwrOkFall => true
  | .domainEnable _ => true
  | .hbmTrainingComplete stackN _ _ _ => decide (stackN < 24)
  | .resetNAssert => true
  | .resetNRelease => true
  | .vauxRemove => true
  | .clockLoss => true
  | .logRingUp => true
  | .mload tileN => decide (tileN < 1152)
  | .mloadComplete tileN _ => decide (tileN < 1152)
  | .mswap tileN => decide (tileN < 1152)
  | .mrun tileN => decide (tileN < 1152)
  | .mrunRowWrite tileN _ => decide (tileN < 1152)
  | .mrunCheckSlot tileN _ => decide (tileN < 1152)
  | .mrunComplete tileN _ => decide (tileN < 1152)
  | .vadd tileN => decide (tileN < 1152)
  | .vsub tileN => decide (tileN < 1152)
  | .vmul tileN => decide (tileN < 1152)
  | .vfma tileN => decide (tileN < 1152)
  | .vmin tileN => decide (tileN < 1152)
  | .vmax tileN => decide (tileN < 1152)
  | .vexp2 tileN => decide (tileN < 1152)
  | .vlog2 tileN => decide (tileN < 1152)
  | .vrcp tileN => decide (tileN < 1152)
  | .vrsq tileN => decide (tileN < 1152)
  | .vcmp tileN => decide (tileN < 1152)
  | .vsel tileN => decide (tileN < 1152)
  | .vred tileN => decide (tileN < 1152)
  | .vtrn tileN => decide (tileN < 1152)
  | .vcvt tileN => decide (tileN < 1152)
  | .vmov tileN => decide (tileN < 1152)
  | .vld tileN => decide (tileN < 1152)
  | .vst tileN => decide (tileN < 1152)
  | .vpack tileN => decide (tileN < 1152)
  | .vunpk tileN => decide (tileN < 1152)
  | .vsg1 tileN => decide (tileN < 1152)
  | .rmm tileN => decide (tileN < 1152)
  | .vectorComplete tileN _ => decide (tileN < 1152)
  | .nop tileN slotN => decide (tileN < 1152) && decide (slotN < 2048)
  | .add tileN slotN => decide (tileN < 1152) && decide (slotN < 2048)
  | .sub tileN slotN => decide (tileN < 1152) && decide (slotN < 2048)
  | .mul tileN slotN => decide (tileN < 1152) && decide (slotN < 2048)
  | .mulh tileN slotN => decide (tileN < 1152) && decide (slotN < 2048)
  | .and tileN slotN => decide (tileN < 1152) && decide (slotN < 2048)
  | .or tileN slotN => decide (tileN < 1152) && decide (slotN < 2048)
  | .xor tileN slotN => decide (tileN < 1152) && decide (slotN < 2048)
  | .shl tileN slotN => decide (tileN < 1152) && decide (slotN < 2048)
  | .shr tileN slotN => decide (tileN < 1152) && decide (slotN < 2048)
  | .sar tileN slotN => decide (tileN < 1152) && decide (slotN < 2048)
  | .min tileN slotN => decide (tileN < 1152) && decide (slotN < 2048)
  | .max tileN slotN => decide (tileN < 1152) && decide (slotN < 2048)
  | .minu tileN slotN => decide (tileN < 1152) && decide (slotN < 2048)
  | .maxu tileN slotN => decide (tileN < 1152) && decide (slotN < 2048)
  | .addi tileN slotN => decide (tileN < 1152) && decide (slotN < 2048)
  | .andi tileN slotN => decide (tileN < 1152) && decide (slotN < 2048)
  | .ori tileN slotN => decide (tileN < 1152) && decide (slotN < 2048)
  | .xori tileN slotN => decide (tileN < 1152) && decide (slotN < 2048)
  | .shli tileN slotN => decide (tileN < 1152) && decide (slotN < 2048)
  | .shri tileN slotN => decide (tileN < 1152) && decide (slotN < 2048)
  | .sari tileN slotN => decide (tileN < 1152) && decide (slotN < 2048)
  | .shi tileN slotN => decide (tileN < 1152) && decide (slotN < 2048)
  | .cmp tileN slotN => decide (tileN < 1152) && decide (slotN < 2048)
  | .cmpi tileN slotN => decide (tileN < 1152) && decide (slotN < 2048)
  | .plog tileN slotN => decide (tileN < 1152) && decide (slotN < 2048)
  | .br tileN slotN => decide (tileN < 1152) && decide (slotN < 2048)
  | .brl tileN slotN => decide (tileN < 1152) && decide (slotN < 2048)
  | .jr tileN slotN => decide (tileN < 1152) && decide (slotN < 2048)
  | .ldl1 tileN slotN => decide (tileN < 1152) && decide (slotN < 2048)
  | .ldl2 tileN slotN => decide (tileN < 1152) && decide (slotN < 2048)
  | .ldl4 tileN slotN => decide (tileN < 1152) && decide (slotN < 2048)
  | .ldl8 tileN slotN => decide (tileN < 1152) && decide (slotN < 2048)
  | .ldls1 tileN slotN => decide (tileN < 1152) && decide (slotN < 2048)
  | .ldls2 tileN slotN => decide (tileN < 1152) && decide (slotN < 2048)
  | .ldls4 tileN slotN => decide (tileN < 1152) && decide (slotN < 2048)
  | .stl1 tileN slotN => decide (tileN < 1152) && decide (slotN < 2048)
  | .stl2 tileN slotN => decide (tileN < 1152) && decide (slotN < 2048)
  | .stl4 tileN slotN => decide (tileN < 1152) && decide (slotN < 2048)
  | .stl8 tileN slotN => decide (tileN < 1152) && decide (slotN < 2048)
  | .ldg1 tileN slotN => decide (tileN < 1152) && decide (slotN < 2048)
  | .ldg2 tileN slotN => decide (tileN < 1152) && decide (slotN < 2048)
  | .ldg4 tileN slotN => decide (tileN < 1152) && decide (slotN < 2048)
  | .ldg8 tileN slotN => decide (tileN < 1152) && decide (slotN < 2048)
  | .ldgs1 tileN slotN => decide (tileN < 1152) && decide (slotN < 2048)
  | .ldgs2 tileN slotN => decide (tileN < 1152) && decide (slotN < 2048)
  | .ldgs4 tileN slotN => decide (tileN < 1152) && decide (slotN < 2048)
  | .stg1 tileN slotN => decide (tileN < 1152) && decide (slotN < 2048)
  | .stg2 tileN slotN => decide (tileN < 1152) && decide (slotN < 2048)
  | .stg4 tileN slotN => decide (tileN < 1152) && decide (slotN < 2048)
  | .stg8 tileN slotN => decide (tileN < 1152) && decide (slotN < 2048)
  | .globalLoadReply tileN slotN _ _ => decide (tileN < 1152) && decide (slotN < 2048)
  | .globalStoreAccept tileN slotN => decide (tileN < 1152) && decide (slotN < 2048)
  | .atoml tileN slotN => decide (tileN < 1152) && decide (slotN < 2048)
  | .atomg tileN slotN => decide (tileN < 1152) && decide (slotN < 2048)
  | .enq tileN slotN => decide (tileN < 1152) && decide (slotN < 2048)
  | .waitc tileN slotN => decide (tileN < 1152) && decide (slotN < 2048)
  | .waitcRelease tileN slotN => decide (tileN < 1152) && decide (slotN < 2048)
  | .ctr tileN slotN => decide (tileN < 1152) && decide (slotN < 2048)
  | .bar tileN slotN => decide (tileN < 1152) && decide (slotN < 2048)
  | .yield tileN slotN => decide (tileN < 1152) && decide (slotN < 2048)
  | .yieldExpire tileN slotN => decide (tileN < 1152) && decide (slotN < 2048)
  | .fence tileN slotN => decide (tileN < 1152) && decide (slotN < 2048)
  | .fenceComplete whoN => whoN.wf
  | .fenceTimeoutExpire whoN => whoN.wf
  | .time tileN slotN => decide (tileN < 1152) && decide (slotN < 2048)
  | .rand tileN slotN => decide (tileN < 1152) && decide (slotN < 2048)
  | .sreg tileN slotN => decide (tileN < 1152) && decide (slotN < 2048)
  | .tmap tileN slotN => decide (tileN < 1152) && decide (slotN < 2048)
  | .exit tileN slotN => decide (tileN < 1152) && decide (slotN < 2048)
  | .icacheFill tileN slotN => decide (tileN < 1152) && decide (slotN < 2048)
  | .cpy tileN => decide (tileN < 1152)
  | .csig tileN => decide (tileN < 1152)
  | .copyLineLand tileN _ _ _ _ => decide (tileN < 1152)
  | .copyComplete tileN _ _ => decide (tileN < 1152)
  | .copyFenceTimeout whoN => whoN.wf
  | .launch ringN => decide (ringN < 32)
  | .launchReplayList ringN => decide (ringN < 32)
  | .launchTileStart tileN => decide (tileN < 1152)
  | .launchTileEnd tileN => decide (tileN < 1152)
  | .launchWatchdogExpire _ => true
  | .launchFaultEnd _ => true
  | .bankEccWriteback tileN _ => decide (tileN < 1152)
  | .bankRetentionEnter tileN bankN => decide (tileN < 1152) && decide (bankN < 6)
  | .bankWakeComplete tileN bankN _ => decide (tileN < 1152) && decide (bankN < 6)
  | .tileRowPowerOn domainN => decide (domainN < 108)
  | .bankClearComplete domainN => decide (domainN < 108)
  | .meshMessageDeliver _ _ => true
  | .edgeBeatReceive edgeN _ => decide (edgeN < 24)
  | .hbmAccess _ _ => true
  | .hbmPartialWriteFlush _ => true
  | .hbmCeWriteback _ => true
  | .hbmRefresh channelN => decide (channelN < 768)
  | .hbmTempRead stackN _ => decide (stackN < 24)
  | .hbmStallTimeout stackN => decide (stackN < 24)
  | .hbmSelfRefreshEnter stackN => decide (stackN < 24)
  | .mrcommitGo hostN => decide (hostN < 2)
  | .mrcommitComplete => true
  | .mretWrite hostN indexN _ => decide (hostN < 2) && decide (indexN < 4096)
  | .memRepair ringN => decide (ringN < 32)
  | .memRepairComplete => true
  | .pctlEnWrite hostN portN _ => decide (hostN < 2) && decide (portN < 16)
  | .pctlRetrain hostN portN => decide (hostN < 2) && decide (portN < 16)
  | .linkTrained portN _ => decide (portN < 16)
  | .laneLockLoss portN => decide (portN < 16)
  | .flitSend portN => decide (portN < 16)
  | .flitReceive portN _ fec => decide (portN < 16) && !fec.isEmpty
  | .linkReplayTimeout portN => decide (portN < 16)
  | .linkRxTimeout portN => decide (portN < 16)
  | .timeSampleSend portN => decide (portN < 16)
  | .ropeCardSend portN => decide (portN < 16)
  | .ropeCardEvaluate portN => decide (portN < 16)
  | .cardTimeout portN => decide (portN < 16)
  | .fdevWrite hostN _ => decide (hostN < 2)
  | .rhiWrite hostN deviceN _ => decide (hostN < 2) && decide (deviceN < 4095)
  | .packetForward portN => decide (portN < 16)
  | .packetReorder portN => decide (portN < 16)
  | .ackSend srcN _ => decide (srcN < 4095)
  | .ack portN => decide (portN < 16)
  | .streamRetryExpire dstN _ => decide (dstN < 4095)
  | .brokenStreamResend dstN _ => decide (dstN < 4095)
  | .requestRetryExpire tagN => decide (tagN < 16777216)
  | .read srcN => decide (srcN < 4095)
  | .write srcN => decide (srcN < 4095)
  | .writem srcN => decide (srcN < 4095)
  | .atomic srcN => decide (srcN < 4095)
  | .signalPacket srcN => decide (srcN < 4095)
  | .rdata portN => decide (portN < 16)
  | .aresult portN => decide (portN < 16)
  | .status portN => decide (portN < 16)
  | .replyCacheExpire dieN _ => decide (dieN < 4)
  | .loadTimeoutExpire tagN => decide (tagN < 16777216)
  | .cread srcN => decide (srcN < 4095)
  | .creadAbandon tagN => decide (tagN < 16777216)
  | .region ringN => decide (ringN < 32)
  | .invalidate ringN => decide (ringN < 32)
  | .recall srcN => decide (srcN < 4095)
  | .inv srcN => decide (srcN < 4095)
  | .invResend regionN deviceN => decide (regionN < 793344) && decide (deviceN < 4095)
  | .recallComplete regionN => decide (regionN < 793344)
  | .recallTimeout regionN => decide (regionN < 793344)
  | .recallResend ringN => decide (ringN < 32)
  | .publish srcN => decide (srcN < 4095)
  | .writeWindowClose regionN => decide (regionN < 793344)
  | .frlcWrite hostN _ => decide (hostN < 2)
  | .frlcFlush hostN => decide (hostN < 2)
  | .fcwhiWrite hostN windowN _ => decide (hostN < 2) && decide (windowN < 64)
  | .bucketDeclare ringN => decide (ringN < 32)
  | .bucketArm ringN => decide (ringN < 32)
  | .bucketRelease ringN => decide (ringN < 32)
  | .bucketFire bucketN => decide (bucketN < 256)
  | .red srcN => decide (srcN < 4095)
  | .contributionFold bucketN ownerN => decide (bucketN < 256) && decide (ownerN < 4095)
  | .scatterClose bucketN => decide (bucketN < 256)
  | .ringHop bucketN _ => decide (bucketN < 256)
  | .ringClose bucketN => decide (bucketN < 256)
  | .ringTimeout bucketN => decide (bucketN < 256)
  | .pushFire bucketN => decide (bucketN < 256)
  | .pushedClose bucketN => decide (bucketN < 256)
  | .jobLockLock ringN => decide (ringN < 32)
  | .jobLockUnlock ringN => decide (ringN < 32)
  | .pipeDeclare ringN => decide (ringN < 32)
  | .pipeRemove ringN => decide (ringN < 32)
  | .pipePackSend pipeN => decide (pipeN < 256)
  | .pipe srcN => decide (srcN < 4095)
  | .pipeCreditReturn pipeN => decide (pipeN < 256)
  | .gather ringN => decide (ringN < 32)
  | .gatherEntryIssue ringN => decide (ringN < 32)
  | .pace ringN => decide (ringN < 32)
  | .paceReportSend => true
  | .groupPaceSend => true
  | .mgmtPaceReport portN => decide (portN < 16)
  | .mgmtGroupPace portN => decide (portN < 16)
  | .groupPaceTimeout => true
  | .paceLostTimeout => true
  | .doorbellPoll hostN _ => decide (hostN < 2)
  | .descriptorFetch ringN _ => decide (ringN < 32)
  | .completionRecordWrite ringN => decide (ringN < 32)
  | .rctlEnWrite hostN ringN _ => decide (hostN < 2) && decide (ringN < 32)
  | .rctlRestart hostN ringN => decide (hostN < 2) && decide (ringN < 32)
  | .copy ringN _ => decide (ringN < 32)
  | .fenceDescriptor ringN => decide (ringN < 32)
  | .wait ringN => decide (ringN < 32)
  | .waitPoll ringN _ _ => decide (ringN < 32)
  | .waitTimeout ringN => decide (ringN < 32)
  | .signal ringN => decide (ringN < 32)
  | .timed ringN => decide (ringN < 32)
  | .timedRelease ringN => decide (ringN < 32)
  | .pitchOpen ringN => decide (ringN < 32)
  | .belay ringN => decide (ringN < 32)
  | .sprepAnswer portN => decide (portN < 16)
  | .belayPrepareTimeout ringN => decide (ringN < 32)
  | .belayComplete ringN => decide (ringN < 32)
  | .stagePacketResend tagN => decide (tagN < 16777216)
  | .scommitResend _ deviceN => decide (deviceN < 4095)
  | .sprep srcN => decide (srcN < 4095)
  | .scommit srcN => decide (srcN < 4095)
  | .sdiscard srcN => decide (srcN < 4095)
  | .squery srcN => decide (srcN < 4095)
  | .inDoubtQuery _ => true
  | .stageBlockCopyHome _ => true
  | .pitchAbort ringN => decide (ringN < 32)
  | .pitchStopComplete ringN => decide (ringN < 32)
  | .rsrgoCommit hostN => decide (hostN < 2)
  | .rsrgoDiscard hostN => decide (hostN < 2)
  | .hoverOffer hostN _ => decide (hostN < 2)
  | .hoverAccept hostN _ => decide (hostN < 2)
  | .hoverClaim hostN => decide (hostN < 2)
  | .handoverOfferLapse => true
  | .snapshotDeclare ringN => decide (ringN < 32)
  | .mgmtPartnerQuery portN => decide (portN < 16)
  | .mgmtPartnerAnswer portN => decide (portN < 16)
  | .partnerQueryTimeout ringN => decide (ringN < 32)
  | .snapshotTake ringN => decide (ringN < 32)
  | .captureComplete setN => decide (setN < 16)
  | .drainStart setN => decide (setN < 16)
  | .nvmeCommandComplete setN driveN _ inbound => decide (setN < 16) && decide (driveN < 4) && inbound.all DriveRequest.wf
  | .partnerCopyStep setN => decide (setN < 16)
  | .drainEnd setN => decide (setN < 16)
  | .snapshotRelease ringN => decide (ringN < 32)
  | .snapshotDiscard ringN => decide (ringN < 32)
  | .restoreLoad ringN => decide (ringN < 32)
  | .restorePromote ringN => decide (ringN < 32)
  | .cursorSet ringN => decide (ringN < 32)
  | .cursorBind ringN => decide (ringN < 32)
  | .snctlEnWrite hostN _ => decide (hostN < 2)
  | .powerSample _ => true
  | .controlTick => true
  | .pcapWrite hostN _ => decide (hostN < 2)
  | .pwinWrite hostN _ => decide (hostN < 2)
  | .pfixWrite hostN _ => decide (hostN < 2)
  | .hint ringN => decide (ringN < 32)
  | .envelope ringN => decide (ringN < 32)
  | .envclr hostN => decide (hostN < 2)
  | .sensorRead spotN _ _ => decide (spotN < 228)
  | .throttleStep => true
  | .throttleRecoverStep => true
  | .floorTimeout => true
  | .thermalComparatorTrip => true
  | .coolantRead _ _ _ => true
  | .coolantReadTimeout => true
  | .leaderElection => true
  | .holdoverTimeout => true
  | .tepochWrite hostN _ => decide (hostN < 2)
  | .tsethiWrite hostN _ => decide (hostN < 2)
  | .tnowloRead hostN => decide (hostN < 2)
  | .sfadvGo hostN _ => decide (hostN < 2)
  | .floorAdvanceComplete => true
  | .sattGo hostN => decide (hostN < 2)
  | .attestReportComplete => true
  | .smrxGo hostN _ => decide (hostN < 2)
  | .sdgoGo hostN _ => decide (hostN < 2)
  | .sfcmdErase hostN => decide (hostN < 2)
  | .sfcmdProgram hostN => decide (hostN < 2)
  | .sfcmdRead hostN => decide (hostN < 2)
  | .flashOpComplete => true
  | .getLog _ via => via.wf
  | .getSensors via => via.wf
  | .getCert _ via => via.wf
  | .attest _ via => via.wf
  | .getChal via => via.wf
  | .unlock _ via => via.wf
  | .getBoot via => via.wf
  | .bar2Read hostN _ _ => decide (hostN < 2)
  | .bar2Write hostN _ _ _ => decide (hostN < 2)
  | .hostReadFailure whoN => whoN.wf
  | .hostLinkTrain hostN _ _ => decide (hostN < 2)
  | .perstAssert hostN => decide (hostN < 2)
  | .functionLevelReset hostN _ => decide (hostN < 2)
  | .msixModerationTimer hostN vectorN => decide (hostN < 2) && decide (vectorN < 256)
  | .msixVectorUnmask hostN vectorN => decide (hostN < 2) && decide (vectorN < 256)
  | .elogWrite hostN _ => decide (hostN < 2)
  | .emirctlWrite hostN _ => decide (hostN < 2)
  | .tileCfg ringN => decide (ringN < 32)
  | .tileCfgTakeEffect tileN => decide (tileN < 1152)
  | .rcRegisterRead hostN _ _ => decide (hostN < 2)
  | .registerWrite hostN _ _ _ => decide (hostN < 2)
  | .descriptorNop ringN => decide (ringN < 32)
  | .descriptorReservedOpcode ringN => decide (ringN < 32)
  | .threadReservedOpcode tileN slotN => decide (tileN < 1152) && decide (slotN < 2048)
  | .matrixReservedOpcode tileN => decide (tileN < 1152)
  | .vectorReservedOpcode tileN => decide (tileN < 1152)
  | .copyReservedOpcode tileN => decide (tileN < 1152)
  | .partnerCopyTimeout setN => decide (setN < 16)
  | .hbmSelfRefreshExit stackN => decide (stackN < 24)
  | .nvmeInitComplete _ _ _ _ => true
  | .mctpControlMessage _ _ via => via.wf
  | .bar0BadAccess hostN _ _ _ => decide (hostN < 2)

end Sys2Proof
end

