-- ==== Sys2Proof/Decode.lean ====
section
/-! DEFINITION. The command a word spells. No row of the table of operations and events gives bits, so no word spells
one: the block has no decoder (the commands come as they are). -/

namespace Sys2Proof

/-- The command read from a word of the table's bits: none, for no row gives any. -/
def decodeTableWord (_nbits _w : Nat) : Option Instr := none

end Sys2Proof
end

