-- ==== Sys2Proof/Config.lean ====
section
/-! DEFINITION. What an implementation fixes and the manual does not state: constants and free values. None has a
body, so no proof can rest on a particular value of one. -/

namespace Sys2Proof

/-- The free values the manual leaves open, one for each number a step draws (DESIGN CHOICE, log entry 4). -/
opaque Config.freeWord : Nat → W64

/-- The draw the power controller predicts for the work of the part at given shares, in W: R387 names the prediction
and no rule gives it (DESIGN CHOICE, log entry 12). The arguments are the compute, memory and link shares and the tick's number. -/
opaque Config.predictedDraw : Nat → Nat → Nat → Nat → Nat

/-- SM3 of the vendor public key, held in the mask ROM (R450 step 2; DESIGN CHOICE, log entry 14). -/
opaque Config.romVendorHash : BitVec 256

/-- The seed that the PUF regenerates from its helper data (R456; DESIGN CHOICE, log entry 14). -/
opaque Config.pufSeed : Bytes → BitVec 256

/-- The number k that a signing draws (R458; DESIGN CHOICE, log entry 14). The argument is a draw number. -/
opaque Config.signNonce : Nat → BitVec 256

/-- A challenge from the true random source (R460; DESIGN CHOICE, log entry 14). -/
opaque Config.challenge : Nat → BitVec 256

/-- The eight check symbols of a granule's data and `E2E`: R204 names a Reed–Solomon code and not its field or generator
(DESIGN CHOICE, log entry 110). -/
opaque Config.granuleEcc : Bytes → BitVec 128

/-- The serial number fixed at manufacturing (R475; DESIGN CHOICE, log entry 15). -/
opaque Config.serial : W64

end Sys2Proof
end

