-- ==== Sys2Proof/Machine/State.lean ====
section
/-! DEFINITION. The state of the part as plain data, grouped by subsystem, every field with its reset value beside
it; the two reasons a command can stop; and the state after reset. A register whose reset value the manual does not
give holds zero (DESIGN CHOICE, log entry 2). Times are kept in control cycles (`clk`, 1,200 to the microsecond) unless a field says
nanoseconds of the time base. -/

namespace Sys2Proof.Machine

/-- Byte memory in the canonical form: addresses rising, no entry equal to the byte an unlisted address reads as. -/
abbrev Mem := List Host.Cell

/-- Why a command stops with a fault. -/
inductive Fault where
  /-- The command names a unit the part does not have (a tile above 1151, a port above 15, a ring pair above 31):
  raised by every meaning that takes such a number. Safe: no such step exists on the part. -/
  | noSuchUnit
  deriving DecidableEq, Repr

/-- Why a command is refused. -/
inductive Refusal where
  /-- A row of the table that has no meaning yet: raised only by its own arm. Safe. -/
  | notModelled (mnemonic : String)
  deriving DecidableEq, Repr

/-! ### The tile (chapters 03 to 06) -/

/-- A stored granule whose code no longer matches: one error, which a read corrects, or more (R180, R205). -/
inductive EccMark where
  | correctable | uncorrectable
  deriving DecidableEq, Repr

/-- One of the two weight sets of a tile (R62, R63, R72, R94). Unlisted codes, scales and sums are zero. -/
structure WeightSet where
  valid         : Bool := false
  tag           : BitVec 4 := 0
  cols          : Nat := 0
  squareChecked : Bool := false
  /-- Element code of row r, logical column c at c * 512 + r. -/
  codes         : Table Byte := []
  /-- Scale code of weight block (g, c) at c * 16 + g. -/
  scales        : Table Byte := []
  /-- Square code of (g, h) at g * 8 + h. -/
  squares       : Table Byte := []
  /-- Stored checksum of column k (0 PL, 1 PH, 2 QL, 3 QH), plane p, row r at (k * 8 + p) * 512 + r. -/
  sums          : Table (BitVec 14) := []
  deriving DecidableEq, Repr

/-- What the matrix status record of R106 carries, but for OP and CYCLES. -/
structure MatrixStatus where
  nf       : Bool := false
  aln      : Bool := false
  chkd     : Bool := false
  fault    : W16 := 0
  nfIndex  : W32 := 0xFFFFFFFF
  nfBlock  : W32 := 0xFFFFFFFF
  nfSrc    : BitVec 2 := 3
  chkWhere : Byte := 0
  suspect  : W16 := 0xFFFF
  nfCount  : W32 := 0
  alnCount : W32 := 0
  slots    : W32 := 0
  deriving DecidableEq, Repr

/-- An MLOAD in progress: its word, the fault it meets with the pack and byte, and the set it fills (R70 to R73). -/
structure MatrixLoad where
  word   : W128
  fault  : W16 := 0
  faddr  : W64 := 0
  foff   : Nat := 0
  cycles : Nat := 0
  result : WeightSet := {}
  deriving DecidableEq, Repr

/-- An MRUN in progress: rows written, check slots done and stalls met (R92). `part` and `partScales` hold the slices of
the next vector that have streamed already, because a window ended within it; `sums` is what each row has received over
the slots of the open window, from which the foot's running sums follow (R95). -/
structure MatrixRun where
  word    : W128
  rows    : Nat := 0
  checks  : Nat := 0
  stalls  : Nat := 0
  part    : List (List Int) := []
  partScales : List Nat := []
  sums    : List Int := []
  status  : MatrixStatus := {}
  deriving DecidableEq, Repr

/-- What the vector status record of R133 carries, but for OP and CYCLES. -/
structure VectorStatus where
  nf        : Bool := false
  sat       : Bool := false
  invalid   : Bool := false
  overflow  : Bool := false
  underflow : Bool := false
  inexact   : Bool := false
  divZero   : Bool := false
  fault     : W16 := 0
  nfIndex   : W32 := 0xFFFFFFFF
  nfBlock   : W32 := 0xFFFFFFFF
  nfSrc     : BitVec 2 := 3
  invReg    : Byte := 0
  invPos    : W16 := 0xFFFF
  nfCount   : W32 := 0
  satCount  : W32 := 0
  rwords    : W32 := 0
  deriving DecidableEq, Repr

/-- A vector instruction under way (R112). A register-to-register instruction writes its destination in its last cycle
(R111): `dest` is its specifier, 2 for none, and `words` what it then holds. -/
structure VectorRun where
  word   : W128
  cycles : Nat
  dest   : Nat := 2
  words  : List W32 := []
  /-- The pack and byte that a refused pack fault names (R50). -/
  faddr  : W64 := 0
  foff   : Nat := 0
  status : VectorStatus := {}
  deriving DecidableEq, Repr

/-- One stream's point that an acknowledgement must pass: the test of R252. -/
structure Cover where
  dst : Nat
  cls : Nat
  seq : W32
  deriving DecidableEq, Repr

/-- The copy block of R160, decoded. -/
structure CopyBlock where
  src   : W64
  dst   : W64
  len   : W32
  rows  : W32
  sstr  : W32
  dstr  : W32
  dctr  : Byte
  dcen  : Bool
  fill  : Bool
  deriving DecidableEq, Repr

/-- A copy or CSIG in flight and what its status record of R163 carries. -/
structure CopyRun where
  id     : Nat
  word   : W128
  block  : CopyBlock
  /-- Destination lines still to be written, in the order of issue: the first row that touches the line, its address. -/
  todo   : List (Nat × W64) := []
  cover  : List Cover := []
  tags   : List Nat := []
  poison : Bool := false
  fault  : W16 := 0
  lines  : Nat := 0
  bytes  : Nat := 0
  faddr  : W64 := 0
  start  : Nat := 0
  lastSent : Nat := 0
  /-- A line of it was discarded on the mesh: it never completes (R183). -/
  lost   : Bool := false
  deriving DecidableEq, Repr

/-- The state of a slot as byte 133 of its context shows it (R140). -/
inductive ThreadPhase where
  | free | ready | waiting | exited
  deriving DecidableEq, Repr

/-- What a waiting thread waits for (R136). -/
inductive Waiting where
  | nothing
  /-- A global load or atomic: its request, the destination register, the size in bytes, sign extension. -/
  | reply (request : Nat) (rd : Nat) (size : Nat) (signed : Bool)
  /-- A posted store the load/store path has not taken yet: address, size, value (R148). -/
  | accept (addr : W64) (size : Nat) (value : W64)
  | counter (index : Nat) (target : W32)
  | barrier
  | yield (until_ : Nat)
  /-- A fence: scope, own earlier requests to this part, streams to be covered, outstanding tags, start (R252). -/
  | fence (scope : BitVec 2) (requests : List Nat) (cover : List Cover) (tags : List Nat) (start : Nat)
  deriving DecidableEq, Repr

/-- A thread (R139). Register n is listed at n; unlisted registers read zero. -/
structure Thread where
  g     : Table W64 := []
  p     : BitVec 4 := 1
  pc    : W32 := 0
  phase : ThreadPhase := .free
  wait  : Waiting := .nothing
  /-- The thread's own earlier remote requests: the last sequence sent on each stream (R252). -/
  sent  : List Cover := []
  /-- Program counter and word of the instruction issued last, for a fault record (R171). -/
  ipc   : W32 := 0
  iw    : W32 := 0
  /-- The control cycle from which it may issue again (R136). -/
  readyAt : Nat := 0
  deriving DecidableEq, Repr

/-- The changes of an arrival counter in one control cycle (R152, R154): the cycle, the value before them, and what was
added. -/
structure CounterChange where
  at_ : Nat
  was : W32
  add : W32
  deriving DecidableEq, Repr

/-- A random stream (R164, R166). -/
structure RandomStream where
  key   : W128 := 0
  ctr   : W64 := 0
  draws : W32 := 0
  deriving DecidableEq, Repr

/-- Power state of a bank (R181, R182). -/
inductive BankPower where
  | on | retention | waking | clearing | off
  deriving DecidableEq, Repr

/-- A bank's power state, since when, and its last access (R181). -/
structure BankState where
  power  : BankPower := .off
  since  : Nat := 0
  access : Nat := 0
  deriving DecidableEq, Repr

/-- A mode change or new marks waiting for the matrix queue to empty (R68). -/
structure TileConfig where
  ring : Nat
  mode : BitVec 2
  keep : Bool
  bad  : BitVec 260
  deriving DecidableEq, Repr

/-- One tile. -/
structure Tile where
  -- the matrix array
  mode      : BitVec 2 := 2
  badMap    : BitVec 260 := 0
  active    : WeightSet := {}
  shadow    : WeightSet := {}
  mqueue    : List W128 := []
  mload     : Option MatrixLoad := none
  mruns     : List MatrixRun := []
  config    : Option TileConfig := none
  mismatch  : W16 := 0
  suspect   : W16 := 0xFFFF
  ainex     : W32 := 0
  acc0      : Table W32 := []
  acc1      : Table W32 := []
  -- the vector engine
  vregs     : Table W32 := []
  vqueue    : List W128 := []
  vrun      : Option VectorRun := none
  -- the copy engine
  cqueue    : List W128 := []
  copies    : List CopyRun := []
  -- threads
  threads   : Table Thread := []
  lastIssue : Table Nat := []
  /-- The control cycle in which each pipe issued last (R135). -/
  issuedAt  : Table Nat := []
  /-- The last control cycle in which ENQ was issued, with the queue and the pipe of each (R151). -/
  enqAt     : Nat := 0
  enqs      : List (Nat × Nat) := []
  /-- Slots of party k that have arrived at its barrier. -/
  barriers  : Table (List Nat) := []
  counters  : Table W32 := []
  /-- The latest changes of each counter. -/
  changes   : Table CounterChange := []
  streams   : Table RandomStream := []
  /-- Cached lines: line number of the image, and its 256 bytes. -/
  icache    : Table Bytes := []
  /-- Requests held by the load/store path (R137). -/
  lsu       : List Nat := []
  -- the launch on the tile
  launch    : Option Nat := none
  logical   : Nat := 0
  /-- The time base when it last became free, in nanoseconds (R396, R424). -/
  freeNs    : Nat := 0
  trun      : BitVec 2 := 0
  parties   : BitVec 8 := 0
  tfltCode  : W16 := 0
  tfltSlot  : BitVec 11 := 0
  tfpc      : W32 := 0
  tfiw      : W32 := 0
  -- the banks
  mem       : Mem := []
  marks     : Table EccMark := []
  storeMarks : List (TileStore × EccMark) := []
  banks     : Table BankState := []
  /-- Corrected granules still to be written back (R180). -/
  writeback : List Nat := []
  deriving DecidableEq, Repr

/-- One launch: its table of R167 with the replacements of a replay list applied, and its progress. -/
structure Launch where
  id      : Nat
  ring    : Nat
  img     : W64
  imgLen  : W32
  entry   : W32
  args    : W64
  strm    : W64
  nparty  : Nat
  psize   : Nat
  czero   : Bool
  rot     : Bool
  wdog    : W32
  ltAddr  : W64
  /-- Logical tiles of TSET. -/
  tset    : List Nat
  nowb    : Bool := false
  /-- The map from logical to physical tiles that it was accepted under (R404). -/
  lmap    : Table Nat := []
  /-- Physical tiles started and ended. -/
  started : List Nat := []
  ended   : List Nat := []
  /-- Time-base nanoseconds when it was accepted, and the control cycle from which one of its tiles was free: its start. -/
  atNs    : Nat := 0
  begunAt : Option Nat := none
  /-- Its fault, the control cycle of it, and the tile. -/
  fault   : W16 := 0
  faultAt : Nat := 0
  faultTile : W16 := 0xFFFF
  clamped : Bool := false
  /-- Its pitch attempt stopped, or its ring pair was disabled. -/
  stopped : Bool := false
  finished : Bool := false
  deriving DecidableEq, Repr

/-- Who issued a memory request. -/
inductive Issuer where
  | thread (tile slot : Nat)
  | copy (tile copy : Nat)
  | ring (ring : Nat)
  | remote (src : Nat)
  | engine
  /-- The fabric agent of a compute die (R309). -/
  | agent
  deriving DecidableEq, Repr

/-- What a memory request does. -/
inductive MemAct where
  | read
  | write (data : Bytes)
  | atomic (op : BitVec 3) (operand compare : W64)
  deriving DecidableEq, Repr

/-- What came back for a request: bytes with their check's state, or the fault that refused it. -/
inductive Reply where
  | none
  | data (bytes : Bytes) (state : LineState)
  | refused (code : W16)
  deriving DecidableEq, Repr

/-- A request under way on the networks of the part (R183 to R186, R199). `addr` is a global address. -/
structure MemReq where
  id     : Nat
  issuer : Issuer
  act    : MemAct
  addr   : W64
  len    : Nat
  /-- The ring pair whose open pitch the issuer is a member of, and the launch it was issued in. -/
  view   : Option Nat := none
  launch : Option Nat := none
  /-- It has left the networks of the part, and its reply is awaited. -/
  away   : Bool := false
  reply  : Reply := .none
  deriving DecidableEq, Repr

/-- State of a die-to-die edge (R187). -/
structure Edge where
  fails : Nat := 0
  down  : Bool := false
  deriving DecidableEq, Repr

/-! ### HBM (chapter 07) -/

/-- A region's entry (R193). -/
structure Region where
  mode  : BitVec 2
  die   : BitVec 4
  frame : BitVec 7
  deriving DecidableEq, Repr

/-- How a granule's cells and side-band differ from fresh ones (R204): bits that have flipped since the last write, by symbol
(0 to 127 of the data, 128 and 129 of `E2E`, 130 to 137 of `ECC`), and `CHKBAD`. -/
structure GranuleMark where
  flips  : List (Nat × W16) := []
  chkBad : Bool := false
  deriving DecidableEq, Repr

/-- A stack (R202, R203, R211, R214, R403). -/
structure Stack where
  temp     : Byte := 0
  refresh  : BitVec 2 := 0
  stop     : Bool := false
  stopAt   : Nat := 0
  trained  : Bool := false
  failed   : Bool := false
  access   : Nat := 0
  selfRef  : Bool := false
  waking   : Bool := false
  wakeAt   : Nat := 0
  ce       : W32 := 0
  deriving DecidableEq, Repr

/-- A partial write held for its partner (R200): the byte mask written, since when, and whether a marked-bad line is
among it (R430). -/
structure HeldWrite where
  mask  : BitVec 256
  since : Nat
  bad   : Bool := false
  deriving DecidableEq, Repr

/-- A row repair in progress (R210). -/
structure Repair where
  ring : Nat
  pc   : Nat
  bank : Nat
  row  : Nat
  /-- The row's granules in the holding buffer, each with its `CHKBAD`. -/
  held : List (Bytes × Bool)
  deriving DecidableEq, Repr

/-- The HBM memory system. Memory and marks are kept by physical place, channel * 2^31 + local, because a commit of
the region table moves no contents (R197). Unlisted bytes are zero (R494). -/
structure Hbm where
  mem       : Mem := []
  marks     : Table GranuleMark := []
  held      : Table HeldWrite := []
  /-- Shadow and active region table; an unlisted region has its reset entry (R193). -/
  shadow    : Table Region := []
  active    : Table Region := []
  commit    : Option (Table Region) := none
  commitAt  : Nat := 0
  refused   : Bool := false
  /-- The control cycle in which `REFUSED` was last set (R6). -/
  refusedAt : Option Nat := none
  first     : BitVec 11 := 0
  why       : BitVec 3 := 0
  /-- Retirement entries: granule and VALID (R208). -/
  retired   : Table (BitVec 25 × Bool) := []
  muecnt    : W32 := 0
  stk       : Table Stack := []
  logged    : List Nat := []
  /-- Granules that have raised FLT_HBM_UE since power-up (R207). -/
  ueSeen    : List Nat := []
  repaired  : List Nat := []
  spares    : Table Nat := []
  repair    : Option Repair := none
  writeback : List Nat := []
  /-- Slots of refresh taken, by pseudo-channel (R201). -/
  refreshed : Table Nat := []
  deriving DecidableEq, Repr

/-! ### The Rope fabric and remote memory (chapters 08 and 09) -/

/-- A packet (R235). `reserved` says that a bit the header reserves was set. -/
structure Packet where
  typ      : Byte
  cls      : BitVec 2
  path     : BitVec 3 := 0
  retry    : Bool := false
  hops     : Byte := 0
  src      : BitVec 12
  dst      : BitVec 12
  seq      : W32 := 0
  epoch    : W16 := 0
  pitch    : W16 := 0
  addr     : BitVec 52 := 0
  aux      : Byte := 0
  ring     : BitVec 5 := 0
  inPitch  : Bool := false
  tag      : BitVec 24 := 0
  e2e      : W32 := 0
  payload  : Bytes := []
  reserved : Bool := false
  deriving DecidableEq, Repr

/-- A rope card (R225). -/
structure Card where
  cver    : Byte := 1
  port    : BitVec 4 := 0
  devNum  : BitVec 12 := 0xFFF
  valid   : Bool := false
  fwMajor : Byte := 0
  fwMinor : Byte := 0
  fwPatch : W16 := 0
  domain  : W32 := 0
  feed    : W32 := 0
  rack    : W32 := 0
  tepoch  : W32 := 0
  jepoch  : W64 := 0
  digest  : W128 := 0
  tlock   : Bool := false
  reserved : Bool := false
  deriving DecidableEq, Repr

/-- A port's state (R228, R243). -/
inductive PortPhase where
  | off | train | card | held | timeHold | mgmt | up
  deriving DecidableEq, Repr

/-- A flit kept for replay or just sent: its FSEQ and bytes 8 to 247, and whether it is a control flit. -/
structure KeptFlit where
  fseq    : W16
  control : Bool
  payload : Bytes
  deriving DecidableEq, Repr

/-- The last time sample of a port (R224, R420). Times are nanoseconds * 2^16. -/
structure TimeSample where
  valid   : Bool := false
  tx      : Nat := 0
  echo    : Nat := 0
  rxAt    : Nat := 0
  arrived : Nat := 0
  leader  : BitVec 12 := 0
  leaderValid : Bool := false
  ldist   : Byte := 0
  locked  : Bool := false
  at_     : Nat := 0
  deriving DecidableEq, Repr

/-- A Rope port. -/
structure Port where
  en        : Bool := false
  degradeOk : Bool := true
  phase     : PortPhase := .off
  narrow    : Bool := false
  pair      : Bool := false
  why       : BitVec 3 := 0
  peer      : BitVec 12 := 0
  pport     : BitVec 4 := 0
  fecc      : W32 := 0
  fecu      : W32 := 0
  replays   : W32 := 0
  downs     : W16 := 0
  pre1      : BitVec 6 := 0
  mainCur   : BitVec 6 := 0
  post1     : BitVec 6 := 0
  -- link retry
  nextSeq   : W16 := 0
  facked    : W16 := 0xFFFF
  ackAt     : Nat := 0
  kept      : List KeptFlit := []
  /-- Kept flits still to be sent again, and how many replays in a row began at one FSEQ. -/
  replay    : List KeptFlit := []
  replayAt  : W16 := 0
  replayRun : Nat := 0
  rxLast    : W16 := 0xFFFF
  nakOut    : Bool := false
  rxAt      : Nat := 0
  -- credits: units sent and the last CCNT received, units freed, by class
  sentUnits : Table W16 := []
  gotCcnt   : Table W16 := []
  freed     : Table W16 := []
  cclass    : BitVec 2 := 0
  -- packets
  txq       : List Packet := []
  /-- Bytes of packets laid out and not yet sent in flits, and bytes of a partly received packet. -/
  txBytes   : Bytes := []
  rxBytes   : Bytes := []
  arrived   : List Packet := []
  /-- How many packets at the front of `arrived` came before the last entry to CARD: their units are counted no more (R223). -/
  stale     : Nat := 0
  -- cards, samples, pace
  cardDue   : Bool := false
  cardSentAt : Nat := 0
  cardAt    : Nat := 0
  card      : Option Card := none
  cardFresh : Bool := false
  sample    : TimeSample := {}
  /-- The time base when the last time-sample idle was due (whole microseconds). -/
  sampleUs  : Nat := 0
  announced : BitVec 7 := 0
  /-- Flit slots of the present group of 64 that have passed, and those of them that carried packets (R392). -/
  slots     : Nat := 0
  started   : Nat := 0
  deriving DecidableEq, Repr

/-- A packet of a stream's source: how often it was sent again, whether it was sent, and when last (R240). -/
structure SentPacket where
  packet : Packet
  sent   : Bool := true
  again  : Nat := 0
  at_    : Nat := 0
  deriving DecidableEq, Repr

/-- The source side of a stream (R237, R240, R242). -/
structure TxStream where
  dst     : Nat
  cls     : Nat
  nextSeq : W32 := 0
  acked   : W32 := 0
  unacked : List SentPacket := []
  retries : Nat := 0
  /-- Sequences that the last expiry of the timer queued again (R240). -/
  rerun   : List W32 := []
  broken  : Bool := false
  advance : Nat := 0
  resentAt : Nat := 0
  deriving DecidableEq, Repr

/-- The receiving side of a stream (R238, R239): a delivered packet is marked when it is a duplicate. -/
structure RxStream where
  src       : Nat
  cls       : Nat
  expected  : W32 := 0
  held      : List Packet := []
  delivered : List (Packet × Bool) := []
  deriving DecidableEq, Repr

/-- A reply-cache entry (R255). -/
structure ReplyEntry where
  die : Nat
  src : Nat
  seq : W32
  old : W64
  at_ : Nat
  deriving DecidableEq, Repr

/-- What an outstanding tagged request is for. -/
inductive TagUse where
  | request (id : Nat)
  | copyLine (tile copy : Nat)
  /-- A line of a GATHER, issued by the agent of a die. -/
  | gatherLine (die ring entry line : Nat)
  /-- SPREP or SCOMMIT of a ring pair to a participant (R346). -/
  | sprep (ring device : Nat)
  | scommit (record device : Nat)
  | squery (src ring pitch : Nat)
  | recall (ring region : Nat)
  | inval (region device : Nat)
  | publish (region : Nat)
  /-- A source line of a COPY descriptor (R335), and the word of a WAIT (R337). -/
  | copyRead (ring line : Nat)
  | waitRead (ring : Nat)
  deriving DecidableEq, Repr

/-- A request to another part with its tag outstanding (R241, R257, R259). -/
structure Outstanding where
  tag     : Nat
  use_    : TagUse
  packet  : Packet
  /-- Control cycle in which it entered its stream, of its last sending, and the sends made again. -/
  entered : Nat
  sentAt  : Nat
  again   : Nat := 0
  /-- A CREAD marked not to be installed (R268), and one answered busy (R267). -/
  noInstall : Bool := false
  busy    : Bool := false
  reply   : Reply := .none
  deriving DecidableEq, Repr

/-- A route entry (R232): eight paths of port and valid bit, and the entry's valid bit. -/
structure Route where
  paths : BitVec 40 := 0
  valid : Bool := false
  deriving DecidableEq, Repr

/-- A cacheable window (R266). -/
structure CacheWindow where
  first : BitVec 20 := 0
  dev   : BitVec 12 := 0
  count : BitVec 20 := 0
  valid : Bool := false
  deriving DecidableEq, Repr

/-- Who asked for a recall or the closing of a window: a descriptor here or a packet from a part. -/
inductive Asker where
  | ring (ring : Nat)
  | part (src : Nat) (tag : BitVec 24)
  deriving DecidableEq, Repr

/-- A recall of one region (R268). `then_` is the REGION change that waits for it (R264). -/
structure Recall where
  region  : Nat
  asker   : Asker
  waiting : List Nat
  start   : Nat
  then_   : Option W16 := none
  deriving DecidableEq, Repr

/-- A write window being closed (R269): the new OWNER when a REGION descriptor closes it. -/
structure Closing where
  region : Nat
  asker  : Asker
  owner  : Option (BitVec 12)
  deriving DecidableEq, Repr

/-- The fabric's registers, ports, streams and remote-memory units. -/
structure Fabric where
  devNum    : BitVec 12 := 0xFFF
  devValid  : Bool := false
  domain    : W32 := 0
  partner   : W32 := 0
  hops      : Byte := 16
  drops     : Table W32 := []
  ports     : Table Port := []
  /-- Route entries, and the path bits an RLO write buffers (R232). -/
  routes    : Table Route := []
  rlo       : Table (BitVec 30) := []
  tx        : List TxStream := []
  rx        : List RxStream := []
  outstanding : List Outstanding := []
  nextTag   : Nat := 0
  replyCache : List ReplyEntry := []
  rcWait    : W32 := 0
  /-- Atomics counted as waiting for a reply-cache entry: source and sequence (R255). -/
  rcWaiting : List (Nat × W32) := []
  loadTo    : BitVec 17 := 2000
  fenceTo   : BitVec 17 := 4000
  late      : W32 := 0
  /-- Last logging of a once-per-millisecond fault by key (R234, R259). -/
  logAt     : Table Nat := []
  -- ownership
  owners    : Table W16 := []
  ownSel    : BitVec 20 := 0
  ownViol   : W32 := 0
  busy      : W32 := 0
  recalls   : List Recall := []
  closings  : List Closing := []
  -- remote line cache
  /-- Words of the fabric dies' buffers whose code does not match (R434). -/
  bufMarks  : List (BufferPlace × EccMark) := []
  rlcRegion : BitVec 11 := 0
  rlcSize   : BitVec 2 := 0
  rlcHit    : W32 := 0
  rlcMiss   : W32 := 0
  windows   : Table CacheWindow := []
  cwLo      : Table W32 := []
  deriving DecidableEq, Repr

/-! ### The reduction engine (chapter 10) -/

/-- States of a bucket (R279). -/
inductive BucketPhase where
  | free | declared | armed | fired | closed
  deriving DecidableEq, Repr

/-- The bucket record of R275, decoded. -/
structure BucketRecord where
  ring_   : Bool := false
  mean    : Bool := false
  nmem    : Nat := 0
  qpacks  : Nat := 0
  mlist   : W64 := 0
  send    : W64 := 0
  recv    : W64 := 0
  result  : W64 := 0
  sweepA  : W64 := 0
  digA    : W64 := 0
  rrec    : W64 := 0
  pushSrc : W64 := 0
  pushRx  : W64 := 0
  pushLen : Nat := 0
  wtile   : Nat := 0
  wctr    : Byte := 0
  pctr    : Byte := 0
  dctr    : Byte := 0
  sctr    : Byte := 0
  ascale  : Byte := 0
  hostRing : Nat := 0
  deadline : Nat := 500
  ckey    : W128 := 0
  /-- Member list: device number and role (true for PUSHED), in list order (R276). -/
  members : List (Nat × Bool) := []
  deriving DecidableEq, Repr

/-- A bucket. The sum of R285 is kept by shard element, unlisted elements +0; the Sweep accumulator and the digests lie
in the bucket's areas of HBM. -/
structure Bucket where
  phase    : BucketPhase := .free
  record   : BucketRecord := {}
  step     : W32 := 0
  heldArm  : Bool := false
  /-- Time-base nanoseconds of `READY`, and the control cycle of the firing. -/
  ready    : Nat := 0
  firedAt  : Nat := 0
  acc      : Table W32 := []
  onTime   : List Nat := []
  /-- Owners folded into the Sweep since the last closing (R287). -/
  sweepBits : List Nat := []
  /-- Lines landed, by step and owner (RING: by step and hop). -/
  landed   : List (W32 × Nat × Nat) := []
  /-- Contributions complete and not yet folded, in order of completion: step, owner, control cycle. -/
  complete : List (W32 × Nat × Nat) := []
  /-- Contributions folded or excluded. -/
  taken    : List (W32 × Nat) := []
  /-- The Sweep window of the step before is open. -/
  sweepOpen : Bool := false
  /-- Hops forwarded or finished (R288). -/
  hops     : List Nat := []
  rescaled : Bool := false
  sat      : Bool := false
  pushFired : Bool := false
  /-- Push lines landed, by owner index (R295). -/
  pushed   : List (Nat × Nat) := []
  /-- Counters recorded at PITCH_OPEN, firings of the pitch so far, and those a replay repeats (R296). -/
  watchRec : W32 := 0
  pushRec  : W32 := 0
  fires    : Nat := 0
  again    : Nat := 0
  chain    : W128 := 0
  deriving DecidableEq, Repr

/-- The lines that a firing sent: their streams, whether all have been sent, and the counter that counts their acknowledgement
(R282). -/
structure SendSet where
  bucket : Nat
  step   : W32
  tile   : Nat
  ctr    : Nat
  done   : Bool := false
  cover  : List Cover := []
  deriving DecidableEq, Repr

/-- The RED block and the buckets. -/
structure Reduction where
  ringTo  : BitVec 17 := 10000
  rescale : W32 := 0
  late    : W32 := 0
  drop    : W32 := 0
  stray   : W32 := 0
  nf      : W32 := 0
  badPk   : W32 := 0
  buckets : Table Bucket := []
  /-- Steps whose lines are not all acknowledged, oldest first. -/
  sends   : List SendSet := []
  deriving DecidableEq, Repr

/-! ### The job (chapter 11) -/

/-- One side of a pipe (R308). -/
structure Pipe where
  receiving : Bool
  peer      : Nat
  pnum      : Nat
  ring      : Nat
  ctile     : Nat
  c1        : Byte
  c2        : Byte
  peerTile  : Nat
  peerCtr   : Byte
  area      : W64
  slots     : Nat
  /-- Packs sent, and their number at PITCH_OPEN. -/
  k         : W32 := 0
  base      : W32 := 0
  halves    : List (W32 × Bool) := []
  fold      : W32 := 0
  fold2     : Option W32 := none
  /-- Packs already sent that a replay has produced again. -/
  again     : W32 := 0
  recorded  : W32 := 0
  /-- Release count for which credits were returned. -/
  credited  : W32 := 0
  releaseAt : Nat := 0
  deriving DecidableEq, Repr

/-- The pace group (R320, R321). -/
structure PaceGroup where
  mode      : BitVec 2 := 0
  collector : Nat := 0
  group     : W32 := 0
  members   : List Nat := []
  /-- Collector: device, pace and time of each report of the last 300 µs (R321). -/
  reports   : List (Nat × Nat × Nat) := []
  groupPace : Nat := 64
  sentPace  : Nat := 64
  sentAt    : Nat := 0
  reported  : Nat := 64
  reportAt  : Nat := 0
  lastBelow : Nat := 0
  lastAny   : Nat := 0
  lost      : Bool := false
  deriving DecidableEq, Repr

/-- The job lock, the pipes and the pace group. -/
structure Job where
  locked : Bool := false
  jepoch : W64 := 0
  digest : W128 := 0
  role   : Byte := 0
  nstage : W16 := 0
  vstages : Byte := 0
  pidx   : W16 := 0
  pcount : W16 := 0
  pipes  : Table Pipe := []
  pace   : PaceGroup := {}
  deriving DecidableEq, Repr

/-! ### Rings and pitches (chapter 12) -/

/-- States of a ring pair (R329). -/
inductive RingPhase where
  | disabled | active | stopped
  deriving DecidableEq, Repr

/-- What a started descriptor is doing. -/
inductive DescRun where
  | none
  | launch (ids : List Nat)
  /-- A COPY or SIGNAL whose remote writes (and then whose signal) await acknowledgement. -/
  | cover (streams : List Cover) (signal : Bool) (lastSent : Nat)
  /-- A COPY from another part: source lines asked for, destination lines landed, bytes written, and the address of its
  first poisoned line. -/
  | copying (asked landed done : Nat) (poison : Option W64)
  | fence (start : Nat) (streams : List Cover)
  /-- Start, cycle of the next read of the word, last value read. -/
  | wait (start nextPoll : Nat) (last : W64)
  | timed
  /-- The table, the entry and the line of it to issue next, lines issued and not landed, and the fault so far. -/
  | gather (table : Bytes) (next line left : Nat) (fault : W16)
  | belay
  | stopping
  | recall (left : List Nat)
  | repair
  | tileCfg (tile : Nat)
  /-- A DECLARE that waits for its partner's answer, with its record (R365). -/
  | partner (record : Bytes)
  deriving DecidableEq, Repr

/-- Progress of an accepted descriptor. -/
inductive DescPhase where
  | accepted | running | done
  deriving DecidableEq, Repr

/-- An accepted descriptor: its count on the ring, its 64 bytes, its progress and its outcome (R330). -/
structure Desc where
  index    : Nat
  raw      : Bytes
  phase    : DescPhase := .accepted
  run      : DescRun := .none
  fault    : W16 := 0
  detail   : Bytes := []
  timeNs   : Nat := 0
  inPitch  : Bool := false
  replayed : Bool := false
  discarded : Bool := false
  /-- Its pitch has ended: the outcome above is the one its record carries (R356). -/
  sealed   : Bool := false
  deriving DecidableEq, Repr

/-- States of a ring pair's pitch (R351). -/
inductive PitchPhase where
  | none | open | stopping | preparing | committing
  deriving DecidableEq, Repr

/-- The pitch of a ring pair (R340, R348, R351). -/
structure Pitch where
  phase     : PitchPhase := .none
  attempt   : Nat := 0
  id        : W16 := 0
  previous  : W16 := 0
  nfMax     : W32 := 0
  satMax    : W32 := 0
  step      : W32 := 0
  fbEn      : Bool := false
  fbWord    : W64 := 0
  level     : Byte := 0
  nfCount   : W32 := 0
  satCount  : W32 := 0
  counted   : Bool := false
  participants : List Nat := []
  /-- Streams of the attempt's INPITCH requests, to be covered at step 2. -/
  sent      : List Cover := []
  /-- Participants whose SPREP or SCOMMIT answer is awaited, and the answers that were not zero. -/
  awaiting  : List Nat := []
  answers   : List (Nat × W16) := []
  since     : Nat := 0
  covering  : Bool := false
  /-- Fault that ends or replays the attempt, and whether it replays. -/
  fault     : W16 := 0
  replays   : Bool := false
  aborting  : Bool := false
  /-- When and where that fault was raised, and the devices it lists (R331, R437). -/
  faultAt   : Nat := 0
  faultUnit : W16 := 0
  faultList : Bytes := []
  blocks    : Nat := 0
  /-- Descriptors logged since PITCH_OPEN, by their ring index (R355). -/
  log       : List Nat := []
  /-- The attempt stops for a precision fall-back (R358). -/
  falling   : Bool := false
  /-- The decision record of its commit (R349). -/
  decision  : Nat := 0
  /-- The lead-swap map of the pitch, which a replay keeps (R404). -/
  lmap      : Table Nat := []
  deriving DecidableEq, Repr

/-- A ring pair (R325 to R329, R476). -/
structure RingPair where
  phase   : RingPhase := .disabled
  sbase   : W64 := 0
  cbase   : W64 := 0
  size    : BitVec 17 := 64
  next    : W32 := 0
  vec     : Option Byte := none
  head    : W32 := 0
  tail    : W32 := 0
  dup     : W32 := 0
  descs   : List Desc := []
  pitch   : Pitch := {}
  /-- Descriptors whose effects wait for BELAY to complete, in ring order (R348 step 8). -/
  deferred : List Desc := []
  /-- Streams that the ring pair's descriptors have used, for a FENCE (R336). -/
  sent     : List Cover := []
  deriving DecidableEq, Repr

/-- A stage: this part's own (source 0xFFF) or one held for another part (R342, R346). Pieces are 256 bytes, keyed
by piece number: HBM offset / 256, or 2^40 + tile SRAM offset / 256. -/
structure Stage where
  src      : Nat
  ring     : Nat
  pitch    : W16
  pieces   : Table Bytes := []
  /-- Pieces whose check is marked bad (R430). -/
  bad      : List Nat := []
  prepared : Bool := false
  refused  : Bool := false
  preparedAt : Nat := 0
  queries  : Nat := 0
  queryAt  : Nat := 0
  asking   : Bool := false
  inDoubt  : Bool := false
  /-- Push lines it holds: bucket, owner index, step (R295). -/
  pushes   : List (Nat × Nat × W32) := []
  deriving DecidableEq, Repr

/-- A committed block not yet copied home (R345): the 64 KiB granule, its source, its pieces. -/
structure Redirect where
  granule : Nat
  src     : Nat
  pieces  : Table Bytes
  bad     : List Nat := []
  deriving DecidableEq, Repr

/-- A decision record (R349): the participants that have not confirmed, when each was last sent SCOMMIT, and whether
step 7 of its BELAY is over. -/
structure Decision where
  no      : Nat
  ring    : Nat
  pitch   : W16
  waiting : List Nat
  sentAt  : Table Nat := []
  again   : Bool := false
  deriving DecidableEq, Repr

/-- The command processor. -/
structure Command where
  rings   : Table RingPair := []
  watch   : BitVec 5 := 2
  poolFirst : BitVec 11 := 1472
  poolCount : Byte := 64
  budget  : Byte := 8
  rsdIdx  : BitVec 10 := 0
  rsrSrc  : BitVec 12 := 0
  rsrRing : BitVec 5 := 0
  rsrPitch : W16 := 0
  /-- Doorbell and shadow-head addresses of the two ports, and when each port was last polled. -/
  doorbell : Table W64 := []
  shadow  : Table W64 := []
  polled  : Table Nat := []
  launches : List Launch := []
  nextLaunch : Nat := 0
  stages  : List Stage := []
  redirects : List Redirect := []
  /-- The last 64 committed keys of each source, newest first (R347). -/
  committed : List (Nat × Nat × W16) := []
  decisions : List Decision := []
  nextDecision : Nat := 0
  step    : W32 := 0
  falls   : Nat := 0
  storms  : List W32 := []
  deriving DecidableEq, Repr

/-! ### Bivouac (chapter 13) -/

/-- States of a snapshot set (R367). -/
inductive SetPhase where
  | free | ready | freezing | draining | invalid | recv
  deriving DecidableEq, Repr

/-- A stream binding (R371). -/
structure Binding where
  table   : Nat
  cur     : Nat
  tile0   : Nat
  ntile   : Nat
  stream0 : Nat
  nstream : Nat
  d0      : W64
  deriving DecidableEq, Repr

/-- A drain (R375 to R377): what its manifest holds, and its destinations and how far each has come. -/
structure Drain where
  snapNo   : W32 := 0
  jepoch   : W64 := 0
  digest   : W128 := 0
  slot     : Nat := 0
  nvme     : Bool := false
  pcopy    : Bool := false
  /-- NVMe step (1 to 3) and, per drive, commands left in the step and failures of the present one. -/
  nvmeStep : Nat := 1
  left     : Table Nat := []
  failed   : Table Nat := []
  /-- Partner-copy step (1 to 3) and the streams it must have covered. -/
  copyStep : Nat := 1
  cover    : List Cover := []
  copyAt   : Nat := 0
  signal   : Bytes := []
  take     : Nat := 0
  freezeNs : Nat := 0
  step     : W32 := 0
  skewed   : W32 := 0
  deriving DecidableEq, Repr

/-- A snapshot set (R363, R366, R367). -/
structure SnapSet where
  phase    : SetPhase := .free
  nvme     : Bool := false
  pcopy    : Bool := false
  recv     : Bool := false
  ring     : Nat := 0
  partner  : Nat := 0
  nstrm    : Nat := 0
  roleWord : W64 := 0
  bdelta   : W32 := 0
  cap0     : W64 := 0
  cap1     : W64 := 0
  drvMask  : BitVec 4 := 0
  nslot    : Nat := 0
  lbaBase  : W64 := 0
  slotLba  : W64 := 0
  strm     : List W64 := []
  /-- Extents of buffer 0: first granule and length, in 64 KiB units. -/
  extents  : List (Nat × Nat) := []
  rd       : Bool := false
  wr       : Bool := true
  roleStep : W32 := 0
  frozen   : Bool := false
  snapNo   : W32 := 0
  /-- `STEP` of the last image frozen, loaded or promoted, and `JEPOCH` of the last loaded one. -/
  imgStep  : W32 := 0
  jepoch   : W64 := 0
  bindings : List Binding := []
  drain    : Drain := {}
  captured : Bool := false
  deriving DecidableEq, Repr

/-- Bivouac's role in a roped pair (R381). -/
inductive PairRole where
  | running | standby | promoted
  deriving DecidableEq, Repr

/-- A partner query of a DECLARE (R365): the descriptor that waits for the answer. -/
structure PartnerQuery where
  ring    : Nat
  index   : Nat
  partner : Nat
  sentAt  : Nat
  deriving DecidableEq, Repr

/-- Bivouac. Drives are held by byte address, unlisted bytes zero. -/
structure Snap where
  en       : Bool := false
  split    : BitVec 2 := 0
  policy   : Bool := false
  present  : BitVec 4 := 0
  usable   : BitVec 4 := 0
  lbaBytes : Table Nat := []
  /-- Bytes that a drive moves in one command at most, from its initialisation (R373); 0 names no limit. -/
  maxBytes : Table Nat := []
  qpairs   : BitVec 7 := 16
  depth    : BitVec 11 := 256
  work     : BitVec 11 := 1471
  sharedFeed : Bool := false
  nerr     : W32 := 0
  skew     : W16 := 0
  skewTable : BitVec 2 := 0
  skewTile : BitVec 11 := 0
  skewStream : Byte := 0
  sets     : Table SnapSet := []
  cursors  : Table W64 := []
  drives   : Table Mem := []
  role     : PairRole := .running
  queries  : List PartnerQuery := []
  /-- Takes begun, to apply a TAKE's signal when its last drain ends (R372). -/
  takes    : Nat := 0
  deriving DecidableEq, Repr

/-! ### Power and heat (chapter 14) -/

/-- States of the controller (R413). -/
inductive PowerPhase where
  | off | enabling | run | throttle | floor | tripped
  deriving DecidableEq, Repr

/-- A held ascent hint (R400): its fields, the level and the instant at acceptance. -/
structure Hint where
  start : Nat
  dur   : Nat
  watts : Nat
  level : Nat
  at_   : Nat
  deriving DecidableEq, Repr

/-- A hot spot's sensors (R406, R407). Temperatures are °C. -/
structure HotSpot where
  diode    : Int := 0
  osc      : Int := 0
  used     : Int := 0
  dis      : Bool := false
  dbad     : Bool := false
  rbad     : Bool := false
  /-- Since when the readings differ, agree, and since when neither was valid. -/
  disSince : Option Nat := none
  agreeSince : Option Nat := none
  badSince : Option Nat := none
  /-- The diode's and the oscillator's range faults have been raised. -/
  dTold    : Bool := false
  rTold    : Bool := false
  deriving DecidableEq, Repr

/-- A throttling source: a die 0 to 17 or stack 18 + s; its ceilings on the three shares and its last step (R409). -/
structure Throttle where
  source : Nat
  comp   : Nat := 64
  mem    : Nat := 64
  link   : Nat := 64
  lastAt : Nat := 0
  deriving DecidableEq, Repr

/-- The power and thermal controller. -/
structure Power where
  phase     : PowerPhase := .off
  -- settings (R414)
  cap       : BitVec 12 := 2400
  win       : BitVec 5 := 5
  rup       : BitVec 13 := 400
  rdown     : BitVec 13 := 400
  maxCap    : BitVec 12 := 2400
  maxUp     : BitVec 13 := 400
  maxDown   : BitVec 13 := 400
  hold      : Bool := true
  boostOk   : Bool := true
  reten     : Bool := true
  hbmSr     : Bool := true
  lswap     : Bool := true
  fix       : BitVec 7 := 0
  order     : BitVec 6 := 0x24
  floorLink : BitVec 7 := 32
  floorMem  : BitVec 7 := 16
  floorComp : BitVec 7 := 16
  tspan     : BitVec 7 := 64
  pstep     : BitVec 4 := 2
  pmod      : BitVec 6 := 32
  rowOff    : BitVec 128 := 0
  -- domains: those on, and how many of the power-up order are done
  domains   : List Nat := []
  upDone    : Nat := 0
  powerOkLoss : Bool := false
  /-- The control cycle in which it was last set (R6). -/
  lossAt : Option Nat := none
  /-- Samples of W, one a microsecond, newest first, over the longest window (R384); time without samples drew
  nothing. -/
  samples   : List Nat := []
  sampleAt  : Nat := 0
  /-- The level L in milliwatts, and the window mean A in watts. -/
  level     : Nat := 0
  avg       : Nat := 0
  /-- The fast shed of R391 is in force. -/
  shed      : Bool := false
  /-- The falling cap ceiling of R390, in microwatts. -/
  capFall   : Option Nat := none
  -- shares and pace; the controller's own pace is the one before a MATCH group lowers it (R322)
  own       : BitVec 7 := 0
  comp      : BitVec 7 := 0
  mem       : BitVec 7 := 0
  link      : BitVec 7 := 0
  boost     : Bool := false
  boostPace : BitVec 7 := 0
  holdWatts : BitVec 12 := 0
  holdJoule : W32 := 0
  /-- Hold energy below a joule, in units of 10 µJ. -/
  holdPart  : Nat := 0
  bind      : BitVec 4 := 0
  ticks     : Nat := 0
  tickAt    : Nat := 0
  /-- Up-ramp ceiling and down-ramp floor in microwatts. -/
  upCeil    : Nat := 0
  downFloor : Nat := 0
  clamps    : W32 := 0
  breach    : W32 := 0
  clampAt   : Table Nat := []
  -- hints and envelopes
  hints     : List Hint := []
  envelope  : List (Nat × Nat) := []
  /-- Accepted envelopes whose first point has not come, in the order of acceptance. -/
  nextEnv   : List (List (Nat × Nat)) := []
  envBad    : Option Nat := none
  envMissed : Bool := false
  -- sensors
  spots     : Table HotSpot := []
  dieTemp   : Table Int := []
  /-- Temperatures of a die over the last 50 ms, newest first: control cycle and °C (R411). -/
  dieHist   : Table (List (Nat × Int)) := []
  throttles : List Throttle := []
  recoverAt : Nat := 0
  /-- Sources above their 95 °C and their 100 °C threshold and not re-armed (R408). -/
  warned    : List Nat := []
  hot       : List Nat := []
  flow      : BitVec 12 := 0
  inlet     : Byte := 0
  outlet    : Byte := 0
  coolLost  : Bool := false
  coolAt    : Nat := 0
  /-- The coolant ceiling in parts of 7,000 of C (R410). -/
  coolPart  : Option Nat := none
  coolWarnAt : Table Nat := []
  floorTemp : Int := 0
  floorAt   : Nat := 0
  -- lead swap (R404): logical to physical; unlisted tiles map to themselves
  lmap      : Table Nat := []
  used      : List Nat := []
  tripDetail : Byte := 0
  deriving DecidableEq, Repr

/-! ### Clocks and the time base (chapter 15) -/

/-- States of the time base (R421). -/
inductive TimePhase where
  | free | acquiring | locked | holdover
  deriving DecidableEq, Repr

/-- The root clock and the time base. The offset f is kept in units of 2^-47 / 625 and θ in units of 2^-17 ns / 125,
in which every sample, asymmetry and clamp of R420 is exact. -/
structure TimeBase where
  pllLocked : Bool := false
  clockLost : Bool := false
  /-- Nanoseconds and the 32-bit fraction, as one number in units of 2^-32 ns. -/
  now       : Nat := 0
  inc       : Nat := 3579139413
  freq      : Int := 0
  phase     : TimePhase := .free
  streak    : Nat := 0
  distOver  : Bool := false
  holdAt    : Nat := 0
  firstUp   : Bool := false
  cand      : Bool := false
  maxHop    : BitVec 4 := 5
  epoch     : W32 := 0
  selfLead  : Bool := false
  leadValid : Bool := false
  leadNum   : BitVec 12 := 0
  dist      : BitVec 4 := 0
  upstream  : Option Nat := none
  theta     : Int := 0
  steps     : W32 := 0
  setLo     : W32 := 0
  setHi     : W32 := 0
  latchHi   : W32 := 0
  latchF    : W16 := 0
  /-- `TASYM` of each port. -/
  asym      : Table W16 := []
  deriving DecidableEq, Repr

/-! ### Faults and the log (chapter 16) -/

/-- An error record (R441). -/
structure LogRecord where
  lseq   : W32
  code   : W16
  cls    : BitVec 2
  replay : Bool := false
  ended  : Bool := false
  remote : Bool := false
  detail : Byte := 0
  timeNs : Nat := 0
  unit   : W16 := 0
  suppr  : W16 := 0
  ring   : Option Nat := none
  attempt : Byte := 0
  pitch  : W16 := 0
  kind   : Byte := 0
  data   : Bytes := []
  deriving DecidableEq, Repr

/-- A suppression entry (R443). -/
structure Suppress where
  code   : W16
  unit   : W16
  detail : Byte
  at_    : Nat
  count  : Nat := 0
  deriving DecidableEq, Repr

/-- The error log and FATAL state. -/
structure Log where
  ringUp  : Bool := false
  en      : Bool := true
  region  : BitVec 11 := 1470
  log2n   : BitVec 5 := 20
  next    : W32 := 0
  early   : List LogRecord := []
  overCount : W32 := 0
  lost    : W32 := 0
  suppress : List Suppress := []
  mirEn   : Bool := false
  mirPort : Bool := false
  mirLog2n : BitVec 5 := 10
  mirAddr : W64 := 0
  /-- Records of the early buffer that the present log ring already holds. -/
  copied  : Nat := 0
  /-- `LSEQ` of the records kept that were never mirrored. -/
  unmirrored : List W32 := []
  /-- The records of the latest control cycle that has any, in their order (R437). -/
  cycleAt : Nat := 0
  cycle   : List LogRecord := []
  halted  : Bool := false
  fcode   : W16 := 0
  /-- The record of a trip, kept on the service die until the part next reaches RUN (R412). -/
  trip    : Option LogRecord := none
  deriving DecidableEq, Repr

/-! ### Security (chapter 17) -/

/-- A queued attestation request: through a host port or over management (R459). -/
inductive AttestFor where
  | host (port : Nat) (addr : W64)
  | management (via : Endpoint)
  deriving DecidableEq, Repr

/-- One attestation request: the snapshot of the report's first 768 bytes. -/
structure Attest where
  for_ : AttestFor
  body : Bytes
  deriving DecidableEq, Repr

/-- A flash operation in progress. -/
inductive FlashOp where
  | none | erase | program | read
  deriving DecidableEq, Repr

/-- The root of trust and the SEC block. Flash is held by byte address, unlisted bytes 0xFF (DESIGN CHOICE, log entry 3). -/
structure Security where
  verified  : Bool := false
  bootFailed : Bool := false
  slot      : Bool := false
  noCfg     : Bool := false
  owned     : Bool := false
  debug     : Bool := false
  certBad   : Bool := false
  scopes    : Byte := 0
  reasonA   : BitVec 4 := 0
  reasonB   : BitVec 4 := 0
  reason0   : BitVec 4 := 0
  reason1   : BitVec 4 := 0
  floor     : W32 := 0
  target    : BitVec 31 := 0
  advancing : Bool := false
  svn       : W32 := 0
  bsvn      : W32 := 0
  /-- Major, minor and patch of the images, `ITYPE` 1 to 6 in order (R449). -/
  versions  : List (Byte × Byte × W16) := []
  vkey      : Bytes := []
  nonce     : List W32 := List.replicate 8 0
  attLo     : W32 := 0
  attHi     : W32 := 0
  attBusy   : Bool := false
  attDone   : Bool := false
  /-- The control cycle in which `DONE` was last set (R6). -/
  doneAt    : Option Nat := none
  attests   : List Attest := []
  mr        : List Bytes := List.replicate 16 (List.replicate 32 0)
  mrd       : List W32 := List.replicate 8 0
  mrIndex   : BitVec 4 := 10
  /-- The control cycle of the last extension by the host (the model's own; DESIGN CHOICE, log entry 123). -/
  extAt     : Option Nat := none
  dtLo      : W32 := 0
  dtHi      : W32 := 0
  challenge : BitVec 256 := 0
  fAddr     : BitVec 27 := 0
  fOp       : FlashOp := .none
  /-- The address of the operation in progress, and whether a floor advance accepted before it still runs (R462). -/
  fOpAddr   : BitVec 27 := 0
  floorAhead : Bool := false
  fBuf      : Table W32 := []
  flash     : Mem := []
  /-- The authenticated storage: the owner binding (R448). -/
  owner     : Bytes := List.replicate 32 0
  ownerKey  : Bytes := []
  domain    : W32 := 0
  feed      : W32 := 0
  rack      : W32 := 0
  coolAddr  : BitVec 24 := 0
  /-- The accepted configuration blob, kept on the service die; empty when the part is unconfigured. -/
  blob      : Bytes := []
  deriving DecidableEq, Repr

/-! ### The host ports and pins (chapters 18 and 19) -/

/-- An MSI-X vector (R473). -/
structure Vector256 where
  addr    : W64 := 0
  data    : W32 := 0
  masked  : Bool := true
  pba     : Bool := false
  count   : Nat := 0
  firstAt : Nat := 0
  timing  : Bool := false
  deriving DecidableEq, Repr

/-- A host port. -/
structure HostPort where
  speed   : BitVec 3 := 0
  flit    : Bool := false
  width   : BitVec 4 := 0
  up      : Bool := false
  perst   : Bool := true
  downAt  : Nat := 0
  win     : BitVec 11 := 0
  vectors : Table Vector256 := []
  modTime : BitVec 10 := 0
  modCount : BitVec 10 := 1
  errV    : Byte := 16
  errEn   : Bool := false
  errCls  : BitVec 2 := 2
  secV    : Byte := 17
  secEn   : Bool := false
  sent    : W32 := 0
  /-- The configuration space's written dwords, by offset (R466). -/
  cfg     : Table W32 := []
  deriving DecidableEq, Repr

/-- Host attachment. -/
structure HostSide where
  ports   : Table HostPort := []
  primary : Bool := false
  offer   : Option W16 := none
  offerAt : Nat := 0
  deriving DecidableEq, Repr

/-- The pins and the power-up position (R480, R484). -/
structure Pins where
  vaux      : Bool := false
  powerOk   : Bool := false
  resetLow  : Bool := false
  straps    : BitVec 4 := 0
  faultLow  : Bool := false
  tripLow   : Bool := false
  dperst    : BitVec 4 := 0
  drefclk   : BitVec 4 := 0
  deriving DecidableEq, Repr

/-! ### What leaves the part, and the whole -/

/-- What an observer outside the part sees. -/
inductive Out where
  /-- A memory write to a host: `relaxed` is its Relaxed Ordering attribute; No Snoop is never set (R464). -/
  | hostWrite (port : Nat) (addr : W64) (data : Bytes) (poisoned relaxed : Bool)
  /-- A memory read of a host, with its Relaxed Ordering attribute; No Snoop is never set (R464). -/
  | hostRead (port : Nat) (addr : W64) (length : Nat) (relaxed : Bool)
  /-- A message of a vector: the write of the entry's data to the entry's address (R467, R473). -/
  | msix (port vector : Nat) (addr : W64) (data : W32)
  /-- A latency tolerance message: snooped and unsnooped, in ns (R465). -/
  | tolerance (port snoop noSnoop : Nat)
  | barRead (port offset : Nat) (value : W32)
  | barUnsupported (port offset : Nat)
  /-- The value that a read of BAR4 or of configuration space returns. -/
  | spaceRead (port : Nat) (space : HostSpace) (offset : Nat) (value : W32)
  | bar2 (port : Nat) (data : Bytes) (poisoned : Bool)
  | bar2Unsupported (port : Nat)
  | bar2Abort (port : Nat)
  | flit (port : Nat) (bytes : Bytes)
  | nvme (drive : Nat) (command : Nat) (lba : W64) (blocks : Nat)
  | driveData (drive : Nat) (addr : W64) (data : Bytes) (poisoned : Bool)
  | driveUnsupported (drive : Nat) (addr : W64)
  | management (via : Endpoint) (command : Byte) (data : Bytes)
  | mctp (via : Endpoint) (messageType : Byte) (supported : Bool)
  deriving DecidableEq, Repr

/-- The whole part, and the commands that wait, first in, first out. -/
structure State where
  /-- Control cycles counted by the model (DESIGN CHOICE, log entry 1). -/
  clk      : Nat := 0
  /-- The RC fields at the start of the control cycle, by BAR0 offset, those that are not zero (R6; the model's own). -/
  counts   : Table Nat := []
  /-- The model's own count of free values drawn (DESIGN CHOICE, log entry 4). -/
  free     : Nat := 0
  tiles    : Table Tile := []
  reqs     : List MemReq := []
  nextReq  : Nat := 0
  edges    : Table Edge := []
  hbm      : Hbm := {}
  fab      : Fabric := {}
  red      : Reduction := {}
  job      : Job := {}
  cmd      : Command := {}
  snap     : Snap := {}
  pwr      : Power := {}
  time     : TimeBase := {}
  log      : Log := {}
  sec      : Security := {}
  host     : HostSide := {}
  pins     : Pins := {}
  /-- What the part sent out, newest first (the model's own record). -/
  out      : List Out := []
  pending  : List Instr := []
  deriving DecidableEq, Repr

/-- The part right after reset, before VAUX rises: every field at the value beside it. -/
def State.reset : State := {}

/-- What a command answers. -/
abbrev Res := Host.Outcome State Fault Refusal

end Sys2Proof.Machine
end

