-- ==== Sys2Proof/Machine/Ops.lean ====
section
/-! DEFINITION. The named operations every meaning is written over: sparse tables, runs of bytes, byte memory in
canonical form, bit fields, and the two answers a command can give. -/

namespace Sys2Proof.Machine

/-! ### Sparse tables -/

/-- The value listed at `k`, if any. -/
def tget? {α : Type} : Table α → Nat → Option α
  | [], _ => none
  | (a, x) :: r, k => if a = k then some x else tget? r k

/-- The value listed at `k`, else `d`. -/
def tget {α : Type} (t : Table α) (k : Nat) (d : α) : α := (tget? t k).getD d

/-- List `v` at `k`, the numbers kept rising. -/
def tset {α : Type} : Table α → Nat → α → Table α
  | [], k, v => [(k, v)]
  | (a, x) :: r, k, v =>
    if k < a then (k, v) :: (a, x) :: r else if k = a then (k, v) :: r else (a, x) :: tset r k v

/-- Unlist `k`. -/
def tdel {α : Type} (t : Table α) (k : Nat) : Table α := t.filter (fun p => decide (p.1 ≠ k))

/-- Change the value at `k` (else `d`) by `f`. -/
def tmod {α : Type} (t : Table α) (k : Nat) (d : α) (f : α → α) : Table α := tset t k (f (tget t k d))

/-- List the values of `vs` at `k`, `k + 1`, … -/
def tsetRun {α : Type} (t : Table α) (k : Nat) : List α → Table α
  | [] => t
  | v :: vs => tsetRun (tset t k v) (k + 1) vs

/-! ### Numbers and bit fields -/

/-- Bits [hi:lo] of a number. -/
def bits (n hi lo : Nat) : Nat := n / 2 ^ lo % 2 ^ (hi + 1 - lo)

/-- Bit `i` of a number. -/
def bit (n i : Nat) : Bool := n / 2 ^ i % 2 == 1

/-- 1 for true. -/
def b2n (b : Bool) : Nat := if b then 1 else 0

/-- A `w`-bit two's complement number. -/
def signed (w n : Nat) : Int := if n % 2 ^ w < 2 ^ (w - 1) then (n % 2 ^ w : Nat) else (n % 2 ^ w : Nat) - (2 ^ w : Nat)

/-- An integer modulo 2^w. -/
def wrap (w : Nat) (i : Int) : Nat := (i % (2 ^ w : Nat)).toNat

/-- A 32-bit counter that saturates (the RC counts of R4). -/
def satInc (c : W32) (n : Nat := 1) : W32 := if c.toNat + n ≥ 2 ^ 32 then 0xFFFFFFFF else c + BitVec.ofNat 32 n

/-- (a − b) modulo 2^32 lies below 2^31: `a` has reached `b` (R154, R238). -/
def reached (a b : W32) : Bool := decide ((a - b).toNat < 2 ^ 31)

/-- Insert into a rising list without repeats. -/
def insertNat (n : Nat) : List Nat → List Nat
  | [] => [n]
  | a :: r => if n < a then n :: a :: r else if n = a then a :: r else a :: insertNat n r

/-- The numbers of a bitmap of `w` bits held in `n`. -/
def bitList (n w : Nat) : List Nat := (List.range w).filter (fun i => bit n i)

/-! ### Runs of bytes (R3: the least significant byte first) -/

/-- The number that bytes hold. -/
def leNat : Bytes → Nat
  | [] => 0
  | b :: r => b.toNat + 256 * leNat r

/-- `k` bytes holding `n`. -/
def leBytes : (k : Nat) → Nat → Bytes
  | 0, _ => []
  | k + 1, n => BitVec.ofNat 8 n :: leBytes k (n / 256)

/-- `k` bytes from `off`; bytes beyond the end are zero. -/
def slice (b : Bytes) (off k : Nat) : Bytes := ((b.drop off).take k) ++ List.replicate (k - (b.drop off).length) 0

/-- The number in bytes `off` to `off + k − 1`. -/
def field (b : Bytes) (off k : Nat) : Nat := leNat (slice b off k)

/-- Replace bytes from `off` by `new`; a run too short is first filled with zeros. -/
def splice (b : Bytes) (off : Nat) (new : Bytes) : Bytes := slice b 0 off ++ new ++ b.drop (off + new.length)

/-- `k` zero bytes. -/
def zeros (k : Nat) : Bytes := List.replicate k 0

/-- Every byte of `b` from `off` to `off + k − 1` is zero. -/
def allZero (b : Bytes) (off k : Nat) : Bool := (slice b off k).all (· == 0)

/-- Lay out a record of `len` bytes from (offset, width, value) fields; the rest is zero. -/
def layout (len : Nat) (fields : List (Nat × Nat × Nat)) : Bytes :=
  fields.foldl (fun b f => splice b f.1 (leBytes f.2.1 f.2.2)) (zeros len)

/-- Device numbers packed 12 bits each into 12 bytes (R331). -/
def packDevs (ds : List Nat) : Nat :=
  ((ds.take 8).zipIdx.foldl (fun n p => n + p.1 % 4096 * 2 ^ (12 * p.2)) 0)

/-! ### Byte memory in canonical form -/

/-- The byte at `a`; an unlisted address reads as `d`. -/
def memByte (d : Byte) : Mem → Nat → Byte
  | [], _ => d
  | (x, v) :: r, a => if x = a then v else memByte d r a

/-- Store a byte: addresses stay rising, and a byte equal to what an unlisted address reads as is not listed. -/
def memSet (d : Byte) : Mem → Nat → Byte → Mem
  | [], a, b => if b = d then [] else [(a, b)]
  | (x, v) :: r, a, b =>
    if a < x then (if b = d then (x, v) :: r else (a, b) :: (x, v) :: r)
    else if a = x then (if b = d then r else (a, b) :: r)
    else (x, v) :: memSet d r a b

/-- Read `n` bytes from `a`. -/
def memRead (d : Byte) (m : Mem) : (a n : Nat) → Bytes
  | _, 0 => []
  | a, n + 1 => memByte d m a :: memRead d m (a + 1) n

/-- Store bytes from `a` upward. -/
def memWrite (d : Byte) : Mem → Nat → Bytes → Mem
  | m, _, [] => m
  | m, a, b :: r => memWrite d (memSet d m a b) (a + 1) r

/-- Make `n` bytes from `a` read as unlisted. -/
def memClear (m : Mem) (a n : Nat) : Mem := m.filter (fun c => !(decide (a ≤ c.1) && decide (c.1 < a + n)))

/-- The canonical form: addresses rising strictly from `lo`, and no entry equal to `d`. -/
def Mem.wfFrom (d : Byte) : Nat → Mem → Bool
  | _, [] => true
  | lo, (x, v) :: r => decide (lo ≤ x) && decide (v ≠ d) && Mem.wfFrom d (x + 1) r

/-- The canonical form of a memory whose unlisted bytes read as `d`. -/
def Mem.wf (d : Byte) (m : Mem) : Bool := Mem.wfFrom d 0 m

/-- What an unlisted byte of HBM (R494), of tile SRAM (R182) and of a drive reads as. -/
def zeroByte : Byte := 0

/-- What an unlisted byte of the flash reads as (DESIGN CHOICE, log entry 3). -/
def erasedByte : Byte := 0xFF

/-! ### Answers of a command -/

/-- Go on in `t` when the step is due, and stay when it is not (DESIGN CHOICE, log entry 5). -/
@[inline] def ifDue (c : Bool) (s t : State) : Res := .next (if c then t else s)

/-- A command that names a tile. -/
def onTile (tile : Nat) (r : Res) : Res := if tile < 1152 then r else .fault .noSuchUnit

/-- A command that names a tile and a thread slot. -/
def onSlot (tile slot : Nat) (r : Res) : Res := if tile < 1152 ∧ slot < 2048 then r else .fault .noSuchUnit

/-- A command that names one of `n` like units. -/
def onUnit (n k : Nat) (r : Res) : Res := if k < n then r else .fault .noSuchUnit

/-! ### Units of the state -/

/-- A tile; an unlisted tile holds its reset value. -/
def State.tile (s : State) (t : Nat) : Tile := tget s.tiles t {}

/-- Replace a tile. -/
def State.setTile (s : State) (t : Nat) (x : Tile) : State := { s with tiles := tset s.tiles t x }

/-- A Rope port. -/
def State.port (s : State) (p : Nat) : Port := tget s.fab.ports p {}

/-- Replace a Rope port. -/
def State.setPort (s : State) (p : Nat) (x : Port) : State :=
  { s with fab := { s.fab with ports := tset s.fab.ports p x } }

/-- A ring pair. Its vector at reset is its number modulo 16 (R476). -/
def State.ring (s : State) (r : Nat) : RingPair := tget s.cmd.rings r {}

/-- Replace a ring pair. -/
def State.setRing (s : State) (r : Nat) (x : RingPair) : State :=
  { s with cmd := { s.cmd with rings := tset s.cmd.rings r x } }

/-- A host port. -/
def State.hport (s : State) (p : Nat) : HostPort := tget s.host.ports p {}

/-- Replace a host port. -/
def State.setHport (s : State) (p : Nat) (x : HostPort) : State :=
  { s with host := { s.host with ports := tset s.host.ports p x } }

/-- A bucket. -/
def State.bucket (s : State) (b : Nat) : Bucket := tget s.red.buckets b {}

/-- Replace a bucket. -/
def State.setBucket (s : State) (b : Nat) (x : Bucket) : State :=
  { s with red := { s.red with buckets := tset s.red.buckets b x } }

/-- A snapshot set. -/
def State.snapSet (s : State) (k : Nat) : SnapSet := tget s.snap.sets k {}

/-- Replace a snapshot set. -/
def State.setSnap (s : State) (k : Nat) (x : SnapSet) : State :=
  { s with snap := { s.snap with sets := tset s.snap.sets k x } }

/-- A stack. -/
def State.stack (s : State) (k : Nat) : Stack := tget s.hbm.stk k {}

/-- Replace a stack. -/
def State.setStack (s : State) (k : Nat) (x : Stack) : State :=
  { s with hbm := { s.hbm with stk := tset s.hbm.stk k x } }

/-- Record something that leaves the part. -/
def State.emit (s : State) (o : Out) : State := { s with out := o :: s.out }

/-- The time base in whole nanoseconds. -/
def State.ns (s : State) : Nat := s.time.now / 2 ^ 32 % 2 ^ 64

/-- Control cycles in a microsecond (R415). -/
def usec : Nat := 1200

/-- At least `us` microseconds have passed since the stamp. -/
def State.passed (s : State) (since us : Nat) : Bool := decide (s.clk ≥ since + us * usec)

/-- The idle floor: issue stops in every tile and the arithmetic clock stops (R411). -/
def State.floored (s : State) : Bool := s.pwr.phase == .floor

/-- Draw a free value (DESIGN CHOICE, log entry 4). -/
def State.draw (s : State) : W64 × State := (Config.freeWord s.free, { s with free := s.free + 1 })

/-! ### Arrival counters (R152) -/

/-- An arrival counter of a tile. -/
def State.counter (s : State) (tile k : Nat) : W32 := tget (s.tile tile).counters k 0

/-- The changes of a counter in this control cycle so far. -/
def Tile.change (t : Tile) (clk k : Nat) : CounterChange :=
  match tget? t.changes k with
  | some c => if c.at_ = clk then c else ⟨clk, tget t.counters k 0, 0⟩
  | none => ⟨clk, tget t.counters k 0, 0⟩

/-- What this control cycle has added to a counter. -/
def State.added (s : State) (tile k : Nat) : W32 := ((s.tile tile).change s.clk k).add

/-- The value that `WAITC` sees: changes become visible in the next control cycle (R154). -/
def State.seenCounter (s : State) (tile k : Nat) : W32 := ((s.tile tile).change s.clk k).was

/-- Add to an arrival counter, modulo 2^32. -/
def addCounter (s : State) (tile k : Nat) (n : W32) : State :=
  let t := s.tile tile
  let c := t.change s.clk k
  s.setTile tile { t with counters := tset t.counters k (s.counter tile k + n), changes := tset t.changes k { c with add := c.add + n } }

/-- Set an arrival counter: the set of a control cycle takes effect before its increments (R152). -/
def setCounter (s : State) (tile k : Nat) (n : W32) : State :=
  let t := s.tile tile
  let c := t.change s.clk k
  s.setTile tile { t with counters := tset t.counters k (n + c.add), changes := tset t.changes k c }

/-- Set every arrival counter of a tile to zero (R169). -/
def Tile.zeroCounters (t : Tile) (clk : Nat) : Tile :=
  { t with
    counters := t.counters.map (fun x => (x.1, (t.change clk x.1).add))
    changes := t.counters.map (fun x => (x.1, t.change clk x.1)) }

end Sys2Proof.Machine
end

