-- ==== Sys2Proof/Machine/Codes.lean ====
section
/-! DEFINITION. The checks and ciphers the chapters name: CRC-16 of packs (R46), CRC-32C end to end (R427), CRC-64 of
flits (R219), SM4 of the random streams (R164), SM3 and SM2 of security. The tables and constants of SM2, SM3 and SM4
are those of GB/T 32918, 32905 and 32907, which the chapters name and do not print (PRESUMED, log entry 17). -/

namespace Sys2Proof.Machine

/-! ### Cyclic checks -/

/-- `n` steps of a left-shifting CRC of width `w`. -/
def crcLeft (w poly : Nat) : Nat → Nat → Nat
  | 0, r => r
  | n + 1, r =>
    crcLeft w poly n (if r / 2 ^ (w - 1) % 2 = 1 then (r * 2 % 2 ^ w) ^^^ poly else r * 2 % 2 ^ w)

/-- `n` steps of a right-shifting (reflected) CRC. -/
def crcRight (poly : Nat) : Nat → Nat → Nat
  | 0, r => r
  | n + 1, r => crcRight poly n (if r % 2 = 1 then (r / 2) ^^^ poly else r / 2)

/-- CRC-16 with generator 0x1021, register 0xFFFF, no reflection (R46). -/
def crc16 (b : Bytes) : Nat :=
  b.foldl (fun r x => crcLeft 16 0x1021 8 (r ^^^ (x.toNat * 2 ^ 8))) 0xFFFF

/-- CRC-32C: reflected, register and final XOR of ones (R427). -/
def crc32c (b : Bytes) : Nat :=
  (b.foldl (fun r x => crcRight 0x82F63B78 8 (r ^^^ x.toNat)) 0xFFFFFFFF) ^^^ 0xFFFFFFFF

/-- CRC-64 with the generator of ECMA-182, register zero (R219). -/
def crc64 (b : Bytes) : Nat :=
  b.foldl (fun r x => crcLeft 64 0x42F0E1EBA9EA3693 8 (r ^^^ (x.toNat * 2 ^ 56))) 0

/-- The end-to-end check of a line or granule, as a word. -/
def e2eOf (b : Bytes) : W32 := BitVec.ofNat 32 (crc32c b)

/-- What a verifier finds (R431): good, marked bad, or a mismatch. Poison is told by its own bit, not here. -/
def verify (b : Bytes) (check : W32) : LineState :=
  if check = e2eOf b then .good else if check = ~~~(e2eOf b) then .markedBad else .mismatch

/-- The check that carries a line's state on the fabric (R429, R431): a mismatch keeps any wrong value. -/
def checkFor (b : Bytes) (st : LineState) : W32 :=
  match st with
  | .good => e2eOf b
  | .markedBad => ~~~(e2eOf b)
  | .poison => ~~~(e2eOf b)
  | .mismatch => e2eOf b ^^^ 1

/-! ### Rotations of 32-bit words -/

/-- Rotate a 32-bit word left. -/
def rotl32 (x k : Nat) : Nat := (x * 2 ^ (k % 32) + x / 2 ^ (32 - k % 32)) % 2 ^ 32

/-- The words of bytes taken most significant first. -/
def beWords : Bytes → List Nat
  | a :: b :: c :: d :: r => (((a.toNat * 256 + b.toNat) * 256 + c.toNat) * 256 + d.toNat) :: beWords r
  | _ => []

/-- The number of bytes taken most significant first. -/
def beNat (b : Bytes) : Nat := b.foldl (fun n x => n * 256 + x.toNat) 0

/-- `k` bytes of a number, most significant first. -/
def beBytes (k n : Nat) : Bytes := (leBytes k n).reverse

/-! ### SM4 (GB/T 32907) -/

/-- The S-box, one row of sixteen a list. -/
def sm4Box : List Nat :=
  [0xd6,0x90,0xe9,0xfe,0xcc,0xe1,0x3d,0xb7,0x16,0xb6,0x14,0xc2,0x28,0xfb,0x2c,0x05] ++
  [0x2b,0x67,0x9a,0x76,0x2a,0xbe,0x04,0xc3,0xaa,0x44,0x13,0x26,0x49,0x86,0x06,0x99] ++
  [0x9c,0x42,0x50,0xf4,0x91,0xef,0x98,0x7a,0x33,0x54,0x0b,0x43,0xed,0xcf,0xac,0x62] ++
  [0xe4,0xb3,0x1c,0xa9,0xc9,0x08,0xe8,0x95,0x80,0xdf,0x94,0xfa,0x75,0x8f,0x3f,0xa6] ++
  [0x47,0x07,0xa7,0xfc,0xf3,0x73,0x17,0xba,0x83,0x59,0x3c,0x19,0xe6,0x85,0x4f,0xa8] ++
  [0x68,0x6b,0x81,0xb2,0x71,0x64,0xda,0x8b,0xf8,0xeb,0x0f,0x4b,0x70,0x56,0x9d,0x35] ++
  [0x1e,0x24,0x0e,0x5e,0x63,0x58,0xd1,0xa2,0x25,0x22,0x7c,0x3b,0x01,0x21,0x78,0x87] ++
  [0xd4,0x00,0x46,0x57,0x9f,0xd3,0x27,0x52,0x4c,0x36,0x02,0xe7,0xa0,0xc4,0xc8,0x9e] ++
  [0xea,0xbf,0x8a,0xd2,0x40,0xc7,0x38,0xb5,0xa3,0xf7,0xf2,0xce,0xf9,0x61,0x15,0xa1] ++
  [0xe0,0xae,0x5d,0xa4,0x9b,0x34,0x1a,0x55,0xad,0x93,0x32,0x30,0xf5,0x8c,0xb1,0xe3] ++
  [0x1d,0xf6,0xe2,0x2e,0x82,0x66,0xca,0x60,0xc0,0x29,0x23,0xab,0x0d,0x53,0x4e,0x6f] ++
  [0xd5,0xdb,0x37,0x45,0xde,0xfd,0x8e,0x2f,0x03,0xff,0x6a,0x72,0x6d,0x6c,0x5b,0x51] ++
  [0x8d,0x1b,0xaf,0x92,0xbb,0xdd,0xbc,0x7f,0x11,0xd9,0x5c,0x41,0x1f,0x10,0x5a,0xd8] ++
  [0x0a,0xc1,0x31,0x88,0xa5,0xcd,0x7b,0xbd,0x2d,0x74,0xd0,0x12,0xb8,0xe5,0xb4,0xb0] ++
  [0x89,0x69,0x97,0x4a,0x0c,0x96,0x77,0x7e,0x65,0xb9,0xf1,0x09,0xc5,0x6e,0xc6,0x84] ++
  [0x18,0xf0,0x7d,0xec,0x3a,0xdc,0x4d,0x20,0x79,0xee,0x5f,0x3e,0xd7,0xcb,0x39,0x48]

/-- The byte substitution on each byte of a word. -/
def sm4Tau (x : Nat) : Nat :=
  (List.range 4).foldl (fun n i => n + (sm4Box.getD (x / 256 ^ i % 256) 0) * 256 ^ i) 0

/-- The round transformation. -/
def sm4T (x : Nat) : Nat :=
  let b := sm4Tau x
  b ^^^ rotl32 b 2 ^^^ rotl32 b 10 ^^^ rotl32 b 18 ^^^ rotl32 b 24

/-- The key transformation. -/
def sm4K (x : Nat) : Nat :=
  let b := sm4Tau x
  b ^^^ rotl32 b 13 ^^^ rotl32 b 23

/-- Constant word CK of round i. -/
def sm4Ck (i : Nat) : Nat :=
  (List.range 4).foldl (fun n j => n * 256 + (4 * i + j) * 7 % 256) 0

/-- Four words of state, and the key words, run through rounds i to i + n − 1. -/
def sm4Rounds : (n i : Nat) → (k0 k1 k2 k3 x0 x1 x2 x3 : Nat) → List Nat
  | 0, _, _, _, _, _, x0, x1, x2, x3 => [x3, x2, x1, x0]
  | n + 1, i, k0, k1, k2, k3, x0, x1, x2, x3 =>
    let rk := k0 ^^^ sm4K (k1 ^^^ k2 ^^^ k3 ^^^ sm4Ck i)
    let y := x0 ^^^ sm4T (x1 ^^^ x2 ^^^ x3 ^^^ rk)
    sm4Rounds n (i + 1) k1 k2 k3 rk x1 x2 x3 y

/-- SM4 encryption of one block, bytes in order. -/
def sm4Encrypt (key block : Bytes) : Bytes :=
  let k := beWords key
  let x := beWords block
  let w (l : List Nat) (i : Nat) := l.getD i 0
  (sm4Rounds 32 0 (w k 0 ^^^ 0xa3b1bac6) (w k 1 ^^^ 0x56aa3350) (w k 2 ^^^ 0x677d9197) (w k 3 ^^^ 0xb27022dc)
    (w x 0) (w x 1) (w x 2) (w x 3)).flatMap (beBytes 4)

/-- The word of a stream at a counter (R164). -/
def streamWord (key : W128) (ctr : W64) : W128 :=
  BitVec.ofNat 128 (beNat (sm4Encrypt (leBytes 16 key.toNat) (beBytes 16 ctr.toNat)))

/-! ### SM3 (GB/T 32905) -/

/-- Expand the sixteen words of a block to 68, kept newest first. -/
def sm3Expand : Nat → List Nat → List Nat
  | 0, w => w
  | n + 1, w =>
    let g (i : Nat) := w.getD (i - 1) 0
    let x := g 16 ^^^ g 9 ^^^ rotl32 (g 3) 15
    let p := x ^^^ rotl32 x 15 ^^^ rotl32 x 23
    sm3Expand n ((p ^^^ rotl32 (g 13) 7 ^^^ g 6) :: w)

/-- One round: the eight registers, the round number, the two expanded words. -/
def sm3Round (v : List Nat) (j wj wj4 : Nat) : List Nat :=
  let g (i : Nat) := v.getD i 0
  let t := if j < 16 then 0x79cc4519 else 0x7a879d8a
  let a12 := rotl32 (g 0) 12
  let ss1 := rotl32 ((a12 + g 4 + rotl32 t j) % 2 ^ 32) 7
  let ss2 := ss1 ^^^ a12
  let ff := if j < 16 then g 0 ^^^ g 1 ^^^ g 2
    else (g 0 &&& g 1) ||| (g 0 &&& g 2) ||| (g 1 &&& g 2)
  let gg := if j < 16 then g 4 ^^^ g 5 ^^^ g 6 else (g 4 &&& g 5) ||| ((g 4 ^^^ 0xFFFFFFFF) &&& g 6)
  let tt1 := (ff + g 3 + ss2 + (wj ^^^ wj4)) % 2 ^ 32
  let tt2 := (gg + g 7 + ss1 + wj) % 2 ^ 32
  [tt1, g 0, rotl32 (g 1) 9, g 2, tt2 ^^^ rotl32 tt2 9 ^^^ rotl32 tt2 17, g 4, rotl32 (g 5) 19, g 6]

/-- Compress one block. -/
def sm3Block (v : List Nat) (block : Bytes) : List Nat :=
  let w := (sm3Expand 52 (beWords block).reverse).reverse
  let r := (List.range 64).foldl (fun u j => sm3Round u j (w.getD j 0) (w.getD (j + 4) 0)) v
  List.zipWith (· ^^^ ·) r v

/-- Compress `n` blocks. -/
def sm3Blocks : Nat → List Nat → Bytes → List Nat
  | 0, v, _ => v
  | n + 1, v, b => sm3Blocks n (sm3Block v (b.take 64)) (b.drop 64)

/-- The SM3 digest: 32 bytes. -/
def sm3 (m : Bytes) : Bytes :=
  let len := m.length
  let pad := (119 - len % 64) % 64
  let full := m ++ [0x80] ++ zeros pad ++ beBytes 8 (len * 8)
  (sm3Blocks (full.length / 64)
    [0x7380166f, 0x4914b2b9, 0x172442d7, 0xda8a0600, 0xa96f30bc, 0x163138aa, 0xe38dee4d, 0xb0fb0e4e] full).flatMap
    (beBytes 4)

/-! ### SM2 (GB/T 32918, the recommended curve) -/

/-- The prime, the coefficient b, the order and the base point. -/
def sm2P : Nat := 0xFFFFFFFEFFFFFFFFFFFFFFFFFFFFFFFFFFFFFFFF00000000FFFFFFFFFFFFFFFF
def sm2B : Nat := 0x28E9FA9E9D9F5E344D5A9E4BCF6509A7F39789F515AB8F92DDBCBD414D940E93
def sm2N : Nat := 0xFFFFFFFEFFFFFFFFFFFFFFFFFFFFFFFF7203DF6B21C6052B53BBF40939D54123
def sm2Gx : Nat := 0x32C4AE2C1F1981195F9904466A39C9948FE30BBFF2660BE1715A4589334C74C7
def sm2Gy : Nat := 0xBC3736A2F4F6779C59BDCEE36B692153D0A9877CC62A474002DF32E52139F0A0

/-- x^e mod m over `n` bits of e, from the top. -/
def powMod (m x e : Nat) : Nat → Nat → Nat
  | 0, acc => acc
  | n + 1, acc =>
    let sq := acc * acc % m
    powMod m x e n (if bit e n then sq * x % m else sq)

/-- The inverse modulo the prime. -/
def invP (x : Nat) : Nat := powMod sm2P x (sm2P - 2) 256 1

/-- Subtraction modulo the prime. -/
def subP (a b : Nat) : Nat := (a + sm2P - b % sm2P) % sm2P

/-- Doubling in Jacobian coordinates (a = −3); a point with Z = 0 is the point at infinity. -/
def dblJ (q : Nat × Nat × Nat) : Nat × Nat × Nat :=
  let (x, y, z) := q
  let d := z * z % sm2P
  let g := y * y % sm2P
  let b := x * g % sm2P
  let a := 3 * (subP x d) * (x + d) % sm2P
  let x3 := subP (a * a) (8 * b)
  let z3 := subP (subP ((y + z) * (y + z)) g) d
  (x3, subP (a * (subP (4 * b) x3)) (8 * g * g), z3)

/-- Addition in Jacobian coordinates. -/
def addJ (p q : Nat × Nat × Nat) : Nat × Nat × Nat :=
  let (x1, y1, z1) := p
  let (x2, y2, z2) := q
  if z1 % sm2P = 0 then q else if z2 % sm2P = 0 then p else
  let a := z1 * z1 % sm2P
  let b := z2 * z2 % sm2P
  let u1 := x1 * b % sm2P
  let u2 := x2 * a % sm2P
  let s1 := y1 * b * z2 % sm2P
  let s2 := y2 * a * z1 % sm2P
  if u1 = u2 then (if s1 = s2 then dblJ p else (1, 1, 0)) else
  let h := subP u2 u1
  let r := subP s2 s1
  let hh := h * h % sm2P
  let hhh := hh * h % sm2P
  let v := u1 * hh % sm2P
  let x3 := subP (subP (r * r) hhh) (2 * v)
  (x3, subP (r * subP v x3) (s1 * hhh), z1 * z2 % sm2P * h % sm2P)

/-- k times a point, over `n` bits of k. -/
def mulJ (k : Nat) (p : Nat × Nat × Nat) : Nat → Nat × Nat × Nat → Nat × Nat × Nat
  | 0, acc => acc
  | n + 1, acc =>
    let d := dblJ acc
    mulJ k p n (if bit k n then addJ d p else d)

/-- The affine coordinates of a point. -/
def affine (q : Nat × Nat × Nat) : Nat × Nat :=
  let zi := invP q.2.2
  let z2 := zi * zi % sm2P
  (q.1 * z2 % sm2P, q.2.1 * z2 % sm2P * zi % sm2P)

/-- k times the base point, affine. -/
def mulBase (k : Nat) : Nat × Nat := affine (mulJ k (sm2Gx, sm2Gy, 1) 256 (1, 1, 0))

/-- The public key of a private key: x then y (R447). -/
def sm2Public (d : Nat) : Bytes :=
  let q := mulBase d
  beBytes 32 q.1 ++ beBytes 32 q.2

/-- The number e that a signature covers: the digest of the signer's identity, the curve and the key, then the message. -/
def sm2Digest (ident key msg : Bytes) : Nat :=
  let za := sm3 (beBytes 2 (8 * ident.length) ++ ident ++ beBytes 32 (sm2P - 3) ++ beBytes 32 sm2B ++
    beBytes 32 sm2Gx ++ beBytes 32 sm2Gy ++ slice key 0 64)
  beNat (sm3 (za ++ msg))

/-- The SM2 signature of a message by the private key d with the number k: r then s (R447). -/
def sm2Sign (ident : Bytes) (d k : Nat) (msg : Bytes) : Bytes :=
  let e := sm2Digest ident (sm2Public d) msg
  let r := (e + (mulBase k).1) % sm2N
  let inv := powMod sm2N ((1 + d) % sm2N) (sm2N - 2) 256 1
  beBytes 32 r ++ beBytes 32 (inv * ((k + sm2N * sm2N - r * d) % sm2N) % sm2N)

/-- Key derivation to 256 bits: one block of SM3 over the input and the counter 1 (GB/T 32918 part 4). -/
def sm3Kdf (z : Bytes) : Nat := beNat (sm3 (z ++ [0, 0, 0, 1]))

/-- Whether (r, s) is the SM2 signature of a message under the public key (x, y), with the signer's identity. -/
def sm2Verify (ident : Bytes) (key : Bytes) (msg : Bytes) (sig : Bytes) : Bool :=
  let x := beNat (slice key 0 32)
  let y := beNat (slice key 32 32)
  let r := beNat (slice sig 0 32)
  let t := beNat (slice sig 32 32)
  let e := sm2Digest ident key msg
  let u := (r + t) % sm2N
  let q := addJ (mulJ t (sm2Gx, sm2Gy, 1) 256 (1, 1, 0)) (mulJ u (x, y, 1) 256 (1, 1, 0))
  let x1 := (affine q).1
  decide (0 < r) && decide (r < sm2N) && decide (0 < t) && decide (t < sm2N) && decide (u ≠ 0) &&
    decide (x < sm2P) && decide (y < sm2P) &&
    decide (y * y % sm2P = (x * x * x + (sm2P - 3) * x + sm2B) % sm2P) && decide ((e + x1) % sm2N = r)

end Sys2Proof.Machine
end

