-- ==== Sys2Proof/Machine/Operands.lean ====
section
/-! DEFINITION. The operand forms shared by threads, engines, descriptors and packets: global addresses (R22 to R26),
where an HBM address lies on the stacks (R190 to R195, R495), and the reserved areas of HBM. -/

namespace Sys2Proof.Machine

/-! ### Global addresses (R22) -/

/-- `DEV`. -/
def addrDev (a : W64) : Nat := bits a.toNat 63 52
/-- `SPACE`. -/
def addrSpace (a : W64) : Nat := bits a.toNat 51 48
/-- `OFFSET`. -/
def addrOff (a : W64) : Nat := bits a.toNat 47 0

/-- An address from its fields. -/
def mkAddr (dev space off : Nat) : W64 := BitVec.ofNat 64 (dev % 4096 * 2 ^ 52 + space % 16 * 2 ^ 48 + off % 2 ^ 48)

/-- A byte of a tile's SRAM as a global address of this part (R23). -/
def tileAddr (tile off : Nat) : W64 := mkAddr 0xFFF 1 (tile * 2 ^ 24 + off)

/-- Bytes of HBM (R23). -/
def hbmBytes : Nat := 0x18000000000
/-- Bytes of a tile's SRAM (R24). -/
def sramBytes : Nat := 0xC00000

/-- The address stays on this part (R26). -/
def isOwn (s : State) (a : W64) : Bool :=
  addrDev a == 0xFFF || (s.fab.devValid && addrDev a == s.fab.devNum.toNat)

/-- The number this part puts into packets (R26). -/
def ownDev (s : State) : Nat := s.fab.devNum.toNat

/-- The route table holds an entry for the device (R232). -/
def routed (s : State) (dev : Nat) : Bool := (tget s.fab.routes dev {}).valid

/-- `len` bytes from `off` lie in one valid range of the space (R23, R25). An empty access asks for one byte. -/
def rangeOk (space off len : Nat) : Bool :=
  match space with
  | 0 => decide (off + max len 1 ≤ hbmBytes)
  | 1 => decide (off / 2 ^ 24 < 1152) && decide (off % 2 ^ 24 + max len 1 ≤ sramBytes)
  | 3 => decide (off + max len 1 ≤ 2 ^ 48)
  | 4 => decide (off + max len 1 ≤ 2 ^ 48)
  | _ => false

/-- An access of `len` bytes that R25 allows, control space apart. -/
def addrOk (s : State) (a : W64) (len : Nat) : Bool :=
  rangeOk (addrSpace a) (addrOff a) len &&
    (isOwn s a || (decide (addrSpace a ≤ 1) && s.fab.devValid && routed s (addrDev a)))

/-- Control-space offsets of R338 for a read of `len` bytes. -/
def controlOk (off len : Nat) : Bool :=
  match off / 2 ^ 44 with
  | 0 => decide (bits off 43 35 = 0) && decide (bits off 34 24 < 1152) && decide (bits off 23 10 = 0) &&
      decide (off % 4 = 0) && decide (len ≤ 4)
  | 1 => decide (off % 2 ^ 44 + len ≤ 16)
  | 2 => decide (off % 2 ^ 44 + len ≤ 64 * 32)
  | _ => false

/-- The tile an address in tile SRAM names. -/
def addrTile (a : W64) : Nat := addrOff a / 2 ^ 24
/-- The byte within that tile. -/
def addrLocal (a : W64) : Nat := addrOff a % 2 ^ 24

/-- An address in a context area of bank T, which only the pipes write (R140). -/
def inContext (off : Nat) : Bool := decide (off / 2 ^ 21 = 4) && decide (off % 1024 < 256)

/-- Some byte of a run lies in a context area. -/
def touchesContext (off len : Nat) : Bool :=
  decide (len > 0) && (inContext off || inContext (off + len - 1) ||
    (decide (len > 768) && (List.range (len / 256 + 1)).any (fun i => inContext (off + min (256 * i) (len - 1)))))

/-! ### Where an HBM address lies -/

/-- The reset entry of a region: LOCAL(r / 128), frame r mod 128 (R193). -/
def resetRegion (r : Nat) : Region := ⟨0, BitVec.ofNat 4 (r / 128), BitVec.ofNat 7 (r % 128)⟩

/-- The entry in force for a region. -/
def activeRegion (s : State) (r : Nat) : Region := tget s.hbm.active r (resetRegion r)

/-- Placement of granule n of a LOCAL region (R194): part-wide pseudo-channel and byte within it. -/
def placeLocal (die frame n : Nat) : Nat × Nat :=
  let p := (n % 64) ^^^ (n / 64 % 64) ^^^ (n / 4096 % 64) ^^^ (n / 2 ^ 18 % 16)
  (64 * die + p, frame * 2 ^ 24 + n / 64 % 2 ^ 16 * 256)

/-- Placement of granule n of region r of a SPREAD group (R195). -/
def placeSpread (r frame n : Nat) : Nat × Nat :=
  let g := r % 12 * 2 ^ 22 + n
  let j := g / 768
  let q := g % 768
  let sh := ((j % 256) ^^^ (j / 256 % 256)) * 3 % 768
  ((q + sh) % 768, frame * 2 ^ 24 + j * 256)

/-- The pseudo-channel and the byte within it where the granule of an HBM offset lies. -/
def placeOf (s : State) (off : Nat) : Nat × Nat :=
  let r := off / 2 ^ 30
  let n := off / 256 % 2 ^ 22
  let e := activeRegion s r
  if e.mode = 1 then placeSpread r e.frame.toNat n else placeLocal e.die.toNat e.frame.toNat n

/-- The number of the granule's physical place: channel * 2^23 + granule of the channel. -/
def granuleOf (s : State) (off : Nat) : Nat := (placeOf s off).1 * 2 ^ 23 + (placeOf s off).2 / 256

/-- The key of a byte in the stored memory: its granule's place, then the byte in the granule. -/
def physKey (s : State) (off : Nat) : Nat := granuleOf s off * 256 + off % 256

/-- The stack of a granule place. -/
def stackOfPlace (g : Nat) : Nat := g / 2 ^ 23 / 32

/-- Bank of a granule place (R495). -/
def bankOfPlace (g : Nat) : Nat := bits (g % 2 ^ 23) 7 2
/-- Row of a granule place (R495). -/
def rowOfPlace (g : Nat) : Nat := bits (g % 2 ^ 23) 22 8

/-- The granule places of a row of a bank (R495). -/
def rowGranules (pc bank row : Nat) : List Nat :=
  (List.range 4).map (fun k => pc * 2 ^ 23 + row * 256 + bank * 4 + k)

/-! ### Areas of HBM -/

/-- The staging pool (R343). -/
def inPool (s : State) (off len : Nat) : Bool :=
  decide (0 < s.cmd.poolCount.toNat) && decide (off < (s.cmd.poolFirst.toNat + s.cmd.poolCount.toNat) * 2 ^ 30) &&
    decide (s.cmd.poolFirst.toNat * 2 ^ 30 < off + len)

/-- Bytes of the error log ring (R440). -/
def logBytes (s : State) : Nat := 64 * 2 ^ s.log.log2n.toNat

/-- The error log ring, while it is enabled. -/
def inLog (s : State) (off len : Nat) : Bool :=
  s.log.en && decide (off < s.log.region.toNat * 2 ^ 30 + logBytes s) &&
    decide (s.log.region.toNat * 2 ^ 30 < off + len)

/-- The Bivouac work region, reserved at all times (R383). -/
def inWork (s : State) (off len : Nat) : Bool :=
  decide (off < (s.snap.work.toNat + 1) * 2 ^ 30) && decide (s.snap.work.toNat * 2 ^ 30 < off + len)

/-- Bytes of the remote line cache's area (R265). -/
def rlcBytes (s : State) : Nat := if s.fab.rlcSize = 0 then 0 else 2 ^ (27 + s.fab.rlcSize.toNat)

/-- The remote line cache's area. -/
def inRlc (s : State) (off len : Nat) : Bool :=
  decide (0 < rlcBytes s) && decide (off < s.fab.rlcRegion.toNat * 2 ^ 30 + rlcBytes s) && decide (s.fab.rlcRegion.toNat * 2 ^ 30 < off + len)

/-- The granule of region r that lies at a place, if one does: `placeOf` read backwards (R194, R195). -/
def granuleIn (s : State) (r g : Nat) : Option Nat :=
  let e := activeRegion s r
  let pc := g / 2 ^ 23
  let j := g % 2 ^ 16
  if g % 2 ^ 23 / 2 ^ 16 ≠ e.frame.toNat then none
  else if e.mode = 1 then
    let n := j * 768 + (pc + 768 - ((j % 256) ^^^ (j / 256 % 256)) * 3 % 768) % 768
    if n / 2 ^ 22 = r % 12 then some (n % 2 ^ 22) else none
  else if pc / 64 = e.die.toNat then some (j * 64 + ((pc % 64) ^^^ (j % 64) ^^^ (j / 64 % 64) ^^^ (j / 4096 % 16)))
  else none

/-- The set of the remote line cache whose metadata a granule place holds: the last two granules of 4 KiB (R265). -/
def metaSet (s : State) (g : Nat) : Option Nat :=
  match granuleIn s s.fab.rlcRegion.toNat g with
  | some n => if n * 256 < rlcBytes s ∧ 14 ≤ n % 16 then some (n / 16) else none
  | none => none

/-- Numbers of the units of `unit` bytes that a run touches. -/
def unitsOf (unit off len : Nat) : List Nat :=
  if len = 0 then [] else (List.range ((off + len - 1) / unit - off / unit + 1)).map (fun i => off / unit + i)

/-- A run split at boundaries of `unit` bytes: (offset, length) pieces in rising order. -/
def piecesOf (unit off len : Nat) : List (Nat × Nat) :=
  (unitsOf unit off len).map fun u =>
    let lo := max off (u * unit)
    (lo, min (off + len) ((u + 1) * unit) - lo)

/-- A valid retirement entry names a granule of the run (R208). -/
def retiredRun (s : State) (off len : Nat) : Bool :=
  s.hbm.retired.any (fun e => e.2.2 && (decide (off < (e.2.1.toNat + 1) * 2 ^ 16) && decide (e.2.1.toNat * 2 ^ 16 < off + len)))

/-- The run lies in an OFF region (R196). -/
def offRun (s : State) (off len : Nat) : Bool := (unitsOf (2 ^ 30) off len).any (fun r => (activeRegion s r).mode == 2)

/-- The mask of bytes that a write of a granule covers. -/
def byteMask (lo n : Nat) : BitVec 256 := BitVec.ofNat 256 ((2 ^ n - 1) * 2 ^ lo)

/-- Write bytes of the granule at a place. A write of the whole granule, or the one that completes the held ones, stores fresh
codes; a smaller one is held (R200). Data marked bad marks the granule (R430). -/
def granuleWrite (s : State) (g lo : Nat) (b : Bytes) (bad : Bool) : State :=
  let h := tget s.hbm.held g ⟨0, s.clk, false⟩
  let mask := h.mask ||| byteMask lo b.length
  let mem := memWrite zeroByte s.hbm.mem (g * 256 + lo) b
  if mask = BitVec.allOnes 256 then
    { s with hbm := { s.hbm with
      mem := mem
      held := tdel s.hbm.held g
      marks := if h.bad || bad then tset s.hbm.marks g { chkBad := true } else tdel s.hbm.marks g
      logged := s.hbm.logged.filter (· != g)
      writeback := s.hbm.writeback.filter (· != g) } }
  else { s with hbm := { s.hbm with mem := mem, held := tset s.hbm.held g ⟨mask, h.since, h.bad || bad⟩ } }

/-- The ownership index of a byte of HBM or tile SRAM (R260). -/
def ownIndex (space off : Nat) : Nat :=
  if space = 0 then off / 2 ^ 21 else 786432 + 6 * (off / 2 ^ 24) + off % 2 ^ 24 / 2 ^ 21

/-- The ownership entry of an index (R260): PRIVATE, owned by this part, at reset. -/
def ownEntry (s : State) (i : Nat) : W16 := tget s.fab.owners i 0x3FFC

/-- `STATE` of an entry. -/
def ownState (e : W16) : Nat := bits e.toNat 1 0
/-- `OWNER` of an entry. -/
def ownOwner (e : W16) : Nat := bits e.toNat 13 2
/-- `CACHED` of an entry. -/
def ownCached (e : W16) : Bool := bit e.toNat 14
/-- `WOPEN` of an entry. -/
def ownOpen (e : W16) : Bool := bit e.toNat 15

/-- An entry from its fields. -/
def mkOwn (st owner : Nat) (cached wopen : Bool) : W16 :=
  BitVec.ofNat 16 (st % 4 + owner % 4096 * 4 + b2n cached * 2 ^ 14 + b2n wopen * 2 ^ 15)

/-! ### 128-bit engine instructions (R101) -/

/-- Bits [hi:lo] of an engine instruction. -/
def wbits (w : W128) (hi lo : Nat) : Nat := bits w.toNat hi lo

/-- `OP`. -/
def opOf (w : W128) : Nat := wbits w 7 0
/-- `STAT`: write a status record. -/
def statOf (w : W128) : Bool := bit w.toNat 15
/-- `CTR`. -/
def ctrOf (w : W128) : Nat := wbits w 23 16
/-- `CEN`. -/
def cenOf (w : W128) : Bool := bit w.toNat 24

/-! ### 32-bit thread instructions (R142) -/

/-- `OPC`. -/
def opcOf (w : W32) : Nat := bits w.toNat 9 3
/-- `RD`. -/
def rdOf (w : W32) : Nat := bits w.toNat 13 10
/-- `RA`. -/
def raOf (w : W32) : Nat := bits w.toNat 17 14
/-- `RB`. -/
def rbOf (w : W32) : Nat := bits w.toNat 21 18
/-- `FN`. -/
def fnOf (w : W32) : Nat := bits w.toNat 31 22
/-- sext(`IMM14`). -/
def imm14 (w : W32) : W64 := (BitVec.ofNat 14 (bits w.toNat 31 18)).signExtend 64
/-- `IMM16`. -/
def imm16 (w : W32) : Nat := bits w.toNat 31 16
/-- sext(`IMM22`). -/
def imm22 (w : W32) : Int := signed 22 (bits w.toNat 31 10)

end Sys2Proof.Machine
end

