-- ==== Sys2Proof/Machine/HostConfig.lean ====
section
/-! DEFINITION. The configuration space of a host port (R466) and the entries of its MSI-X table (R467). The spec places
the structures and states their contents; where each field stands in its structure is PRESUMED from PCI Express Base 6.0
(PRESUMED, log entry 124). A dword whose contents the spec does not state at all reads as a free value. -/

namespace Sys2Proof.Machine

/-- A dword of configuration space: its offset, its value at reset, the bits that a write changes, and the bits of which
the spec states nothing. -/
structure CfgRow where
  at_   : Nat
  reset : Nat := 0
  rw    : Nat := 0
  open_ : Nat := 0
  deriving DecidableEq, Repr

/-- The Type 0 header: the IDs and the class code of R466, three 64-bit BARs (R467), no INTx. -/
def headerRows : List CfgRow :=
  [{ at_ := 0x00, reset := 0x24161F3A }, { at_ := 0x04, reset := 0x00100000, rw := 0x146, open_ := 0xF9000000 },
   { at_ := 0x08, reset := 0x12000000 }, { at_ := 0x0C, rw := 0xFF },
   { at_ := 0x10, reset := 0x4, rw := 0xFFF00000 }, { at_ := 0x14, rw := 0xFFFFFFFF },
   { at_ := 0x18, reset := 0xC, rw := 0xC0000000 }, { at_ := 0x1C, rw := 0xFFFFFFFF },
   { at_ := 0x20, reset := 0x4, rw := 0xFFFFE000 }, { at_ := 0x24, rw := 0xFFFFFFFF },
   { at_ := 0x2C, reset := 0x00011F3A }, { at_ := 0x34, reset := 0x40 }, { at_ := 0x3C, rw := 0xFF }]

/-- Power Management, MSI-X and PCI Express: D0 and D3hot without PME, 256 vectors, payload up to 512 B and read requests
up to 4,096 B, FLR, timeout ranges A to D, 10-bit tags, LTR, ASPM L1 (R463, R466). -/
def capabilityRows : List CfgRow :=
  [{ at_ := 0x40, reset := 0x00035001 }, { at_ := 0x44, rw := 0x3 },
   { at_ := 0x50, reset := 0x00FF6011, rw := 0xC0000000 }, { at_ := 0x54, reset := 0x4 }, { at_ := 0x58, reset := 0x1004 },
   { at_ := 0x60, reset := 0x00020010 }, { at_ := 0x64, reset := 0x10008022 },
   { at_ := 0x68, reset := 0x2110, rw := 0x71FF, open_ := 0x000F0000 },
   { at_ := 0x6C, reset := 0x00400886 }, { at_ := 0x70, rw := 0xC3 }, { at_ := 0x84, reset := 0x0003081F },
   { at_ := 0x88, rw := 0x141F }, { at_ := 0x8C, reset := 0x7E }, { at_ := 0x90, reset := 0x6, rw := 0xF }]

/-- The dwords from one offset to another of which the spec states nothing. -/
def openRows (lo hi : Nat) : List CfgRow := (List.range ((hi - lo) / 4)).map (fun i => { at_ := lo + 4 * i, open_ := 0xFFFFFFFF })

/-- The extended structures: their headers, the serial number, Resizable BAR (1 GiB to 2 TiB) and LTR. -/
def extendedRows : List CfgRow :=
  [{ at_ := 0x100, reset := 0x14820001 }, { at_ := 0x148, reset := 0x15810003 },
   { at_ := 0x158, reset := 0x16810015 }, { at_ := 0x15C, reset := 0x03FFC000 }, { at_ := 0x160, reset := 0xA22, rw := 0x3F00 },
   { at_ := 0x168, reset := 0x17010018 }, { at_ := 0x16C, rw := 0x1FFF1FFF },
   { at_ := 0x170, reset := 0x1A010019 }, { at_ := 0x1A0, reset := 0x1B010025 }, { at_ := 0x1B0, reset := 0x1E010026 },
   { at_ := 0x1E0, reset := 0x2201002A }, { at_ := 0x220, reset := 0x26010031 }, { at_ := 0x260, reset := 0x00010027 }] ++
  openRows 0x104 0x148 ++ openRows 0x174 0x1A0 ++ openRows 0x1A4 0x1B0 ++ openRows 0x1B4 0x1E0 ++ openRows 0x1E4 0x220 ++
  openRows 0x224 0x260 ++ openRows 0x264 0x288

/-- The dword at an offset; one that no structure holds reads as zero. -/
def cfgRow (off : Nat) : CfgRow :=
  ((headerRows ++ capabilityRows ++ extendedRows).find? (fun r => r.at_ == off)).getD { at_ := off }

/-- What a dword holds: the value last written, or its reset value. -/
def cfgWord (h : HostPort) (off : Nat) : Nat := (tget h.cfg off (BitVec.ofNat 32 (cfgRow off).reset)).toNat

/-- `BAR Size` of BAR2: 2 to the power 20 + n bytes (R466: 1 GiB at reset). -/
def bar2Log (h : HostPort) : Nat := bits (cfgWord h 0x160) 13 8

/-- Bytes of BAR2. -/
def bar2Size (h : HostPort) : Nat := 2 ^ (20 + bar2Log h)

/-- The power state: 0 for D0, 3 for D3hot (R463). -/
def powerState (h : HostPort) : Nat := cfgWord h 0x44 % 4

/-- The bits of a dword that a write changes; BAR2's depend on its size. -/
def cfgMask (h : HostPort) (off : Nat) : Nat :=
  if off = 0x18 then (2 ^ 64 - bar2Size h) % 2 ^ 32
  else if off = 0x1C then (2 ^ 64 - bar2Size h) / 2 ^ 32
  else (cfgRow off).rw

/-- Outstanding non-posted requests that a port may have (R463). -/
def readLimit (h : HostPort) : Nat := if bit (cfgWord h 0x88) 12 then 768 else 256

/-- The value of a dword beside its open bits: the link's speed and width, the serial number, and BAR2 by its size. -/
def cfgValue (h : HostPort) (off : Nat) : Nat :=
  let w := cfgWord h off
  if off = 0x70 then w % 2 ^ 16 + (h.speed.toNat + 16 * h.width.toNat) * 2 ^ 16
  else if off = 0x14C then Config.serial.toNat % 2 ^ 32
  else if off = 0x150 then Config.serial.toNat / 2 ^ 32
  else if off = 0x18 ∨ off = 0x1C then (w &&& cfgMask h off) ||| (if off = 0x18 then 0xC else 0)
  else w

/-- A value that names a size, a power state or a request size that the port does not have is discarded. -/
def cfgTakes (off v : Nat) : Bool :=
  if off = 0x44 then v % 4 == 0 || v % 4 == 3
  else if off = 0x68 then decide (bits v 7 5 ≤ 2) && decide (bits v 14 12 ≤ 5)
  else if off = 0x160 then decide (10 ≤ bits v 13 8) && decide (bits v 13 8 ≤ 21)
  else true

/-- A write of a dword. -/
def cfgStore (h : HostPort) (off v : Nat) : HostPort :=
  let m := cfgMask h off
  let w := cfgWord h off
  if cfgTakes off v && decide (m ≠ 0) then { h with cfg := tset h.cfg off (BitVec.ofNat 32 (w - (w &&& m) + (v &&& m))) } else h

/-- The configuration space after a Function Level Reset or on entry to D3hot: what lets the port send requests is off, and
the rest is unchanged (R470). -/
def cfgAfterFlr (h : HostPort) (d3hot : Bool) : Table W32 :=
  tset (tdel (tdel h.cfg 0x04) 0x50) 0x44 (if d3hot then 3 else 0)

/-- A dword of BAR4: the MSI-X table's entries of 16 bytes, then the PBA at 0x1000 (R466, R467). -/
def bar4Value (h : HostPort) (off : Nat) : Nat :=
  if off < 0x1000 then
    let x := tget h.vectors (off / 16) {}
    match off % 16 with
    | 0 => x.addr.toNat % 2 ^ 32
    | 4 => x.addr.toNat / 2 ^ 32
    | 8 => x.data.toNat
    | _ => b2n x.masked
  else if off < 0x1020 then
    (List.range 32).foldl (fun n i => n + b2n (tget h.vectors ((off - 0x1000) * 8 + i) {}).pba * 2 ^ i) 0
  else 0

/-- A port may enter ASPM L1: none of its ring pairs is ACTIVE and it has no mirror ring enabled (R465). -/
def mayEnterL1 (s : State) (p : Nat) : Bool :=
  (s.hport p).up && bit (cfgWord (s.hport p) 0x70) 1 && (List.range 16).all (fun k => (s.ring (16 * p + k)).phase != .active) &&
    !(s.log.mirEn && b2n s.log.mirPort == p)

end Sys2Proof.Machine
end

