-- ==== Sys2Proof/Machine/Log.lean ====
section
/-! DEFINITION. Host-side events and the error log: MSI-X moderation (R473), the classes of fault codes (R435, R446),
the 64-byte record (R441), suppression (R443), the log ring and its early buffer (R440) and the mirror (R444). -/

namespace Sys2Proof.Machine

/-! ### Interrupt vectors (R473) -/

/-- The vector's state on a port; masked at reset (PRESUMED, log entry 16). -/
def vectorOf (s : State) (p v : Nat) : Vector256 := tget (s.hport p).vectors v {}

/-- Replace a vector's state. -/
def setVector (s : State) (p v : Nat) (x : Vector256) : State :=
  s.setHport p { s.hport p with vectors := tset (s.hport p).vectors v x }

/-- A message goes out. -/
def sendMessage (s : State) (p v : Nat) : State :=
  (s.setHport p { s.hport p with sent := satInc (s.hport p).sent }).emit (.msix p v (vectorOf s p v).addr (vectorOf s p v).data)

/-- The point at which the part would send: the message, or the pending bit while the vector is masked; the count
starts again. -/
def vectorFire (s : State) (p v : Nat) : State :=
  let x := vectorOf s p v
  if x.masked then setVector s p v { x with pba := true, count := 0, timing := false }
  else sendMessage (setVector s p v { x with count := 0, timing := false }) p v

/-- An event of a vector's source. -/
def vectorEvent (s : State) (p v : Nat) : State :=
  let x := vectorOf s p v
  let h := s.hport p
  let x' : Vector256 := { x with count := x.count + 1, firstAt := (if x.timing then x.firstAt else s.clk), timing := true }
  let s' := setVector s p v x'
  if x'.count ≥ h.modCount.toNat ∨ h.modTime = 0 then vectorFire s' p v else s'

/-! ### Classes (R435, R446) -/

/-- Codes of class FATAL. -/
def fatalCodes : List Nat := [0x0204, 0x0306, 0x0307, 0x0803, 0x0903, 0x0A01, 0x0A02]
/-- Codes of class CORRECTED. -/
def correctedCodes : List Nat := [0x0202, 0x0304]
/-- Codes of class CONTAINED. -/
def containedCodes : List Nat :=
  [0x0102, 0x0103, 0x0104, 0x0105, 0x0106, 0x0107, 0x0108, 0x0109, 0x010A, 0x010B, 0x010C, 0x010D, 0x010E, 0x0201,
   0x0203, 0x0205, 0x0301, 0x0303, 0x0309, 0x0402, 0x0403, 0x0404, 0x0603, 0x0604, 0x0607, 0x0608, 0x0705, 0x0B03,
   0x0C04]

/-- The class of a code: 0 INFO, 1 CORRECTED, 2 CONTAINED, 3 FATAL. -/
def classOf (code : Nat) : Nat :=
  if fatalCodes.contains code then 3 else if containedCodes.contains code then 2
  else if correctedCodes.contains code then 1 else 0

/-- The replayable faults (R352). -/
def replayable (code detail : Nat) : Bool :=
  [0x0102, 0x0106, 0x010E, 0x0201, 0x0203, 0x0301].contains code ||
    (code == 0x0205 && decide (1 ≤ detail) && decide (detail ≤ 3))

/-! ### Units (R441, R496) -/

/-- `UNIT` of a tile, compute die, fabric die, host die, service die, stack, Rope port. -/
def unitTile (t : Nat) : W16 := BitVec.ofNat 16 t
def unitCompute (d : Nat) : W16 := BitVec.ofNat 16 (0x1000 + d)
def unitFabric (f : Nat) : W16 := BitVec.ofNat 16 (0x2000 + f)
def unitHost : W16 := 0x3000
def unitService : W16 := 0x4000
def unitStack (k : Nat) : W16 := BitVec.ofNat 16 (0x5000 + k)
def unitPort (p : Nat) : W16 := BitVec.ofNat 16 (0x6000 + p)

/-! ### Records -/

/-- A fault to be recorded: what R441 and R442 place in its record. -/
structure Raise where
  code    : Nat
  detail  : Nat := 0
  unit    : W16
  ring    : Option Nat := none
  attempt : Nat := 0
  pitch   : W16 := 0
  kind    : Nat := 0
  data    : Bytes := []
  replay  : Bool := false
  ended   : Bool := false
  remote  : Bool := false
  deriving DecidableEq, Repr

/-- `DATA` of kind 1 (R442): global address, failing byte offset, requesting device. -/
def dataAddr (a : W64) (dev : Nat := 0) : Bytes := layout 32 [(0, 8, a.toNat), (12, 2, dev % 4096)]
/-- `DATA` of kind 1 for a pack: its address and the failing byte (R50). -/
def dataPack (a : W64) (off : Nat) : Bytes := layout 32 [(0, 8, a.toNat), (8, 4, off)]
/-- `DATA` of kind 2: a count and up to eight device numbers. -/
def dataDevs (ds : List Nat) : Bytes := layout 32 [(0, 2, ds.length), (2, 12, packDevs ds)]
/-- `DATA` of kind 3: slot, program counter and word of a thread. -/
def dataThread (slot pc word : Nat) : Bytes := layout 32 [(0, 4, slot), (4, 4, pc), (8, 4, word)]
/-- `DATA` of kind 4: logical granule, pseudo-channel, bank, row, previously repaired. -/
def dataHbm (gran pc bank row : Nat) (fixed : Bool) : Bytes :=
  layout 32 [(0, 4, gran), (4, 2, pc), (6, 1, bank), (8, 4, row), (12, 1, b2n fixed)]
/-- `DATA` of kind 5: tile, bank, word offset or counter number, granule or element. -/
def dataBank (tile bank word gran : Nat) : Bytes := layout 32 [(0, 2, tile), (2, 1, bank), (4, 4, word), (8, 1, gran)]
/-- `DATA` of kind 6: expected and found. -/
def dataSeq (expected found : Nat) : Bytes := layout 32 [(0, 4, expected), (4, 4, found)]
/-- `DATA` of kind 7: `CHK_WHERE` and `SUSPECT`. -/
def dataSum (chk suspect : Nat) : Bytes := layout 32 [(0, 1, chk), (2, 2, suspect)]

/-- The 64 bytes of a record (R441). -/
def recordBytes (r : LogRecord) : Bytes :=
  layout 64 [(0, 4, r.lseq.toNat), (4, 2, r.code.toNat),
    (6, 1, r.cls.toNat + 4 * b2n r.replay + 8 * b2n r.ended + 16 * b2n r.remote), (7, 1, r.detail.toNat),
    (8, 8, r.timeNs), (16, 2, r.unit.toNat), (18, 2, r.suppr.toNat),
    (20, 1, match r.ring with | some k => 0x80 + k % 32 | none => 0), (21, 1, r.attempt.toNat),
    (22, 2, r.pitch.toNat), (24, 1, r.kind.toNat), (32, 32, leNat r.data)]

/-- The suppression entry of a combination (R443). -/
def suppressOf (s : State) (f : Raise) : Option Suppress :=
  s.log.suppress.find? (fun e => e.code.toNat == f.code && e.unit == f.unit && e.detail.toNat == f.detail)

/-- The record is one that R443 counts and does not write. -/
def suppressed (s : State) (f : Raise) : Bool :=
  decide (classOf f.code ≤ 1) &&
    match suppressOf s f with
    | some e => decide (s.clk < e.at_ + 1000 * usec)
    | none => false

/-- Count a suppressed record. -/
def countSuppressed (s : State) (f : Raise) : State :=
  { s with log := { s.log with suppress := s.log.suppress.map fun e =>
      if e.code.toNat == f.code && e.unit == f.unit && e.detail.toNat == f.detail then { e with count := e.count + 1 }
      else e } }

/-- Forget a combination's entry and, for the classes R443 covers, start a new one. -/
def restartSuppress (s : State) (f : Raise) : List Suppress :=
  let rest := s.log.suppress.filter fun e => !(e.code.toNat == f.code && e.unit == f.unit && e.detail.toNat == f.detail)
  if classOf f.code ≤ 1 then ⟨BitVec.ofNat 16 f.code, f.unit, BitVec.ofNat 8 f.detail, s.clk, 0⟩ :: rest else rest

/-- `DATA` as a record carries it: an addressed fault of this part names this part as the requesting device (R442). -/
def dataOf (s : State) (f : Raise) : Bytes :=
  if f.kind = 1 ∧ f.remote = false ∧ field f.data 12 2 = 0 then splice f.data 12 (leBytes 2 s.fab.devNum.toNat) else f.data

/-- The record a fault produces, with the next `LSEQ` and the time base now. -/
def recordOf (s : State) (f : Raise) : LogRecord :=
  { lseq := s.log.next, code := BitVec.ofNat 16 f.code, cls := BitVec.ofNat 2 (classOf f.code), replay := f.replay,
    ended := f.ended, remote := f.remote, detail := BitVec.ofNat 8 f.detail, timeNs := s.ns, unit := f.unit,
    suppr := (match suppressOf s f with | some e => BitVec.ofNat 16 (min e.count 0xFFFF) | none => 0),
    ring := f.ring, attempt := BitVec.ofNat 8 f.attempt, pitch := f.pitch, kind := BitVec.ofNat 8 f.kind, data := dataOf s f }

/-- The mirror port takes records now (R444). -/
def mirroring (s : State) : Bool := s.log.mirEn && (s.hport (b2n s.log.mirPort)).up

/-- Mirror one record: a 64-byte write at index `LSEQ` mod size. -/
def mirrorOne (s : State) (r : LogRecord) : State :=
  let a := s.log.mirAddr + BitVec.ofNat 64 (r.lseq.toNat % 2 ^ s.log.mirLog2n.toNat * 64)
  ({ s with log := { s.log with unmirrored := s.log.unmirrored.filter (fun q => q != r.lseq) } }).emit
    (.hostWrite (b2n s.log.mirPort) a (recordBytes r) false false)

/-- Mirror, when mirroring begins, the early buffer's records in order (R444). -/
def mirrorEarly (s : State) : State :=
  if mirroring s then
    (s.log.early.filter fun r => s.log.unmirrored.contains r.lseq).foldl mirrorOne s
  else s

/-- The holding buffer of a repair takes what is written to its row meanwhile (R210). -/
def holdWrite (s : State) (g lo : Nat) (b : Bytes) : State :=
  match s.hbm.repair with
  | none => s
  | some r =>
    let whole := (tget? s.hbm.held g).isNone
    let put (e : Nat × Bytes × Bool) : Bytes × Bool := if e.1 = g then (splice e.2.1 lo b, e.2.2 && !whole) else e.2
    { s with hbm := { s.hbm with repair := some { r with held := ((rowGranules r.pc r.bank r.row).zip r.held).map put } } }

/-- A stack that sleeps wakes at an access (R403). -/
def callStack (s : State) (g : Nat) : State :=
  let k := s.stack (stackOfPlace g)
  s.setStack (stackOfPlace g) { k with access := s.clk, waking := k.waking || k.selfRef, wakeAt := if k.selfRef && !k.waking then s.clk else k.wakeAt }

/-- The part as a record finds it when it lands: a region commit under way has ended (R197). -/
def landView (s : State) : State := match s.hbm.commit with | some t => { s with hbm := { s.hbm with active := t } } | none => s

/-- A record goes to HBM as a posted write: nothing can read the granule before its stack takes the write, and during a region
commit it lands under the new table (R197, R203). A retired granule or an OFF region takes no byte (R196, R208); the refusal
is not recorded, since its record would meet the same refusal (DESIGN CHOICE, log entry 111). -/
def postRecord (s : State) (off : Nat) (b : Bytes) : State :=
  let u := landView s
  if retiredRun u off b.length || offRun u off b.length then s
  else
    let g := granuleOf u off
    holdWrite (granuleWrite (callStack s g) g (off % 256) b false) g (off % 256) b

/-- Write a record to its place in the log ring, counting an overwritten record that was never mirrored. -/
def writeRing (s : State) (r : LogRecord) : State :=
  let n := 2 ^ s.log.log2n.toNat
  let old := r.lseq - BitVec.ofNat 32 n
  let lostOne := s.log.unmirrored.contains old
  let u := postRecord s (s.log.region.toNat * 2 ^ 30 + r.lseq.toNat % n * 64) (recordBytes r)
  { u with log := { u.log with
      overCount := (if lostOne then satInc s.log.overCount else s.log.overCount)
      unmirrored := s.log.unmirrored.filter (fun q => !(lostOne && q == old)) } }

/-- Keep a record under the next `LSEQ`: in the log ring, or in the early buffer of 256 records, or counted as lost (R440). -/
def appendRecord (s : State) (r : LogRecord) : State :=
  let s1 := { s with log := { s.log with next := s.log.next + 1 } }
  let keep (t : State) : State := { t with log := { t.log with unmirrored := t.log.unmirrored ++ [r.lseq] } }
  if s.log.ringUp then writeRing (keep s1) r
  else if s.log.early.length < 256 then keep { s1 with log := { s1.log with early := s1.log.early ++ [r] } }
  else { s1 with log := { s1.log with lost := satInc s1.log.lost } }

/-- Put a record in the place of the one that held its `LSEQ`. -/
def replaceRecord (s : State) (r : LogRecord) : State :=
  let s1 := { s with log := { s.log with early := s.log.early.map (fun q => if q.lseq = r.lseq then r else q) } }
  if s.log.ringUp then postRecord s1 (s.log.region.toNat * 2 ^ 30 + r.lseq.toNat % 2 ^ s.log.log2n.toNat * 64) (recordBytes r) else s1

/-- The records of this control cycle so far. -/
def thisCycle (s : State) : List LogRecord := if s.log.cycleAt = s.clk then s.log.cycle else []

/-- A record comes before another of its control cycle: by class from FATAL to INFO, then by unit number (R437). -/
def outranks (r q : LogRecord) : Bool := decide (q.cls.toNat < r.cls.toNat) || (r.cls == q.cls && decide (r.unit.toNat < q.unit.toNat))

/-- Number records from an `LSEQ` on. -/
def renumber : W32 → List LogRecord → List LogRecord
  | _, [] => []
  | n, r :: l => { r with lseq := n } :: renumber (n + 1) l

/-- The records that take new places when one is raised: itself, and those of its control cycle that it comes before. -/
def movedBy (s : State) (r : LogRecord) : List LogRecord :=
  let now := thisCycle s
  let later := now.dropWhile (fun q => !outranks r q)
  renumber (s.log.next - BitVec.ofNat 32 later.length) (r :: later)

/-- Store a record in its place among those of its control cycle (R437, R440). -/
def storeRecord (s : State) (r : LogRecord) : State :=
  let moved := movedBy s r
  let now := (thisCycle s).takeWhile (fun q => !outranks r q) ++ moved
  let s1 := moved.dropLast.foldl replaceRecord s
  let s2 := match moved.getLast? with | some q => appendRecord s1 q | none => s1
  { s2 with log := { s2.log with cycleAt := s.clk, cycle := now } }

/-- Error-log events of the ports that ask for the class (R473). -/
def errorEvents (s : State) (cls : Nat) : State :=
  [0, 1].foldl (fun t p =>
    let h := t.hport p
    if h.errEn && decide (cls ≥ h.errCls.toNat) then vectorEvent t p h.errV.toNat else t) s

/-- Record a fault (R440 to R444). -/
def record (s : State) (f : Raise) : State :=
  if suppressed s f then countSuppressed s f
  else
    let r := recordOf s f
    let s0 := { s with log := { s.log with suppress := restartSuppress s f } }
    let s1 := storeRecord s0 r
    let s2 := if mirroring s1 then (movedBy s0 r).foldl mirrorOne s1 else s1
    errorEvents s2 r.cls.toNat

/-- Record a fault of a unit without data. -/
def note (s : State) (code detail : Nat) (unit : W16) : State := record s { code := code, detail := detail, unit := unit }

/-- Record a fault once per millisecond for a key (R234, R259). -/
def noteOnce (s : State) (key : Nat) (f : Raise) : State :=
  match tget? s.fab.logAt key with
  | some t =>
    if s.clk < t + 1000 * usec then s
    else record { s with fab := { s.fab with logAt := tset s.fab.logAt key s.clk } } f
  | none => record { s with fab := { s.fab with logAt := tset s.fab.logAt key s.clk } } f

end Sys2Proof.Machine
end

