-- ==== Sys2Proof/Machine/Streams.lean ====
section
/-! DEFINITION. Packets leaving the part: paths (R233), drops (R234), streams and their windows (R237 to R242), tags
and outstanding requests (R241, R257, R259), replies, and the test that requests are covered (R252). -/

namespace Sys2Proof.Machine

/-! ### Packet types (R236) -/

def tREAD : Byte := 0x01
def tWRITE : Byte := 0x02
def tWRITEM : Byte := 0x03
def tATOMIC : Byte := 0x04
def tSIGNAL : Byte := 0x05
def tRDATA : Byte := 0x08
def tARESULT : Byte := 0x09
def tACK : Byte := 0x0A
def tSTATUS : Byte := 0x0B
def tRED : Byte := 0x10
def tPIPE : Byte := 0x18
def tCREAD : Byte := 0x20
def tINV : Byte := 0x21
def tRECALL : Byte := 0x22
def tPUBLISH : Byte := 0x23
def tSPREP : Byte := 0x24
def tSCOMMIT : Byte := 0x25
def tSDISCARD : Byte := 0x26
def tSQUERY : Byte := 0x27
def tMGMT : Byte := 0x30

/-- The class a type travels in; `none` for a reserved type (R236). -/
def classOfType (t : Byte) : Option Nat :=
  if [0x01, 0x02, 0x03, 0x04, 0x05].contains t.toNat then some 0
  else if [0x08, 0x09, 0x0A, 0x0B, 0x30].contains t.toNat then some 1
  else if t = tRED then some 2 else if t = tPIPE then some 3
  else if 0x20 ≤ t.toNat ∧ t.toNat ≤ 0x27 then some 0 else none

/-- `LEN` that a type may carry (R236). -/
def lenOk (t : Byte) (n : Nat) : Bool :=
  match t.toNat with
  | 0x01 => n == 0 | 0x02 => n == 8 | 0x03 => n == 9 | 0x04 => n == 1 | 0x05 => n == 1
  | 0x08 => n == 8 | 0x09 => n == 1 | 0x0A => n == 0 | 0x0B => n == 1
  | 0x10 => n == 8 | 0x18 => n == 8
  | _ => decide (n ≤ 8)

/-! ### Paths -/

/-- A port in this state carries the packet (R228, R230). -/
def carries (ph : PortPhase) (mgmt : Bool) : Bool :=
  match ph with
  | .up => true
  | .mgmt => mgmt
  | .timeHold => mgmt
  | _ => false

/-- The usable paths of the entry for a device: (path index, port), ascending (R233). -/
def usablePaths (s : State) (dst : Nat) (mgmt : Bool) : List (Nat × Nat) :=
  let e := tget s.fab.routes dst {}
  if e.valid then
    (List.range 8).filterMap fun k =>
      let f := bits e.paths.toNat (5 * k + 4) (5 * k)
      if bit f 4 && carries (s.port (f % 16)).phase mgmt then some (k, f % 16) else none
  else []

/-- Drop a packet: count it and log it at most once per millisecond per detail (R234). -/
def dropPacket (s : State) (detail : Nat) (unit : W16) : State :=
  noteOnce { s with fab := { s.fab with drops := tset s.fab.drops detail (satInc (tget s.fab.drops detail 0)) } }
    detail { code := 0x0408, detail := detail, unit := unit }

/-- The mark of a place of a fabric die's buffers. -/
def bufferMark (s : State) (p : BufferPlace) : Option EccMark := (s.fab.bufMarks.find? (fun m => m.1 == p)).map (·.2)

/-- The place is written afresh. -/
def clearMark (s : State) (p : BufferPlace) : State :=
  { s with fab := { s.fab with bufMarks := s.fab.bufMarks.filter (fun m => m.1 != p) } }

/-- Read a place of a fabric die's buffers (R434): whether it cannot be corrected, and the state with what is logged. -/
def bufferRead (s : State) (p : BufferPlace) (unit : W16) : Bool × State :=
  match bufferMark s p with
  | none => (false, s)
  | some .correctable => (false, note (clearMark s p) 0x0202 0 unit)
  | some .uncorrectable => (true, note s 0x0206 0 unit)

/-- The unit of the source side of a stream or of a packet's source (R496). -/
def sourceUnit (dst cls : Nat) : W16 := unitFabric ((dst + cls) % 4)

/-- Hand a packet to a port. -/
def queueAt (s : State) (p : Nat) (k : Packet) : State := s.setPort p { s.port p with txq := (s.port p).txq ++ [k] }

/-- Send a packet from this part; `again` is its retransmission count (R233). -/
def dispatchPacket (s : State) (k : Packet) (again : Nat) : State :=
  let us := usablePaths s k.dst.toNat (k.typ == tMGMT)
  match us with
  | [] => dropPacket s 3 (sourceUnit k.dst.toNat k.cls.toNat)
  | _ =>
    let i := (((k.seq.toNat % 256) ^^^ (k.src.toNat % 256)) + again) % us.length
    let c := us.getD i (0, 0)
    queueAt s c.2 { k with path := BitVec.ofNat 3 c.1, hops := s.fab.hops }

/-! ### Streams from this part -/

/-- The source side of a stream; one not yet used starts at sequence 0. -/
def txOf (s : State) (dst cls : Nat) : TxStream :=
  (s.fab.tx.find? (fun x => x.dst == dst && x.cls == cls)).getD { dst := dst, cls := cls }

/-- Replace a stream's source side. -/
def setTx (s : State) (x : TxStream) : State :=
  { s with fab := { s.fab with tx := x :: s.fab.tx.filter (fun y => !(y.dst == x.dst && y.cls == x.cls)) } }

/-- The window of a stream has room for a further packet (R240), and it is not broken (R242). -/
def windowOpen (x : TxStream) : Bool := !x.broken && decide ((x.unacked.filter (·.sent)).length < 4096)

/-- The header fields this part gives every packet. -/
def stampPacket (s : State) (k : Packet) (dst cls : Nat) (seq : W32) : Packet :=
  { k with
    src := s.fab.devNum, dst := BitVec.ofNat 12 dst, cls := BitVec.ofNat 2 cls, seq := seq
    epoch := if k.typ = tMGMT then 0 else BitVec.ofNat 16 s.job.jepoch.toNat }

/-- Put a packet into a stream of class 0, 2 or 3, sending it while the window has room. -/
def sendStream (s : State) (dst cls : Nat) (k : Packet) : State :=
  let x := txOf s dst cls
  let p := stampPacket s k dst cls x.nextSeq
  let go := windowOpen x
  let s' := setTx s { x with nextSeq := x.nextSeq + 1, unacked := x.unacked ++ [{ packet := p, sent := go, at_ := s.clk }] }
  if go then dispatchPacket s' p 0 else s'

/-- The sequence the next packet of a stream takes. -/
def nextSeqOf (s : State) (dst cls : Nat) : W32 := (txOf s dst cls).nextSeq

/-- Send a reply-class packet: not sequenced, not kept (R237). -/
def sendReply (s : State) (dst : Nat) (k : Packet) : State := dispatchPacket s (stampPacket s k dst 1 k.seq) 0

/-- The point a fence records: the last request sent so far on a stream. -/
def coverOf (s : State) (dst cls : Nat) : Cover := ⟨dst, cls, nextSeqOf s dst cls⟩

/-- Add a stream's present end to a list of points, one point a stream. -/
def addCover (c : Cover) (l : List Cover) : List Cover :=
  c :: l.filter (fun x => !(x.dst == c.dst && x.cls == c.cls))

/-- Join two lists of points; the first decides. -/
def joinCover (a b : List Cover) : List Cover := b.foldr (fun c l =>
  if l.any (fun x => x.dst == c.dst && x.cls == c.cls) then l else c :: l) a

/-- The acknowledged point has passed the recorded sequence (R252). -/
def coveredOne (s : State) (c : Cover) : Bool := reached (txOf s c.dst c.cls).acked c.seq

/-- Every recorded stream is covered. -/
def covered (s : State) (l : List Cover) : Bool := l.all (coveredOne s)

/-- Destinations still unacknowledged, ascending. -/
def uncovered (s : State) (l : List Cover) : List Nat :=
  (l.filter (fun c => !coveredOne s c)).foldl (fun ds c => insertNat c.dst ds) []

/-! ### Tags -/

/-- The first tag from `t` on that is not outstanding; tags from 2^23 on are those of posted requests (DEDUCED, log entry 30). -/
def freeTag (used : List Nat) : Nat → Nat → Nat
  | 0, t => t
  | n + 1, t => if used.contains t then freeTag used n ((t + 1) % 2 ^ 23) else t

/-- The tag the next request takes. -/
def newTag (s : State) : Nat :=
  freeTag (s.fab.outstanding.map (·.tag)) (s.fab.outstanding.length + 1) s.fab.nextTag

/-- Send a tagged request on the request stream and keep it outstanding. -/
def openRequest (s : State) (dst : Nat) (u : TagUse) (k : Packet) : State :=
  let t := newTag s
  let p := stampPacket s { k with tag := BitVec.ofNat 24 t } dst 0 (nextSeqOf s dst 0)
  sendStream { s with fab := { s.fab with
    nextTag := (t + 1) % 2 ^ 23
    outstanding := s.fab.outstanding ++ [{ tag := t, use_ := u, packet := p, entered := s.clk, sentAt := s.clk }] } }
    dst 0 p

/-- The outstanding request of a tag. -/
def outstandingOf (s : State) (tag : Nat) : Option Outstanding := s.fab.outstanding.find? (fun o => o.tag == tag)

/-- Free a tag. -/
def freeOutstanding (s : State) (tag : Nat) : State :=
  { s with fab := { s.fab with outstanding := s.fab.outstanding.filter (fun o => o.tag != tag) } }

/-- Keep a reply with its outstanding request. -/
def setReplyOf (s : State) (tag : Nat) (r : Reply) : State :=
  { s with fab := { s.fab with outstanding := s.fab.outstanding.map fun o => if o.tag == tag then { o with reply := r } else o } }

/-- Outstanding requests whose reply has not come (the limit of 4,096 of R137 counts them). -/
def openCount (s : State) : Nat := (s.fab.outstanding.filter (fun o => o.reply == .none)).length

/-! ### Replies of this part to a request packet -/

/-- A `STATUS` with a fault code (R236). -/
def answerStatus (s : State) (q : Packet) (code : Nat) : State :=
  sendReply s q.src.toNat { typ := tSTATUS, cls := 1, src := 0, dst := 0, tag := q.tag, payload := layout 16 [(0, 2, code)] }

/-- An `RDATA` with a line and its check (R245, R429). -/
def answerData (s : State) (q : Packet) (line : Bytes) (st : LineState) : State :=
  sendReply s q.src.toNat { typ := tRDATA, cls := 1, src := 0, dst := 0, tag := q.tag, payload := line, e2e := checkFor line st }

/-- An `ARESULT` with the old word (R247). -/
def answerAtomic (s : State) (q : Packet) (old : W64) : State :=
  sendReply s q.src.toNat { typ := tARESULT, cls := 1, src := 0, dst := 0, tag := q.tag, payload := layout 16 [(0, 8, old.toNat)] }

/-- A `SIGNAL` to a counter of a tile of another part (R248). -/
def signalPacketOf (addr : Nat) (ctr : Nat) (count : Nat) (ring : Nat) : Packet :=
  { typ := tSIGNAL, cls := 0, src := 0, dst := 0, addr := BitVec.ofNat 52 addr, aux := BitVec.ofNat 8 ctr,
    ring := BitVec.ofNat 5 ring, payload := layout 16 [(0, 4, count)] }

end Sys2Proof.Machine
end

