-- ==== Sys2Proof/Machine/Stops.lean ====
section
/-! DEFINITION. How far a fault reaches: a tile that stops (R171), a pitch attempt that stops (R351 to R353), a ring
pair that stops (R329), a change of the job epoch, and the halt of the part (R438, R439). -/

namespace Sys2Proof.Machine

/-! ### Launches and pitches -/

/-- A launch by its number. -/
def launchOf (s : State) (id : Nat) : Option Launch := s.cmd.launches.find? (fun l => l.id == id)

/-- Change a launch. -/
def modLaunch (s : State) (id : Nat) (f : Launch → Launch) : State :=
  { s with cmd := { s.cmd with launches := s.cmd.launches.map fun l => if l.id == id then f l else l } }

/-- The ring pair of the launch that runs on a tile. -/
def tileRing (s : State) (tile : Nat) : Option Nat := ((s.tile tile).launch.bind (launchOf s)).map (·.ring)

/-- An attempt of a pitch is open on the ring pair (R351: OPEN, STOPPING or PREPARING). -/
def inPitch (s : State) (ring : Nat) : Bool :=
  match (s.ring ring).pitch.phase with
  | .open => true
  | .stopping => true
  | .preparing => true
  | _ => false

/-- The ring pair whose stage a tile's accesses see (R341). -/
def tileView (s : State) (tile : Nat) : Option Nat :=
  match tileRing s tile with
  | some r => if inPitch s r then some r else none
  | none => none

/-- The view of a ring pair's own reads and writes. -/
def ringView (s : State) (r : Nat) : Option Nat := if inPitch s r then some r else none

/-- The ring, attempt and pitch that a record of the ring pair carries. -/
def withRing (s : State) (r : Option Nat) (f : Raise) : Raise :=
  match r with
  | none => f
  | some k =>
    if inPitch s k then
      { f with ring := some k, attempt := (s.ring k).pitch.attempt, pitch := (s.ring k).pitch.id }
    else { f with ring := some k }

/-! ### Stopping a tile (R171) -/

/-- The copies of a tile that stops: at most 256 lines, in the order of issue, are outstanding and settle; a copy with
further lines never completes. -/
def cutCopies : Nat → List CopyRun → List CopyRun
  | _, [] => []
  | room, c :: r => { c with todo := c.todo.take room, lost := c.lost || decide (room < c.todo.length) } :: cutCopies (room - c.todo.length) r

/-- Stop issue on a tile and discard its queues; the registers of R172 keep the first fault. What has left a queue runs to
its end, and a copy issues no further line (DEDUCED, log entry 96). -/
def stopTile (s : State) (tile code slot pc word : Nat) : State :=
  let t := s.tile tile
  let t1 := { t with mqueue := [], vqueue := [], cqueue := [], copies := if t.trun = 3 then t.copies else cutCopies 256 t.copies, trun := 3 }
  s.setTile tile (if t.trun = 3 then t1 else
    { t1 with tfltCode := BitVec.ofNat 16 code, tfltSlot := BitVec.ofNat 11 slot, tfpc := BitVec.ofNat 32 pc, tfiw := BitVec.ofNat 32 word })

/-- Stop issue on a tile whose launch ends for another tile's fault: nothing is recorded there. -/
def quietStop (s : State) (tile : Nat) : State :=
  let t := s.tile tile
  s.setTile tile { t with
    mqueue := [], vqueue := [], cqueue := [], copies := if t.trun = 3 then t.copies else cutCopies 256 t.copies, trun := 3 }

/-- Tiles of a launch that have started it and not ended it. -/
def runningTiles (l : Launch) : List Nat := l.started.filter (fun t => !l.ended.contains t)

/-- Stop every launch of the ring pair: its tiles stop, and no further tile starts it. -/
def stopMembers (s : State) (ring : Nat) : State :=
  (s.cmd.launches.filter (fun l => l.ring == ring && !l.finished)).foldl
    (fun t l => (runningTiles l).foldl quietStop (modLaunch t l.id (fun x => { x with stopped := true }))) s

/-! ### Stopping an attempt (R351 to R353) -/

/-- The pitch with the fault that stops its attempt. -/
def Pitch.faulted (p : Pitch) (clk : Nat) (f : Raise) (replays : Bool) : Pitch :=
  { p with
    phase := .stopping, fault := BitVec.ofNat 16 f.code, replays := replays, faultAt := clk, faultUnit := f.unit
    faultList := if f.kind = 2 then f.data else [] }

/-- A later fault decides over the one that stopped the attempt: it is not replayable and that one is, or both are not and it
comes first in the order of records of one control cycle (R356, R437). -/
def Pitch.yields (p : Pitch) (clk : Nat) (f : Raise) (replays : Bool) : Bool :=
  !replays && (p.replays || (!p.aborting && p.faultAt == clk && decide (f.unit.toNat < p.faultUnit.toNat)))

/-- A fault met by a member of the ring pair's pitch, or a refused descriptor in it: the attempt stops. -/
def pitchFault (s : State) (ring : Nat) (f : Raise) (replays : Bool) : State :=
  let r := s.ring ring
  let p := r.pitch
  match p.phase with
  | .open => stopMembers (s.setRing ring { r with pitch := p.faulted s.clk f replays }) ring
  | .preparing => stopMembers (s.setRing ring { r with pitch := p.faulted s.clk f replays }) ring
  | .stopping => if p.yields s.clk f replays then s.setRing ring { r with pitch := p.faulted s.clk f replays } else s
  | _ => s

/-- A CONTAINED fault whose consumer belongs to a ring pair: its pitch, if one is open, stops. -/
def contain (s : State) (ring : Option Nat) (f : Raise) : State :=
  match ring with
  | some r => if inPitch s r then pitchFault s r f (replayable f.code f.detail) else s
  | none => s

/-- Whether a CONTAINED fault of a ring pair's work starts a replay, and whether it ends a pitch, launch or descriptor (R441). -/
def outcome (s : State) (ring : Nat) (f : Raise) : Bool × Bool :=
  let p := (s.ring ring).pitch
  if !inPitch s ring then (false, true)
  else if p.phase = .stopping then (false, p.replays && !replayable f.code f.detail)
  else if replayable f.code f.detail && decide (p.attempt < 3) then (true, false)
  else (false, true)

/-- The record of a CONTAINED fault of a ring pair's work, or of a unit that works for none. -/
def containedRaise (s : State) (ring : Option Nat) (f : Raise) : Raise :=
  match ring with
  | none => f
  | some r => withRing s ring { f with replay := (outcome s r f).1, ended := (outcome s r f).2 }

/-- A fault of a unit that works for a ring pair: its record, and, when it is CONTAINED, the stop of the pair's pitch (R436). -/
def memberFault (s : State) (ring : Option Nat) (f : Raise) : State :=
  if classOf f.code = 2 then contain (record s (containedRaise s ring f)) ring f else record s (withRing s ring f)

/-- A launch meets a fault of a tile: it keeps the first in the order of R437, by control cycle, then by tile. -/
def Launch.meets (l : Launch) (clk tile code : Nat) : Launch :=
  if l.fault = 0 ∨ (l.faultAt = clk ∧ tile < l.faultTile.toNat) then
    { l with fault := BitVec.ofNat 16 code, faultAt := clk, faultTile := BitVec.ofNat 16 tile }
  else l

/-- A CONTAINED fault of a tile: its record, the stop of the tile, the fault of its launch and of its pitch. `slot` is
0x7FF for an engine. -/
def tileRaise (s : State) (tile code detail slot pc word kind : Nat) (data : Bytes) : State :=
  let ring := tileRing s tile
  let f : Raise := { code := code, detail := detail, unit := unitTile tile, kind := kind, data := data }
  let s1 := stopTile (record s (containedRaise s ring f)) tile code slot pc word
  let s2 := match (s.tile tile).launch with
    | some id => modLaunch s1 id (fun l => l.meets s.clk tile code)
    | none => s1
  contain s2 ring f

/-- A fault of a tile's engine. -/
def engineRaise (s : State) (tile code detail kind : Nat) (data : Bytes) : State :=
  tileRaise s tile code detail 0x7FF 0 0 kind data

/-! ### Stopping a ring pair (R329) -/

/-- A stop of a ring pair with its cause. The record names the head after the layout of its data (DESIGN CHOICE, log entry 115). -/
def stopRing (s : State) (ring code detail : Nat) (kind : Nat := 6) (data : Bytes := zeros 32) : State :=
  let s1 := record s (withRing s (some ring) { code := code, detail := detail, unit := unitHost, kind := kind
                                               data := splice data 8 (leBytes 4 (s.ring ring).head.toNat), ended := true })
  let r := s1.ring ring
  s1.setRing ring (if r.phase = .active then { r with phase := .stopped } else r)

/-! ### The job epoch -/

/-- Mark every enabled port's card as changed (R226). -/
def cardsDue (s : State) : State :=
  { s with fab := { s.fab with ports := s.fab.ports.map fun p => (p.1, { p.2 with cardDue := true }) } }

/-- Empty the remote line cache: the metadata of every set becomes zero (R270; DESIGN CHOICE, log entry 122). -/
def emptyRlc (s : State) : State :=
  if s.fab.rlcSize = 0 then s
  else { s with hbm := { s.hbm with
    mem := s.hbm.mem.filter (fun c => (metaSet s (c.1 / 256)).isNone)
    marks := s.hbm.marks.filter (fun m => (metaSet s m.1).isNone) } }

/-- Extend a measurement register by a digest (R457). -/
def extendMr (s : State) (m : Nat) (d : Bytes) : State :=
  { s with sec := { s.sec with mr := s.sec.mr.set m (sm3 (s.sec.mr.getD m (zeros 32) ++ d)) } }

/-- A stage that is discarded takes the push lines it holds with it: the member's counts return to zero (R295). -/
def forgetPushes (s : State) (g : Stage) : State :=
  { s with red := { s.red with buckets := s.red.buckets.map fun b =>
      (b.1, { b.2 with pushed := b.2.pushed.filter (fun p => !g.pushes.any (fun q => q.1 == b.1 && q.2.1 == p.1)) }) } }

/-- What follows every change of the job epoch: streams start again (R237), the cache is emptied (R270), ACTIVE stages
of other parts are dropped (R347), decision records end (R349), cards go out (R226). -/
def epochChange (s : State) : State :=
  let lost (g : Stage) : Bool := g.src != 0xFFF && !g.prepared
  let s0 := (s.cmd.stages.filter lost).foldl forgetPushes s
  let s1 := { s0 with
    fab := { s0.fab with tx := [], rx := [] }
    cmd := { s0.cmd with
      rings := s0.cmd.rings.map (fun r => (r.1, { r.2 with sent := [] }))
      decisions := []
      stages := s0.cmd.stages.filter (fun g => !lost g) } }
  cardsDue (emptyRlc s1)

/-! ### The halt of the part -/

/-- Log each PREPARED stage of another part as in doubt, and drop every stage (R347). -/
def dropAllStages (s : State) : State :=
  let s1 := (s.cmd.stages.filter (·.prepared)).foldl (fun t g =>
    record t { code := 0x060C, unit := unitHost, pitch := g.pitch, ring := some g.ring, kind := 1, data := dataAddr 0 g.src }) s
  let s2 := s1.cmd.stages.foldl forgetPushes s1
  { s2 with cmd := { s2.cmd with stages := [] } }

/-- Every ring pair stops, and no launch starts on a further tile (R438 step 1). -/
def stopAllRings (s : State) : State :=
  { s with cmd := { s.cmd with
    rings := (List.range 32).map (fun r => (r, { s.ring r with phase := .stopped }))
    launches := s.cmd.launches.map (fun l => { l with stopped := true }) } }

/-- The halt under R438 with FAULT_N low (R439). The code of the first FATAL record is kept. -/
def halt (s : State) (code : Nat) : State :=
  let s1 := s.tiles.foldl (fun t x => quietStop t x.1) s
  let s2 := dropAllStages (stopAllRings s1)
  let s3 := { s2 with job := { s2.job with jepoch := 0, digest := 0 } }
  let s4 := epochChange s3
  { s4 with
    log := { s4.log with halted := true, fcode := if s4.log.fcode = 0 then BitVec.ofNat 16 code else s4.log.fcode }
    pins := { s4.pins with faultLow := true } }

/-- A FATAL fault: its record and the halt. -/
def fatal (s : State) (f : Raise) : State := halt (record s f) f.code

/-! ### Loss of the VIN12 domains -/

/-- The fabric as the configuration blob leaves it at reset: domain, partner and transmitter settings (R454). -/
def freshFabric (blob : Bytes) : Fabric :=
  if blob.isEmpty then {}
  else
    let port (n : Nat) : Port :=
      { pre1 := BitVec.ofNat 6 (field blob (32 + 3 * n) 1), mainCur := BitVec.ofNat 6 (field blob (33 + 3 * n) 1)
        post1 := BitVec.ofNat 6 (field blob (34 + 3 * n) 1) }
    { domain := BitVec.ofNat 32 (field blob 8 4), partner := BitVec.ofNat 32 (field blob 12 4)
      ports := (List.range 16).map (fun n => (n, port n)) }

/-- Bivouac at reset: the drives keep their contents, and the blob says whether a feed may be shared (R454). -/
def freshSnap (s : State) (blob : Bytes) : Snap := { drives := s.snap.drives, sharedFeed := bit (field blob 1 1) 0 }

/-- A host port whose domain is off: its reset pin stays as it is driven. -/
def freshHost (s : State) : HostSide :=
  { ports := [0, 1].map (fun p => (p, ({ perst := (s.hport p).perst, downAt := s.clk } : HostPort))) }

/-- Every VIN12 domain is off: all state outside the service die, the board flash and the drives is lost (R20, R438,
R486). -/
def domainsOff (s : State) : State :=
  { s with
    tiles := []
    reqs := []
    edges := []
    hbm := {}
    fab := freshFabric s.sec.blob
    red := {}
    job := {}
    cmd := {}
    snap := freshSnap s s.sec.blob
    host := freshHost s
    pwr := { s.pwr with domains := [], upDone := 0, lmap := [], used := [], throttles := [], shed := false, boost := false, boostPace := 0, holdWatts := 0 }
    log := { s.log with ringUp := false, copied := 0 }
    pins := { s.pins with dperst := 0, drefclk := 0 } }

end Sys2Proof.Machine
end

