-- ==== Sys2Proof/Machine/Memory.lean ====
section
/-! DEFINITION. The memories as the units that own them see them: the banks of a tile with their contexts and codes
(R140, R173 to R182), HBM granules with their side-band (R199 to R207), stages and redirects over committed memory
(R341 to R345), the checks every access meets (R497, R261 to R263) and the atomic operations (R150). -/

namespace Sys2Proof.Machine

/-! ### A tile's banks -/

/-- A thread of a slot. -/
def Tile.thread (t : Tile) (slot : Nat) : Thread := tget t.threads slot {}

/-- A general register; g0 reads as zero (R139). -/
def Thread.reg (th : Thread) (n : Nat) : W64 := if n = 0 then 0 else tget th.g n 0

/-- Write a general register; a write to g0 is discarded (R139). -/
def Thread.setReg (th : Thread) (n : Nat) (v : W64) : Thread := if n = 0 then th else { th with g := tset th.g n v }

/-- The number of a phase in byte 133 of a context (R140). -/
def phaseCode : ThreadPhase → Nat
  | .free => 0
  | .ready => 1
  | .waiting => 2
  | .exited => 3

/-- The 256 bytes of a slot's context area (R140). -/
def contextBytes (th : Thread) : Bytes :=
  (List.range 16).flatMap (fun n => leBytes 8 (th.reg n).toNat) ++ leBytes 4 th.pc.toNat ++
    leBytes 1 (th.p.toNat ||| 1) ++ leBytes 1 (phaseCode th.phase) ++ zeros 122

/-- One byte of a tile's SRAM: a context area shows the pipes' own state. -/
def tileByte (t : Tile) (off : Nat) : Byte :=
  if inContext off then (contextBytes (t.thread (off % 2 ^ 21 / 1024))).getD (off % 1024) 0 else memByte zeroByte t.mem off

/-- Bytes of a tile's SRAM. -/
def tileBytes (t : Tile) : (off n : Nat) → Bytes
  | _, 0 => []
  | off, n + 1 => tileByte t off :: tileBytes t (off + 1) n

/-- The number in `n` bytes of a tile's SRAM. -/
def tileNat (t : Tile) (off n : Nat) : Nat := leNat (tileBytes t off n)

/-- Granules of 16 bytes that a write of `n` bytes covers whole. -/
def fullGranules (off n : Nat) : List Nat :=
  (unitsOf 16 off n).filter (fun g => decide (off ≤ 16 * g) && decide (16 * g + 16 ≤ off + n))

/-- Store bytes in a tile's SRAM: a granule written whole gets fresh ECC (R180), and a pending write-back of a granule
that the write reaches is dropped. -/
def Tile.store (t : Tile) (off : Nat) (b : Bytes) : Tile :=
  { t with
    mem := memWrite zeroByte t.mem off b
    marks := (if t.marks.isEmpty then [] else t.marks.filter (fun m => !(fullGranules off b.length).contains m.1))
    writeback := t.writeback.filter (fun g => !(unitsOf 16 off b.length).contains g) }

/-- A bank's power state. -/
def Tile.bank (t : Tile) (b : Nat) : BankState := tget t.banks b {}

/-- Note an access to the banks of a run (R181). -/
def Tile.touch (t : Tile) (clk off n : Nat) : Tile :=
  { t with banks := (unitsOf (2 ^ 21) off n).foldl (fun bs b => tmod bs b {} (fun x => { x with access := clk })) t.banks }

/-- Every bank of a run accepts requests. -/
def Tile.banksOn (t : Tile) (off n : Nat) : Bool := (unitsOf (2 ^ 21) off n).all (fun b => (t.bank b).power == .on)

/-- A request wakes the banks of a run that are in retention (R181). -/
def Tile.wake (t : Tile) (clk off n : Nat) : Tile :=
  { t with banks := (unitsOf (2 ^ 21) off n).foldl (fun bs b => tmod bs b {} (fun x =>
      if x.power = .retention then { x with power := .waking, since := clk } else x)) t.banks }

/-- The marks of granules that a read of a run meets. -/
def Tile.marked (t : Tile) (off n : Nat) (m : EccMark) : List Nat :=
  (t.marks.filter (fun x => decide (off / 16 ≤ x.1) && decide (16 * x.1 < off + n) && x.2 == m)).map (·.1)

/-- What reading a run does to the tile and the log (R180): the first uncorrectable granule stops the tile, and each corrected
one is logged and queued for its write-back (the records in the order of R437). -/
def bankChecks (s : State) (tile off n : Nat) : State :=
  let t := s.tile tile
  if t.marks.isEmpty then s else
  let data (g : Nat) := dataBank tile (g / 2 ^ 17) (g * 16 % 2 ^ 21 / 128 * 128) (g % 8)
  let s1 := match t.marked off n .uncorrectable with
    | [] => s
    | g :: _ => engineRaise s tile 0x0201 1 5 (data g)
  (t.marked off n .correctable).foldl (fun u g =>
    record (u.setTile tile { u.tile tile with writeback := insertNat g (u.tile tile).writeback })
      (withRing u (tileRing u tile) { code := 0x0202, unit := unitTile tile, kind := 5, data := data g })) s1

/-- A run of a tile holds a granule whose ECC cannot be corrected. -/
def bankBad (t : Tile) (off n : Nat) : Bool := !(t.marked off n .uncorrectable).isEmpty

/-- The codes of accumulators, registers and counters that an access reads (R434): corrected marks are logged and
cleared, an uncorrectable one stops the tile with FLT_BANK_ECC and its detail. -/
def storeChecks (s : State) (tile : Nat) (hit : TileStore → Bool) : State :=
  let t := s.tile tile
  if t.storeMarks.isEmpty then s else
  let det : TileStore → Nat × Nat × Nat × Nat
    | .accumulator b e => (2, 6, e, b)
    | .register n e => (3, 7, n, e)
    | .counter n => (4, 8, n, 0)
    | .word n => (0, 0, n, 0)
  let hits := (t.storeMarks.filter (fun m => hit m.1 && m.2 == .uncorrectable)) ++ (t.storeMarks.filter (fun m => hit m.1 && m.2 == .correctable))
  let s1 := s.setTile tile { t with storeMarks := t.storeMarks.filter (fun m => !(hit m.1 && m.2 == .correctable)) }
  hits.foldl (fun u m =>
    let d := det m.1
    if m.2 = .correctable then record u { code := 0x0202, unit := unitTile tile, kind := 5, data := dataBank tile d.2.1 d.2.2.1 d.2.2.2 }
    else engineRaise u tile 0x0201 d.1 5 (dataBank tile d.2.1 d.2.2.1 d.2.2.2)) s1

/-! ### HBM: committed memory -/

/-- The piece (256 bytes of an HBM offset) that a committed redirect supplies: the stage committed later decides
(R345). -/
def redirectPiece (s : State) (n : Nat) : Option Bytes :=
  (s.cmd.redirects.reverse.findSome? (fun r => if r.granule = n / 256 then tget? r.pieces n else none))

/-- The redirect that supplies a piece has it marked bad. -/
def redirectBad (s : State) (n : Nat) : Bool :=
  ((s.cmd.redirects.reverse.find? (fun r => r.granule == n / 256 && (tget? r.pieces n).isSome)).map (fun r => r.bad.contains n)).getD false

/-- A piece of committed memory as it was last written. -/
def committedPiece (s : State) (n : Nat) : Bytes :=
  match redirectPiece s n with
  | some b => b
  | none => memRead zeroByte s.hbm.mem (granuleOf s (256 * n) * 256) 256

/-- Bytes of committed HBM as they were last written. -/
def committedBytes (s : State) (off len : Nat) : Bytes :=
  (piecesOf 256 off len).flatMap (fun p => ((committedPiece s (p.1 / 256)).drop (p.1 % 256)).take p.2)

/-- The side-band of a granule place. -/
def markOf (s : State) (g : Nat) : GranuleMark := tget s.hbm.marks g {}

/-- The state of the worst of two lines: a mismatch, then bad, then poison, then good. -/
def worse (a b : LineState) : LineState :=
  if a = .mismatch ∨ b = .mismatch then .mismatch
  else if a = .markedBad ∨ b = .markedBad then .markedBad
  else if a = .poison ∨ b = .poison then .poison else .good

/-- Log an uncorrectable decode of a granule place (R205 to R207, R211): once until it is written whole, else
counted. -/
def hbmUe (s : State) (off g : Nat) (remote : Bool) : State :=
  let pc := g / 2 ^ 23
  let fixed := s.hbm.repaired.contains (pc * 2 ^ 21 + bankOfPlace g * 2 ^ 15 + rowOfPlace g)
  let data := dataHbm (off / 2 ^ 16) pc (bankOfPlace g) (rowOfPlace g) fixed
  let s1 := { s with hbm := { s.hbm with ueSeen := insertNat (off / 2 ^ 16) s.hbm.ueSeen } }
  let s2 := if s.hbm.logged.contains g then { s1 with hbm := { s1.hbm with muecnt := satInc s1.hbm.muecnt } }
    else record { s1 with hbm := { s1.hbm with logged := g :: s1.hbm.logged } }
      { code := 0x0301, unit := unitStack (stackOfPlace g), kind := 4, data := data, remote := remote }
  if fixed then record s2 { code := 0x0302, detail := 1, unit := unitStack (stackOfPlace g), kind := 4, data := data } else s2

/-! ### Decoding a granule (R204, R205) -/

/-- What the Reed–Solomon decode of a granule finds. -/
inductive Decode where
  | clean | corrected | uncorrectable
  deriving DecidableEq, Repr

/-- The bits of a symbol that have flipped. -/
def flipOf (m : GranuleMark) (k : Nat) : W16 := m.flips.foldl (fun a f => if f.1 = k then a ^^^ f.2 else a) 0

/-- Symbols in error. -/
def wrongSymbols (m : GranuleMark) : Nat := ((List.range 138).filter (fun k => flipOf m k != 0)).length

/-- Up to two symbols are corrected, and up to six detected; whether more are detected is open (a free value; DESIGN CHOICE, log entry 110). -/
def decodeMark (s : State) (m : GranuleMark) : Decode × State :=
  let n := wrongSymbols m
  if n = 0 then (.clean, s) else if n ≤ 2 then (.corrected, s) else if n ≤ 6 then (.uncorrectable, s)
  else let d := s.draw; (if bit d.1.toNat 0 then .uncorrectable else .clean, d.2)

/-- The granule's bytes as the stack holds them; bytes of a held write are as written. -/
def rawBytes (m : GranuleMark) (held : BitVec 256) (b : Bytes) : Bytes :=
  b.zipIdx.map (fun x => if bit held.toNat x.2 then x.1 else x.1 ^^^ BitVec.ofNat 8 ((flipOf m (x.2 / 2)).toNat / 256 ^ (x.2 % 2)))

/-- The granule's `E2E` as the stack holds it. -/
def rawCheck (m : GranuleMark) (b : Bytes) : W32 := e2eOf b ^^^ ((flipOf m 129) ++ (flipOf m 128))

/-- The 32 bytes of side-band of a granule of these bytes: `E2E`, `ECC` from the code, which the spec does not give whole (a
free constant; DESIGN CHOICE, log entry 110), `SBF`, zeros. -/
def sideBand (m : GranuleMark) (b : Bytes) : Bytes :=
  leBytes 4 (rawCheck m b).toNat ++
    (leBytes 16 (Config.granuleEcc (b ++ leBytes 4 (e2eOf b).toNat)).toNat).zipIdx.map (fun x =>
      x.1 ^^^ BitVec.ofNat 8 ((flipOf m (130 + x.2 / 2)).toNat / 256 ^ (x.2 % 2))) ++ leBytes 1 (b2n m.chkBad) ++ zeros 11

/-- What one read of a granule brings: its offset and place, the decode, and whether its check failed though the decode was
clean. -/
structure Decoded where
  off  : Nat
  g    : Nat
  what : Decode
  bad  : Bool := false
  deriving DecidableEq, Repr

/-- Read the granule at a place: its bytes, their state, and what the read finds. -/
def readPlace (s : State) (off g : Nat) : Bytes × LineState × Decoded × State :=
  let m := markOf s g
  let b := memRead zeroByte s.hbm.mem (g * 256) 256
  if m.flips.isEmpty then (b, if m.chkBad then .markedBad else .good, ⟨off, g, .clean, false⟩, s)
  else
    let raw := rawBytes m ((tget? s.hbm.held g).map (·.mask) |>.getD 0) b
    match decodeMark s m with
    | (.corrected, u) => (b, if m.chkBad then .markedBad else .good, ⟨off, g, .corrected, false⟩, u)
    | (.uncorrectable, u) => (raw, .markedBad, ⟨off, g, .uncorrectable, false⟩, u)
    | (.clean, u) =>
      let bad := !m.chkBad && rawCheck m b != e2eOf raw
      (raw, if m.chkBad || bad then .markedBad else .good, ⟨off, g, .clean, bad⟩, u)

/-- Read the granule that holds a byte of HBM. -/
def readGranule (s : State) (off : Nat) : Bytes × LineState × Decoded × State := readPlace s off (granuleOf s off)

/-- The controller of a stack that splits a granule whose stored check fails marks the lines bad and logs it against itself
(R430). -/
def checkFailed (s : State) (off g : Nat) : State :=
  record s { code := 0x0205, detail := 3, unit := unitCompute (g / 2 ^ 23 / 64), kind := 1, data := dataAddr (mkAddr 0xFFF 0 off) }

/-- A corrected granule: counted, logged, and to be written back (R205). -/
def hbmCe (s : State) (off g : Nat) : State :=
  let k := stackOfPlace g
  record ({ s with hbm := { s.hbm with writeback := insertNat g s.hbm.writeback } }.setStack k { s.stack k with ce := satInc (s.stack k).ce })
    { code := 0x0304, unit := unitStack k, kind := 4, data := dataHbm (off / 2 ^ 16) (g / 2 ^ 23) (bankOfPlace g) (rowOfPlace g) false }

/-- What the reads of an access raise, in the order of the records of one control cycle: by class, then by unit (R437). -/
def decodeEffects (s : State) (remote : Bool) (ds : List Decoded) : State :=
  let s1 := (ds.filter (·.bad)).foldl (fun u d => checkFailed u d.off d.g) s
  let s2 := (ds.filter (fun d => d.what == .uncorrectable)).foldl (fun u d => hbmUe u d.off d.g remote) s1
  (ds.filter (fun d => d.what == .corrected)).foldl (fun u d => hbmCe u d.off d.g) s2

/-- Note an access to the stack of an offset (R403). -/
def touchStack (s : State) (off : Nat) : State :=
  let k := stackOfPlace (granuleOf s off)
  s.setStack k { s.stack k with access := s.clk }

/-- What the pieces of a read have brought so far. -/
structure HbmReading where
  bytes : Bytes := []
  state : LineState := .good
  found : List Decoded := []
  st    : State

/-- Read one piece of committed HBM: a piece under a redirect comes from the block. -/
def readPiece (r : HbmReading) (p : Nat × Nat) : HbmReading :=
  let u := touchStack r.st p.1
  let cut (b : Bytes) : Bytes := (b.drop (p.1 % 256)).take p.2
  match redirectPiece u (p.1 / 256) with
  | some b =>
    { r with bytes := r.bytes ++ cut b, state := worse r.state (if redirectBad u (p.1 / 256) then .markedBad else .good), st := u }
  | none =>
    let d := readGranule u (p.1 / 256 * 256)
    { bytes := r.bytes ++ cut d.1, state := worse r.state d.2.1
      found := if d.2.2.1.what = .clean ∧ d.2.2.1.bad = false then r.found else r.found ++ [d.2.2.1], st := d.2.2.2 }

/-- Read committed HBM: the bytes, what their checks show, and the state after the decodes. -/
def hbmRead (s : State) (off len : Nat) (remote : Bool) : Bytes × LineState × State :=
  let r := (piecesOf 256 off len).foldl readPiece { st := s }
  (r.bytes, r.state, decodeEffects r.st remote r.found)

/-- List a number, or unlist it. -/
def putBad (l : List Nat) (n : Nat) (bad : Bool) : List Nat := if bad then insertNat n l else l.filter (· != n)

/-- Write one piece of committed HBM: into the block that supplies it, else into the granule. Data marked bad marks what it
becomes part of (R430). -/
def hbmWritePiece (s : State) (off : Nat) (b : Bytes) (bad : Bool) : State :=
  let n := off / 256
  match redirectPiece s n with
  | some old =>
    let new := splice old (off % 256) b
    let stays := bad || (redirectBad s n && b.length != 256)
    let last := (s.cmd.redirects.zipIdx.filter (fun r => r.1.granule == n / 256 && (tget? r.1.pieces n).isSome)).getLast?
    match last with
    | some (_, i) =>
      let put (r : Redirect) : Redirect := { r with pieces := tset r.pieces n new, bad := putBad r.bad n stays }
      { s with cmd := { s.cmd with redirects := s.cmd.redirects.modify i put } }
    | none => s
  | none => granuleWrite s (granuleOf s off) (off % 256) b bad

/-- Write committed HBM. -/
def hbmWrite (s : State) (off : Nat) (b : Bytes) (bad : Bool := false) : State :=
  (piecesOf 256 off b.length).foldl (fun u p => hbmWritePiece (touchStack u p.1) p.1 ((b.drop (p.1 - off)).take p.2) bad) s

/-! ### Stages (R342 to R345) -/

/-- The key of a stage: source (0xFFF for this part), ring pair, pitch. -/
abbrev StageKey := Nat × Nat × W16

/-- The stage of a key. -/
def stageOf (s : State) (k : StageKey) : Option Stage :=
  s.cmd.stages.find? (fun g => g.src == k.1 && g.ring == k.2.1 && g.pitch == k.2.2)

/-- The key of the stage that a ring pair's members write. -/
def localKey (s : State) (ring : Nat) : StageKey := (0xFFF, ring, (s.ring ring).pitch.id)

/-- The number of the piece that holds a byte: HBM pieces count from 0, tile SRAM from 2^40. -/
def pieceOf (space off : Nat) : Nat := if space = 1 then 2 ^ 40 + off / 256 else off / 256

/-- The 64 KiB blocks of a stage. -/
def Stage.blocks (g : Stage) : List Nat := g.pieces.foldl (fun l p => insertNat (p.1 / 256) l) []

/-- Blocks of the pool in use (R343, R345). -/
def blocksUsed (s : State) : Nat := (s.cmd.stages.map (fun g => g.blocks.length)).sum + s.cmd.redirects.length

/-- Blocks that one source's stages and uncopied commits take. -/
def blocksOfSource (s : State) (src : Nat) : Nat :=
  ((s.cmd.stages.filter (·.src == src)).map (fun g => g.blocks.length)).sum +
    (s.cmd.redirects.filter (·.src == src)).length

/-- Blocks of the pool: what is left of it after the belay logs, less the logical granules that are retired or have
raised FLT_HBM_UE (R207, R343). -/
def poolBlocks (s : State) : Nat :=
  let lo := s.cmd.poolFirst.toNat * 2 ^ 14 + 128
  let hi := (s.cmd.poolFirst.toNat + s.cmd.poolCount.toNat) * 2 ^ 14
  let bad := (s.hbm.ueSeen ++ (s.hbm.retired.filter (·.2.2)).map (fun e => e.2.1.toNat)).eraseDups
  (hi - lo) - (bad.filter (fun g => decide (lo ≤ g) && decide (g < hi))).length

/-- Blocks a write would add to a stage. -/
def newBlocks (s : State) (k : StageKey) (space off len : Nat) : Nat :=
  let have_ := match stageOf s k with | some g => g.blocks | none => []
  ((((unitsOf 256 off len).map (fun u => pieceOf space (u * 256) / 256)).eraseDups).filter (fun b => !have_.contains b)).length

/-- A write finds the blocks it needs (R344). -/
def stageFits (s : State) (k : StageKey) (space off len : Nat) : Bool :=
  let n := newBlocks s k space off len
  n == 0 || (decide (blocksUsed s + n ≤ poolBlocks s) && (k.1 == 0xFFF || decide (blocksOfSource s k.1 + n ≤ 4096)))

/-- The bytes that a stage holds for a piece. -/
def stagedBytes (s : State) (k : StageKey) (n : Nat) : Option Bytes := (stageOf s k).bind (fun g => tget? g.pieces n)

/-- Change a stage, creating it when it does not exist. -/
def modStage (s : State) (k : StageKey) (f : Stage → Stage) : State :=
  let base : Stage := { src := k.1, ring := k.2.1, pitch := k.2.2 }
  match stageOf s k with
  | some _ => { s with cmd := { s.cmd with stages := s.cmd.stages.map fun g =>
      if g.src == k.1 && g.ring == k.2.1 && g.pitch == k.2.2 then f g else g } }
  | none => { s with cmd := { s.cmd with stages := s.cmd.stages ++ [f base] } }

/-- Drop a stage. -/
def dropStage (s : State) (k : StageKey) : State :=
  { s with cmd := { s.cmd with stages := s.cmd.stages.filter (fun g => !(g.src == k.1 && g.ring == k.2.1 && g.pitch == k.2.2)) } }

/-- A staged piece is marked bad (R430). -/
def stagedBad (s : State) (k : StageKey) (n : Nat) : Bool := ((stageOf s k).map (fun g => g.bad.contains n)).getD false

/-- Read a run of a tile's SRAM: its bytes, their state, and what the read does (R180). -/
def tileRead (s : State) (tile off len : Nat) : Bytes × LineState × State :=
  let t := s.tile tile
  (tileBytes t off len, if bankBad t off len then .markedBad else .good, bankChecks (s.setTile tile (t.touch s.clk off len)) tile off len)

/-- Read this part's committed HBM or a tile's SRAM. -/
def baseRead (s : State) (space off len : Nat) (remote : Bool) : Bytes × LineState × State :=
  if space = 1 then tileRead s (off / 2 ^ 24) (off % 2 ^ 24) len else hbmRead s off len remote

/-- Read the committed piece of a piece number, as a copy beneath a staged write reads it. -/
def underPiece (s : State) (n : Nat) : Bytes × LineState × State :=
  if n < 2 ^ 40 then baseRead s 0 (n * 256) 256 false else baseRead s 1 ((n - 2 ^ 40) * 256) 256 false

/-- Stage one piece of a write: its first write copies the committed piece beneath it unless it covers the whole piece (R342);
a bad input marks the staged piece bad (R430). -/
def stagePiece (s : State) (k : StageKey) (n at_ : Nat) (b : Bytes) (bad : Bool) : State :=
  match stagedBytes s k n with
  | some old =>
    let stays := bad || (stagedBad s k n && b.length != 256)
    modStage s k (fun g => { g with pieces := tset g.pieces n (splice old at_ b), bad := putBad g.bad n stays })
  | none =>
    if b.length = 256 then modStage s k (fun g => { g with pieces := tset g.pieces n b, bad := putBad g.bad n bad })
    else
      let m := underPiece s n
      modStage m.2.2 k (fun g => { g with pieces := tset g.pieces n (splice m.1 at_ b), bad := putBad g.bad n (bad || m.2.1 != .good) })

/-- Stage a write. -/
def stageWrite (s : State) (k : StageKey) (space off : Nat) (b : Bytes) (bad : Bool := false) : State :=
  (piecesOf 256 off b.length).foldl (fun u p =>
    stagePiece u k (pieceOf space p.1) (p.1 % 256) ((b.drop (p.1 - off)).take p.2) bad) s

/-- The tile runs that the pieces of a stage lie in. -/
def stageTiles (s : State) (k : StageKey) : List (Nat × Nat) :=
  match stageOf s k with
  | none => []
  | some g => (g.pieces.filter (fun p => decide (2 ^ 40 ≤ p.1))).map (fun p =>
      ((p.1 - 2 ^ 40) * 256 / 2 ^ 24, (p.1 - 2 ^ 40) * 256 % 2 ^ 24))

/-- Wake the banks that a commit writes (R181). -/
def wakeStage (s : State) (k : StageKey) : State :=
  (stageTiles s k).foldl (fun u p => u.setTile p.1 ((u.tile p.1).wake u.clk p.2 256)) s

/-- Write one committed piece into a tile, through its network port: one whose check is marked bad does not land, and raises
FLT_E2E there (R432). -/
def landPiece (s : State) (off : Nat) (b : Bytes) (bad : Bool) : State :=
  let t := off / 2 ^ 24
  if bad then engineRaise s t 0x0205 2 1 (dataAddr (mkAddr 0xFFF 1 off))
  else s.setTile t (((s.tile t).touch s.clk (off % 2 ^ 24) 256).store (off % 2 ^ 24) b)

/-- Commit a stage in one step (R345): HBM blocks become redirects; pieces of tile SRAM are written where they lie, in banks that
wake for it, and their blocks stay in use until copied home (DEDUCED, log entry 18). -/
def commitStage (s0 : State) (k : StageKey) : State :=
  match stageOf s0 k with
  | none => s0
  | some g =>
    let s := wakeStage s0 k
    let reds := g.blocks.map fun b => ({ granule := b, src := g.src, pieces := g.pieces.filter (fun p => p.1 / 256 == b), bad := g.bad.filter (fun n => n / 256 == b) } : Redirect)
    let s1 := dropStage { s with cmd := { s.cmd with redirects := s.cmd.redirects ++ reds } } k
    (g.pieces.filter (fun p => decide (2 ^ 40 ≤ p.1))).foldl (fun u p => landPiece u ((p.1 - 2 ^ 40) * 256) p.2 (g.bad.contains p.1)) s1

/-! ### The checks of an access -/

/-- What an access does. -/
inductive Acc where
  | read | write | atomic | cread
  deriving DecidableEq, Repr

/-- The access changes memory. -/
def Acc.writes : Acc → Bool
  | .write => true
  | .atomic => true
  | _ => false

/-- `Ld`: bytes of the data part of a set's image (R363). -/
def setLd (k : SnapSet) : Nat := (k.extents.map (·.2)).sum * 65536
/-- `Lc`: bytes of the capture part. -/
def setLc (k : SnapSet) : Nat := 1024 + k.nstrm * 9437184
/-- Stripes of an image. -/
def setStripes (k : SnapSet) : Nat := (setLd k + setLc k + 2 ^ 20 - 1) / 2 ^ 20
/-- Offset of the hash list in a capture area (R377). -/
def capHash (k : SnapSet) : Nat := (4096 + setLc k + 4095) / 4096 * 4096
/-- Bytes of a capture area (R364). -/
def capBytes (k : SnapSet) : Nat := capHash k + 32 * setStripes k
/-- First byte of extent e of buffer b. -/
def extentAt (k : SnapSet) (b : Bool) (e : Nat × Nat) : Nat := (e.1 + b2n b * k.bdelta.toNat) * 65536
/-- Capture area of buffer b, as an HBM offset. -/
def capAt (k : SnapSet) (b : Bool) : Nat := addrOff (if b then k.cap1 else k.cap0)

/-- Two runs share a byte. -/
def overlaps (a n b m : Nat) : Bool := decide (a < b + m) && decide (b < a + n)

/-- The run touches a frozen buffer or its capture area (R369). -/
def frozenRun (s : State) (off len : Nat) : Bool :=
  s.snap.sets.any (fun x =>
    let k := x.2
    (k.phase == .freezing || k.phase == .draining) &&
      (k.extents.any (fun e => overlaps off len (extentAt k k.frozen e) (e.2 * 65536)) ||
        overlaps off len (capAt k k.frozen) (capBytes k)))

/-- The requester owns the region: its number equals `OWNER`, or it is this part and `OWNER` is 0xFFF (R261). -/
def isOwner (s : State) (who : Issuer) (owner : Nat) : Bool :=
  match who with
  | .remote src => src == owner
  | _ => owner == 0xFFF || (s.fab.devValid && owner == ownDev s)

/-- The issuer's accesses to its own tile's SRAM, and the command processor, the reduction engine, Bivouac and BAR2,
pass the ownership table (R261). -/
def ownExempt (who : Issuer) (space off : Nat) : Bool :=
  match who with
  | .ring _ => true
  | .engine => true
  | .thread t _ => space == 1 && off / 2 ^ 24 == t
  | .copy t _ => space == 1 && off / 2 ^ 24 == t
  | .remote _ => false
  | .agent => false

/-- The table of R262 allows the access; `some false` is a CREAD answered busy. -/
def ownAllows (e : W16) (owner : Bool) (acc : Acc) : Option Bool :=
  match ownState e, ownOpen e, owner, acc with
  | 0, _, true, .cread => none
  | 0, _, true, _ => some true
  | 0, _, false, _ => none
  | 1, false, _, .read => some true
  | 1, false, _, .cread => some true
  | 1, false, _, _ => none
  | 1, true, _, .cread => some false
  | 1, true, true, _ => some true
  | 1, true, false, .read => some true
  | 1, true, false, _ => none
  | 2, _, _, .cread => none
  | 2, _, _, _ => some true
  | _, _, _, _ => none

/-- A recall of the region is under way here: its CREADs are answered busy (R268 step 2). -/
def recalling (s : State) (i : Nat) : Bool := s.fab.recalls.any (·.region == i)

/-- Whether the ownership table refuses the access (R262). -/
def ownRefuses (s : State) (who : Issuer) (acc : Acc) (space off len : Nat) : Bool :=
  !ownExempt who space off &&
    (unitsOf (2 ^ 21) off len).any (fun u =>
      let e := ownEntry s (ownIndex space (u * 2 ^ 21))
      (ownAllows e (isOwner s who (ownOwner e)) acc).isNone)

/-- The first check of R497 (from the second on) that refuses an access to this part's memory; 0 when it passes. `key`
is the stage that takes its writes. For tile SRAM: a write to a context area (R140), then the ownership table. -/
def refusal (s : State) (who : Issuer) (acc : Acc) (key : Option StageKey) (space off len : Nat) : Nat :=
  if space = 1 then
    if acc.writes && touchesContext (off % 2 ^ 24) len then 0x0105
    else if ownRefuses s who acc space off len then 0x0404
    else match key with
      | some k => if acc.writes && !stageFits s k space off len then 0x0604 else 0
      | none => 0
  else
    if retiredRun s off len then 0x0303
    else if offRun s off len then 0x0309
    else if inPool s off len || (acc.writes && inLog s off len) || inWork s off len || inRlc s off len then 0x0404
    else if ownRefuses s who acc space off len then 0x0404
    else if acc.writes && frozenRun s off len then 0x0705
    else match key with
      | some k => if acc.writes && !stageFits s k space off len then 0x0604 else 0
      | none => 0

/-! ### Performing an access at its unit -/

/-- Runs of set bits of a byte mask: (first byte, count). -/
def maskRuns : Nat → Nat → Nat → List (Nat × Nat)
  | 0, _, _ => []
  | n + 1, i, mask =>
    let rest := maskRuns n (i + 1) (mask / 2)
    if mask % 2 = 0 then rest
    else match rest with
      | (a, c) :: r => if a = i + 1 then (i, c + 1) :: r else (i, 1) :: (a, c) :: r
      | [] => [(i, 1)]

/-- Read this part's HBM or tile SRAM as a key's members see it: staged pieces from the stage, all others committed
(R342). -/
def memRead' (s : State) (key : Option StageKey) (space off len : Nat) (remote : Bool) : Bytes × LineState × State :=
  match key with
  | none => baseRead s space off len remote
  | some k =>
    (piecesOf 256 off len).foldl (fun r p =>
      let n := pieceOf space p.1
      match stagedBytes r.2.2 k n with
      | some b => (r.1 ++ (b.drop (p.1 % 256)).take p.2, worse r.2.1 (if stagedBad r.2.2 k n then .markedBad else .good), r.2.2)
      | none =>
        let m := baseRead r.2.2 space p.1 p.2 remote
        (r.1 ++ m.1, worse r.2.1 m.2.1, m.2.2)) ([], .good, s)

/-- Write this part's HBM or tile SRAM, into the key's stage when there is one. -/
def memWrite' (s : State) (key : Option StageKey) (space off : Nat) (b : Bytes) (bad : Bool := false) : State :=
  match key with
  | some k => stageWrite s k space off b bad
  | none =>
    if space = 1 then
      let t := s.tile (off / 2 ^ 24)
      s.setTile (off / 2 ^ 24) ((t.touch s.clk (off % 2 ^ 24) b.length).store (off % 2 ^ 24) b)
    else hbmWrite s off b bad

/-- The new word of an atomic (R150); `none` for a reserved operation. -/
def atomicNew (op : Nat) (old operand compare : W64) : Option W64 :=
  match op with
  | 0 => some (old + operand)
  | 1 => some operand
  | 2 => some (if old = compare then operand else old)
  | 3 => some (if old.toInt ≤ operand.toInt then old else operand)
  | 4 => some (if old.toInt ≤ operand.toInt then operand else old)
  | _ => none

/-- A granule place takes an access now: its stack is trained, not stopped and awake, and its pseudo-channel is not blocked for
a repair (R203, R210, R403). -/
def placeReady (s : State) (g : Nat) : Bool :=
  let k := s.stack (stackOfPlace g)
  k.trained && !k.stop && !k.selfRef && !k.waking && (match s.hbm.repair with | some r => r.pc != g / 2 ^ 23 | none => true)

/-- The access may reach the unit now: the banks accept requests, or no region commit is under way and the places take
traffic (R181, R197, R203, R210, R403). -/
def unitReady (s : State) (space off len : Nat) : Bool :=
  if space = 1 then (s.tile (off / 2 ^ 24)).banksOn (off % 2 ^ 24) len
  else s.hbm.commit.isNone && (unitsOf 256 off len).all (fun u => placeReady s (granuleOf s (u * 256)))

/-- A request to a unit that sleeps wakes it (R181, R403). -/
def wakeUnit (s : State) (space off len : Nat) : State :=
  if space = 1 then s.setTile (off / 2 ^ 24) ((s.tile (off / 2 ^ 24)).wake s.clk (off % 2 ^ 24) len)
  else (unitsOf 256 off len).foldl (fun u g =>
    let k := stackOfPlace (granuleOf u (g * 256))
    let x := u.stack k
    if x.selfRef && !x.waking then u.setStack k { x with waking := true, wakeAt := u.clk } else u) s

/-- The memory units of every run take traffic now. -/
def runsReady (s : State) (runs : List (Nat × Nat)) : Bool := runs.all (fun r => unitReady s 0 r.1 r.2)

/-- Wake the units of every run. -/
def wakeRuns (s : State) (runs : List (Nat × Nat)) : State := runs.foldl (fun u r => wakeUnit u 0 r.1 r.2) s

/-- Go on once the units of every run take traffic; else wake them (R203, R210, R403). -/
def onReady (s : State) (runs : List (Nat × Nat)) (t : State) : State := if runsReady s runs then t else wakeRuns s runs

/-- What refuses an access of Bivouac, which its own work region and the frozen buffers do not stop (R497); 0 when it passes. -/
def bivouacCode (s : State) (acc : Acc) (off len : Nat) : Nat :=
  if retiredRun s off len then 0x0303
  else if offRun s off len then 0x0309
  else if inPool s off len || (acc.writes && inLog s off len) || inRlc s off len then 0x0404
  else 0

/-- The first run that refuses Bivouac: its offset and code. -/
def runsRefusal (s : State) (acc : Acc) (runs : List (Nat × Nat)) : Option (Nat × Nat) :=
  runs.findSome? (fun r => if bivouacCode s acc r.1 r.2 = 0 then none else some (r.1, bivouacCode s acc r.1 r.2))

/-- A refusal of the command processor's or Bivouac's own access, outside every pitch. -/
def noteRefused (s : State) (off code : Nat) : State :=
  record s { code := code, unit := unitHost, kind := 1, data := dataAddr (mkAddr 0xFFF 0 off) }

/-- A write of Bivouac to committed memory, outside every stage. -/
def bivouacWrite (s : State) (off : Nat) (b : Bytes) (bad : Bool := false) : State :=
  if bivouacCode s .write off b.length = 0 then hbmWrite s off b bad else noteRefused s off (bivouacCode s .write off b.length)

end Sys2Proof.Machine
end

