-- ==== Sys2Proof/Machine/Requests.lean ====
section
/-! DEFINITION. Requests that leave a tile or the command processor: those to this part's memory and host memory
(R148, R183 to R185), those that become packets (R244, R271), the lookup of the remote line cache (R265, R266), and
how a refusal or a fault is raised at whoever issued a request (R263, R436). -/

namespace Sys2Proof.Machine

/-! ### Requests on the networks of the part -/

/-- Enter a request; it takes the next number. -/
def newReq (s : State) (who : Issuer) (act : MemAct) (addr : W64) (len : Nat) (view launch : Option Nat) : State :=
  { s with
    reqs := s.reqs ++ [{ id := s.nextReq, issuer := who, act := act, addr := addr, len := len, view := view, launch := launch }]
    nextReq := s.nextReq + 1 }

/-- A request by its number. -/
def reqOf (s : State) (id : Nat) : Option MemReq := s.reqs.find? (fun r => r.id == id)

/-- Take a request away, and out of its tile's load/store path. -/
def dropReq (s : State) (id : Nat) : State :=
  let s1 := { s with reqs := s.reqs.filter (fun r => r.id != id) }
  match reqOf s id with
  | some r =>
    match r.issuer with
    | .thread t _ => s1.setTile t { s1.tile t with lsu := (s1.tile t).lsu.filter (· != id) }
    | _ => s1
  | none => s1

/-- Keep a request's reply. -/
def setReqReply (s : State) (id : Nat) (r : Reply) : State :=
  { s with reqs := s.reqs.map fun q => if q.id == id then { q with reply := r } else q }

/-- The destination a thread's accesses are ordered by: this part, a host port, or another part (R148). -/
def destOf (s : State) (a : W64) : Nat :=
  if addrSpace a = 3 then 4096 else if addrSpace a = 4 then 4097 else if isOwn s a then 4098 else addrDev a

/-- Tile of an issuer. -/
def issuerTile : Issuer → Option Nat
  | .thread t _ => some t
  | .copy t _ => some t
  | _ => none

/-- The endpoint of the networks of the part that a message goes to: a tile, a pseudo-channel, the host die, or the fabric
agent of the sender's die (R185, R186). -/
def endpointOf (s : State) (a : W64) : Nat :=
  if addrSpace a = 3 ∨ addrSpace a = 4 then 2 ^ 20
  else if isOwn s a then (if addrSpace a = 1 then addrTile a else 2 ^ 12 + (placeOf s (addrOff a)).1)
  else 2 ^ 20 + 1

/-- The request is the oldest of its issuer to its destination (R148), and of its tile to its endpoint (R185). -/
def firstInOrder (s : State) (r : MemReq) : Bool :=
  s.reqs.all (fun q => !(decide (q.id < r.id) && q.reply == .none && !q.away &&
    ((q.issuer == r.issuer && destOf s q.addr == destOf s r.addr) ||
      (issuerTile q.issuer == issuerTile r.issuer && endpointOf s q.addr == endpointOf s r.addr))))

/-- The action reads without changing anything. -/
def MemAct.isRead : MemAct → Bool
  | .read => true
  | _ => false

/-- The action is a posted store. -/
def MemAct.isWrite : MemAct → Bool
  | .write _ => true
  | _ => false

/-- The tag of a posted request: it tells a later STATUS who issued it (R263; DEDUCED, log entry 30). -/
def postedTag (who : Issuer) : BitVec 24 :=
  BitVec.ofNat 24 (2 ^ 23 + match who with
    | .thread t _ => t
    | .copy t _ => 2 ^ 11 + t
    | .ring r => 2 ^ 16 + r
    | .remote _ => 2 ^ 17
    | .engine => 2 ^ 17
    | .agent => 2 ^ 17)

/-- Posted requests to other parts that are not acknowledged yet and pass a test. -/
def posted (s : State) (test : Packet → Bool) : Nat :=
  (s.fab.tx.map (fun x => if x.cls = 0 then (x.unacked.filter (fun e => test e.packet)).length else 0)).sum

/-- Two addresses name one aligned line of one destination, by whichever number of the part (R26). -/
def sameLine (s : State) (a b : W64) : Bool :=
  destOf s a == destOf s b && a.toNat % 2 ^ 52 / 128 == b.toNat % 2 ^ 52 / 128

/-- A load waits while its tile holds an earlier posted store to the same 128-byte line: one on its way, or one to another
part that is not acknowledged (R148). -/
def lineFree (s : State) (r : MemReq) : Bool :=
  s.reqs.all (fun q => !(decide (q.id < r.id) && q.act.isWrite && issuerTile q.issuer == issuerTile r.issuer && sameLine s q.addr r.addr)) &&
    (match issuerTile r.issuer with
     | some t => posted s (fun k => k.tag == postedTag (.thread t 0) && k.dst.toNat == addrDev r.addr &&
         k.addr.toNat / 128 == r.addr.toNat % 2 ^ 52 / 128) == 0
     | none => true)

/-! ### Packets of a member of a pitch (R271) -/

/-- `PITCH`, `RING` and `INPITCH` of a request sent for a ring pair's launches. -/
def memberFields (s : State) (ring : Option Nat) (staged : Bool) (k : Packet) : Packet :=
  match ring with
  | none => k
  | some r =>
    let p := inPitch s r
    { k with ring := BitVec.ofNat 5 r, pitch := if p then (s.ring r).pitch.id else 0, inPitch := p && staged }

/-- Note that an attempt sent requests to a part: it is a participant (R346) when the request can change memory, and
its stream is one that the belay waits for (R348 step 2). -/
def noteMember (s : State) (ring : Option Nat) (dst : Nat) (changes : Bool) : State :=
  match ring with
  | none => s
  | some r =>
    let x := s.ring r
    let c := coverOf s dst 0
    let x1 := { x with sent := addCover c x.sent }
    s.setRing r (if inPitch s r then
      { x1 with pitch := { x1.pitch with
        participants := if changes then insertNat dst x1.pitch.participants else x1.pitch.participants
        sent := addCover c x1.pitch.sent } }
    else x1)

/-- The 52-bit address of a packet. -/
def packetAddr (a : W64) : BitVec 52 := BitVec.ofNat 52 a.toNat

/-- A request packet of a type. -/
def requestPacket (typ : Byte) (addr : W64) (payload : Bytes) : Packet :=
  { typ := typ, cls := 0, src := 0, dst := 0, addr := packetAddr addr, payload := payload }

/-- Send a line write, whole or masked, to another part (R244, R245). -/
def sendWrite (s : State) (who : Issuer) (ring : Option Nat) (line : W64) (mask : Nat) (data : Bytes) (st : LineState := .good) : State :=
  let dst := addrDev line
  let full := decide (mask = 2 ^ 128 - 1)
  let k0 := requestPacket (if full then tWRITE else tWRITEM) line (if full then data else leBytes 16 mask ++ data)
  let k := memberFields s ring true { k0 with e2e := checkFor data st, tag := postedTag who }
  noteMember (sendStream s dst 0 k) ring dst true

/-- Send an atomic to another part (R247). -/
def sendAtomic (s : State) (ring : Option Nat) (u : TagUse) (addr : W64) (op : Nat) (operand compare : W64) : State :=
  let dst := addrDev addr
  let k := memberFields s ring true { requestPacket tATOMIC addr (leBytes 8 operand.toNat ++ leBytes 8 compare.toNat) with
    aux := BitVec.ofNat 8 op }
  noteMember (openRequest s dst u k) ring dst true

/-- Send a counter add to a tile of another part (R248). -/
def sendSignal (s : State) (ring : Option Nat) (addr : W64) (ctr count : Nat) : State :=
  let s1 := sendStream s (addrDev addr) 0 (memberFields s ring false (signalPacketOf addr.toNat ctr count 0))
  match ring with
  | none => s1
  | some r => s1.setRing r { s1.ring r with sent := addCover (coverOf s1 (addrDev addr) 0) (s1.ring r).sent }

/-! ### The remote line cache (R265, R266) -/

/-- Sets of the cache. -/
def rlcSets (s : State) : Nat := rlcBytes s / 4096

/-- The set a line of a device maps to. -/
def rlcSet (s : State) (line dev : Nat) : Nat := (line ^^^ (line / 2 ^ 18) ^^^ dev) % max (rlcSets s) 1

/-- The first byte of a set. -/
def rlcBase (s : State) (k : Nat) : Nat := s.fab.rlcRegion.toNat * 2 ^ 30 + k * 4096

/-- A set whose place HBM refuses holds nothing (DESIGN CHOICE, log entry 122). -/
def rlcUsable (s : State) (k : Nat) : Bool := !offRun s (rlcBase s k) 4096 && !retiredRun s (rlcBase s k) 4096

/-- A metadata entry is valid. -/
def wayValid (e : Nat) : Bool := bit e 53
/-- The line check of an entry. -/
def wayCheck (e : Nat) : W32 := BitVec.ofNat 32 (bits e 95 64)
/-- The recency of an entry: its rank in the set, 27 the latest used (DESIGN CHOICE, log entry 122). -/
def wayAge (e : Nat) : Nat := bits e 127 96
/-- An entry holds the line of the device. -/
def wayHolds (line dev e : Nat) : Bool := wayValid e && bits e 40 0 == line && bits e 52 41 == dev
/-- The entry of a line. -/
def mkWay (line dev : Nat) (check : W32) : Nat := line % 2 ^ 41 + dev % 2 ^ 12 * 2 ^ 41 + 2 ^ 53 + check.toNat * 2 ^ 64

/-- The 28 metadata entries of a set, and the state after the reads; a set whose metadata cannot be read holds nothing. -/
def rlcWays (s : State) (k : Nat) : List Nat × State :=
  let m := hbmRead s (rlcBase s k + 3584) 512 false
  (if m.2.1 = .good then (List.range 28).map (fun w => field m.1 (16 * w) 16) else List.replicate 28 0, m.2.2)

/-- Write the metadata of a set. -/
def putWays (s : State) (k : Nat) (ws : List Nat) : State :=
  hbmWrite s (rlcBase s k + 3584) (ws.flatMap (leBytes 16) ++ zeros 64)

/-- Way w holds entry e and is now the latest used; those used after its last use step down. -/
def touchWay (ws : List Nat) (w e : Nat) : List Nat :=
  let old := wayAge (ws.getD w 0)
  ws.mapIdx (fun i x => if i = w then e % 2 ^ 96 + 27 * 2 ^ 96 else if wayAge x > old then x - 2 ^ 96 else x)

/-- The way of its set that holds the line. -/
def rlcFind (s : State) (line dev : Nat) : Option Nat :=
  let k := rlcSet s line dev
  if rlcUsable s k then (rlcWays s k).1.findIdx? (wayHolds line dev) else none

/-- The read lies in a cacheable window (R266), while the cache has an area. -/
def inWindow (s : State) (addr : W64) : Bool :=
  addrSpace addr == 0 && s.fab.rlcSize != 0 &&
    s.fab.windows.any (fun w => w.2.valid && w.2.dev.toNat == addrDev addr &&
      decide (w.2.first.toNat ≤ addrOff addr / 2 ^ 21) && decide (addrOff addr / 2 ^ 21 < w.2.first.toNat + w.2.count.toNat))

/-- The set of a read inside a window takes traffic now; a lookup waits until it does (R203, R210, R403). -/
def cacheReady (s : State) (addr : W64) : Bool :=
  !inWindow s addr || unitReady s 0 (rlcBase s (rlcSet s (addrOff addr / 128) (addrDev addr))) 4096

/-- Wake the set of a read. -/
def wakeCache (s : State) (addr : W64) : State := wakeUnit s 0 (rlcBase s (rlcSet s (addrOff addr / 128) (addrDev addr))) 4096

/-- The way a miss fills: an invalid one, else the least recently used (R265). -/
def rlcVictim (ws : List Nat) : Nat :=
  match ws.findIdx? (fun e => !wayValid e) with
  | some w => w
  | none => (List.range 28).foldl (fun m w => if wayAge (ws.getD w 0) < wayAge (ws.getD m 0) then w else m) 0

/-- Install a line that a CREAD brought (R266). -/
def rlcInstall (s : State) (line dev : Nat) (data : Bytes) (check : W32) : State :=
  let k := rlcSet s line dev
  if s.fab.rlcSize = 0 ∨ rlcUsable s k = false then s
  else
    let m := rlcWays s k
    let w := (m.1.findIdx? (wayHolds line dev)).getD (rlcVictim m.1)
    putWays (hbmWrite m.2 (rlcBase s k + 128 * w) data) k (touchWay m.1 w (mkWay line dev check))

/-- Sets with a metadata byte that is not zero. -/
def rlcListed (s : State) : List Nat := (s.hbm.mem.filterMap (fun c => metaSet s (c.1 / 256))).eraseDups

/-- Drop from a set every line of region i of a device (R268 step 4). -/
def dropWays (i dev : Nat) (s : State) (k : Nat) : State :=
  let m := rlcWays s k
  let gone (e : Nat) : Bool := wayValid e && bits e 52 41 == dev && bits e 40 0 / 2 ^ 14 == i
  if m.1.any gone then putWays m.2 k (m.1.map (fun e => if gone e then e - 2 ^ 53 else e)) else s

/-- Drop every cached line of region i of a device. -/
def dropRegion (s : State) (i dev : Nat) : State := (rlcListed s).foldl (dropWays i dev) s

/-- The read would be answered by the cache, so that nothing is sent. -/
def cacheHolds (s : State) (line : W64) : Bool := inWindow s line && (rlcFind s (addrOff line / 128) (addrDev line)).isSome

/-- The line in way w of a set, which becomes the latest used: its bytes, what its checks show, and the state. -/
def rlcHitLine (s : State) (k w : Nat) : Bytes × LineState × State :=
  let m := rlcWays s k
  let e := m.1.getD w 0
  let d := hbmRead m.2 (rlcBase s k + 128 * w) 128 false
  (d.1, if d.2.1 = .good then verify d.1 (wayCheck e) else d.2.1, putWays d.2.2 k (touchWay m.1 w e))

/-- Read a line of another part for a use: from the cache on a hit, else by CREAD inside a window or by READ. A hit
leaves the answered request in the outstanding list, where its use takes it. -/
def remoteRead (s : State) (ring : Option Nat) (u : TagUse) (line : W64) : State :=
  let dst := addrDev line
  let l := addrOff line / 128
  if inWindow s line then
    match rlcFind s l dst with
    | some w =>
      let h := rlcHitLine s (rlcSet s l dst) w
      let t := newTag s
      { h.2.2 with fab := { h.2.2.fab with
        rlcHit := satInc s.fab.rlcHit
        nextTag := (t + 1) % 2 ^ 23
        outstanding := s.fab.outstanding ++ [{
          tag := t, use_ := u, packet := requestPacket tCREAD line [], entered := s.clk, sentAt := s.clk
          reply := .data h.1 h.2.1 }] } }
    | none =>
      let s1 := { s with fab := { s.fab with rlcMiss := satInc s.fab.rlcMiss } }
      noteMember (openRequest s1 dst u (memberFields s1 ring false (requestPacket tCREAD line []))) ring dst false
  else noteMember (openRequest s dst u (memberFields s ring true (requestPacket tREAD line []))) ring dst false

/-- Line requests of a compute die's tiles that are outstanding in its fabric agent: those whose reply has not come, and
posted ones that are not acknowledged (R137). -/
def agentCount (s : State) (die : Nat) : Nat :=
  (s.fab.outstanding.filter fun o =>
    o.reply == .none &&
    match o.use_ with
    | .copyLine t _ => t / 96 == die
    | .gatherLine d _ _ _ => d == die
    | .request id => match (reqOf s id).bind (fun r => issuerTile r.issuer) with | some t => t / 96 == die | none => false
    | _ => false).length +
  posted s (fun k => decide (2 ^ 23 ≤ k.tag.toNat) && decide (k.tag.toNat < 2 ^ 23 + 2 ^ 12) && k.tag.toNat % 2 ^ 11 / 96 == die)

/-- The agent of a tile's die has room for another line request. -/
def agentRoom (s : State) (tile : Nat) : Bool := decide (agentCount s (tile / 96) < 4096)

/-! ### Raising a fault at the issuer -/

/-- Set the fault of a copy: it ends with it (R163). -/
def faultCopy (s : State) (tile copy code : Nat) (addr : W64) : State :=
  s.setTile tile { s.tile tile with copies := (s.tile tile).copies.map fun c =>
    if c.id == copy && c.fault == 0 then { c with fault := BitVec.ofNat 16 code, faddr := addr, todo := [] } else c }

/-- A poisoned TLP comes from a host: it is logged at the host die (R432). -/
def hostPoison (s : State) (a : W64) : State :=
  record s { code := 0x0205, detail := 5, unit := unitHost, kind := 1, data := dataAddr a }

/-- A refusal or a check failure reaches the unit that issued the request; the record names the address (R442). -/
def raiseAt (s : State) (who : Issuer) (code detail : Nat) (addr : W64) : State :=
  match who with
  | .thread t slot =>
    let th := (s.tile t).thread slot
    tileRaise s t code detail slot th.ipc.toNat th.iw.toNat 1 (dataAddr addr)
  | .copy t _ => engineRaise s t code detail 1 (dataAddr addr)
  | .ring r => memberFault s (some r) { code := code, detail := detail, unit := unitHost, kind := 1, data := dataAddr addr }
  | .remote _ => record s { code := code, detail := detail, unit := unitHost, kind := 1, data := dataAddr addr, remote := true }
  | .engine => record s { code := code, detail := detail, unit := unitHost, kind := 1, data := dataAddr addr }
  | .agent => record s { code := code, detail := detail, unit := unitHost, kind := 1, data := dataAddr addr }

end Sys2Proof.Machine
end

