-- ==== Sys2Proof/Machine/Threads.lean ====
section
/-! DEFINITION. The thread instructions (R135 to R159): fetch from the instruction cache, the check for reserved
encodings, the guard, the step of the program counter, and one meaning for each opcode, with the events that make a
waiting thread ready. -/

namespace Sys2Proof.Machine

/-! ### Issue -/

/-- Length of the image of the launch on a tile, 0 without one. -/
def imageLen (s : State) (tile : Nat) : Nat :=
  match (s.tile tile).launch.bind (launchOf s) with
  | some l => l.imgLen.toNat
  | none => 0

/-- The cached word at a program counter fails its parity (R434). -/
def parityBad (t : Tile) (pc : Nat) : Bool := t.storeMarks.any (fun m => m.1 == .word (pc / 4))

/-- The word at a program counter, when its line is in the instruction cache (R138) and its parity holds. -/
def cachedWord (t : Tile) (pc : Nat) : Option W32 :=
  if parityBad t pc then none else (tget? t.icache (pc / 256)).map (fun b => BitVec.ofNat 32 (field b (pc % 256) 4))

/-- The tile without a line of its instruction cache. -/
def dropLine (t : Tile) (n : Nat) : Tile :=
  { t with icache := tdel t.icache n, storeMarks := t.storeMarks.filter (fun m => match m.1 with | .word w => w / 64 != n | _ => true) }

/-- The word a slot would issue: the thread is ready and its last instruction has taken its time (R136), the tile runs
(R171), the part is not in FLOOR (R411) and the fetch hits. -/
def threadWord (s : State) (tile slot : Nat) : Option W32 :=
  let t := s.tile tile
  let th := t.thread slot
  if t.trun = 1 ∧ th.phase = .ready ∧ th.readyAt ≤ s.clk ∧ s.floored = false then cachedWord t th.pc.toNat else none

/-- A field of form A is used by none of the opcodes that must leave it zero: (RD, RA, RB used). -/
def unusedZero (w : W32) (rd ra rb : Bool) : Bool :=
  (rd || rdOf w == 0) && (ra || raOf w == 0) && (rb || rbOf w == 0)

/-- The word has a listed `OPC`, a listed `FN` and zeros in every field its opcode leaves unused (R142 to R159). -/
def validWord (w : W32) : Bool :=
  let fn := fnOf w
  match opcOf w with
  | 0x00 => unusedZero w false false false && fn == 0
  | 0x01 | 0x02 | 0x03 | 0x04 | 0x05 | 0x06 | 0x07 | 0x08 | 0x09 | 0x0A | 0x0B | 0x0C | 0x0D | 0x0E => fn == 0
  | 0x10 | 0x11 | 0x12 | 0x13 => true
  | 0x14 | 0x15 | 0x16 => bits w.toNat 31 24 == 0
  | 0x17 => bits w.toNat 15 14 == 0
  | 0x20 => rdOf w / 4 == 0 && decide (fn ≤ 9)
  | 0x21 => true
  | 0x22 => rdOf w / 4 == 0 && raOf w / 4 == 0 && rbOf w / 4 == 0 && decide (fn ≤ 3)
  | 0x28 | 0x29 => true
  | 0x2A => unusedZero w false true false && fn == 0
  | 0x30 | 0x31 | 0x32 | 0x33 | 0x34 | 0x35 | 0x36 => true
  | 0x38 | 0x39 | 0x3A | 0x3B => true
  | 0x40 | 0x41 | 0x42 | 0x43 | 0x44 | 0x45 | 0x46 => true
  | 0x48 | 0x49 | 0x4A | 0x4B => true
  | 0x4C | 0x4D => decide (fn ≤ 4)
  | 0x50 => unusedZero w false true true && decide (fn ≤ 2)
  | 0x51 => unusedZero w false true false && decide (fn ≤ 0xFF)
  | 0x52 =>
    match fn / 256 with
    | 0 => unusedZero w true false false
    | 1 | 2 => unusedZero w false true false
    | _ => false
  | 0x58 => unusedZero w false false false && fn == 0
  | 0x59 => unusedZero w false false false
  | 0x5A => unusedZero w false false false && decide (fn ≤ 2)
  | 0x60 => unusedZero w true false false && decide (fn ≤ 1)
  | 0x61 => unusedZero w true false true && decide (fn ≤ 0xFF)
  | 0x62 => unusedZero w true false false && decide (fn ≤ 8)
  | 0x63 => unusedZero w true true false && fn == 0
  | 0x7F => unusedZero w false false false && fn == 0
  | _ => false

/-- A predicate; p0 reads as true (R139). -/
def Thread.pred (th : Thread) (k : Nat) : Bool := k == 0 || bit th.p.toNat k

/-- Write a predicate; a write to p0 is discarded. -/
def Thread.setPred (th : Thread) (k : Nat) (v : Bool) : Thread :=
  if k = 0 then th else
    { th with p := (th.p &&& ~~~(BitVec.ofNat 4 (2 ^ k))) ||| (if v then BitVec.ofNat 4 (2 ^ k) else 0) }

/-- The guard lets the instruction take effect (R142). -/
def guardOn (th : Thread) (w : W32) : Bool := th.pred (w.toNat % 4) != bit w.toNat 2

/-! ### Which slot a pipe takes (R135 to R137) -/

/-- The load/store path has room: fewer than 64 of the tile's global requests are on their way or, posted to another part,
unacknowledged (R137). -/
def pathRoom (s : State) (tile : Nat) : Bool :=
  decide ((s.tile tile).lsu.length + posted s (fun k => k.tag == postedTag (.thread tile 0)) < 64)

/-- The queue that ENQ names has room. -/
def queueRoom (t : Tile) (q : Nat) : Bool :=
  match q with
  | 0 => decide (t.mqueue.length < 64)
  | 1 => decide (t.vqueue.length < 64)
  | _ => decide (t.cqueue.length < 256)

/-- The opcodes of global accesses. -/
def globalOpc (opc : Nat) : Bool := (decide (0x40 ≤ opc) && decide (opc ≤ 0x4B)) || opc == 0x4D

/-- A thread whose next instruction finds the load/store path or its engine queue full is not ready (R137, R151). -/
def wordRoom (s : State) (tile : Nat) (th : Thread) (w : W32) : Bool :=
  !validWord w || !guardOn th w ||
    (if globalOpc (opcOf w) then pathRoom s tile else if opcOf w = 0x50 then queueRoom (s.tile tile) (fnOf w % 4) else true)

/-- The slot is ready: it has a word to issue, and room for it. -/
def slotReady (s : State) (tile slot : Nat) : Bool :=
  match threadWord s tile slot with
  | some w => wordRoom s tile ((s.tile tile).thread slot) w
  | none => false

/-- How far a slot lies behind the one its pipe last issued, in ascending order with wrap; a pipe that has not issued
begins at its lowest slot (DESIGN CHOICE, log entry 107). -/
def slotRank (t : Tile) (slot : Nat) : Nat := (slot + 2047 - tget t.lastIssue (slot % 4) 2047) % 2048

/-- The slot's pipe takes it in this control cycle: it has not issued in it, and the slot is the first ready one (R135). -/
def picked (s : State) (tile slot : Nat) : Bool :=
  let t := s.tile tile
  slotReady s tile slot && tget? t.issuedAt (slot % 4) != some s.clk &&
    t.threads.all (fun x => x.1 % 4 != slot % 4 || !slotReady s tile x.1 || decide (slotRank t slot ≤ slotRank t x.1))

/-- Control cycles until a thread may issue again after an instruction that completes by itself (R136). -/
def latency (w : W32) : Nat :=
  let o := opcOf w
  if o = 0x03 ∨ o = 0x04 then 4
  else if (0x30 ≤ o ∧ o ≤ 0x3B) ∨ o = 0x4C then 4
  else if o = 0x60 then 2
  else if o = 0x61 then 16
  else 1

/-! ### Issue itself -/

/-- Replace a thread of a tile. -/
def State.setThread (s : State) (tile slot : Nat) (th : Thread) : State :=
  s.setTile tile { s.tile tile with threads := tset (s.tile tile).threads slot th }

/-- A thread's fault: its record carries slot, program counter and word (R171). The thread does not move. -/
def threadFault (s : State) (tile slot : Nat) (w : W32) (code : Nat) : State :=
  let pc := ((s.tile tile).thread slot).pc.toNat
  tileRaise s tile code 0 slot pc w.toNat 3 (dataThread slot pc w.toNat)

/-- The issue itself: the pipe's last slot and its cycle (R135), when the thread is ready again (R136), and what a later
fault record would carry. -/
def noteIssue (s : State) (tile slot : Nat) (w : W32) : State :=
  let t := s.tile tile
  let th := t.thread slot
  s.setTile tile { t with
    lastIssue := tset t.lastIssue (slot % 4) slot
    issuedAt := tset t.issuedAt (slot % 4) s.clk
    threads := tset t.threads slot { th with ipc := th.pc, iw := w, readyAt := s.clk + (if guardOn th w then latency w else 1) } }

/-- A waiting thread becomes ready in the next control cycle (R136). -/
def wakeThread (s : State) (th : Thread) : Thread := { th with phase := .ready, wait := .nothing, readyAt := s.clk + 1 }

/-- The sequential step: to the next word, refused with FLT_THREAD_OP at the end of the image (R146); the rest of the
instruction runs with the counter moved. -/
def sequential (s : State) (tile slot : Nat) (w : W32) (rest : Thread → State) : State :=
  let th := (s.tile tile).thread slot
  if th.pc.toNat + 4 < imageLen s tile then rest { th with pc := th.pc + 4 } else threadFault s tile slot w 0x010B

/-- A transfer of control to a target, which must be a multiple of 4 below the image length (R146). -/
def transfer (s : State) (tile slot : Nat) (w : W32) (target : Nat) (th : Thread) : State :=
  if target % 4 = 0 ∧ target < imageLen s tile then s.setThread tile slot { th with pc := BitVec.ofNat 32 target }
  else threadFault s tile slot w 0x010B

/-- Issue the word of a slot when its pipe takes it, and it is of the opcode and valid: with a false guard only the counter
steps (R142). -/
def issue (opc tile slot : Nat) (s : State) (body : Thread → W32 → State → State) : Res :=
  onSlot tile slot <|
    match threadWord s tile slot with
    | none => .next s
    | some w =>
      let s1 := noteIssue s tile slot w
      let th1 := (s1.tile tile).thread slot
      if opcOf w = opc ∧ validWord w = true ∧ picked s tile slot = true then
        if guardOn ((s.tile tile).thread slot) w then .next (body th1 w s1)
        else .next (sequential s1 tile slot w (fun u => s1.setThread tile slot u))
      else .next s

/-- Issue an instruction that only changes the thread. -/
def issueReg (opc tile slot : Nat) (s : State) (f : Thread → W32 → Thread) : Res :=
  issue opc tile slot s (fun _ w u => sequential u tile slot w (fun th => u.setThread tile slot (f th w)))

/-- rd := f(ra, rb), form A. -/
def issueA (opc tile slot : Nat) (s : State) (f : W64 → W64 → W64) : Res :=
  issueReg opc tile slot s (fun th w => th.setReg (rdOf w) (f (th.reg (raOf w)) (th.reg (rbOf w))))

/-- rd := f(ra, sext(IMM14)), form B. -/
def issueB (opc tile slot : Nat) (s : State) (f : W64 → W64 → W64) : Res :=
  issueReg opc tile slot s (fun th w => th.setReg (rdOf w) (f (th.reg (raOf w)) (imm14 w)))

/-! ### Integer and logic (R144) -/

/-- Signed 128-bit product, high half. -/
def mulHigh (a b : W64) : W64 := BitVec.ofInt 64 (a.toInt * b.toInt / (2 ^ 64 : Nat))
/-- Shifts by the low six bits. -/
def shiftL (a b : W64) : W64 := a <<< (b.toNat % 64)
def shiftR (a b : W64) : W64 := a >>> (b.toNat % 64)
def shiftA (a b : W64) : W64 := a.sshiftRight (b.toNat % 64)
/-- Signed and unsigned minimum and maximum. -/
def minS (a b : W64) : W64 := if a.toInt ≤ b.toInt then a else b
def maxS (a b : W64) : W64 := if a.toInt ≤ b.toInt then b else a
def minU (a b : W64) : W64 := if a.toNat ≤ b.toNat then a else b
def maxU (a b : W64) : W64 := if a.toNat ≤ b.toNat then b else a

/-- NOP. -/
def execNop (tile slot : Nat) (s : State) : Res := issueReg 0x00 tile slot s (fun th _ => th)
/-- ADD. -/
def execAdd (tile slot : Nat) (s : State) : Res := issueA 0x01 tile slot s (fun a b => a + b)
/-- SUB. -/
def execSub (tile slot : Nat) (s : State) : Res := issueA 0x02 tile slot s (fun a b => a - b)
/-- MUL. -/
def execMul (tile slot : Nat) (s : State) : Res := issueA 0x03 tile slot s (fun a b => a * b)
/-- MULH. -/
def execMulh (tile slot : Nat) (s : State) : Res := issueA 0x04 tile slot s mulHigh
/-- AND. -/
def execAnd (tile slot : Nat) (s : State) : Res := issueA 0x05 tile slot s (fun a b => a &&& b)
/-- OR. -/
def execOr (tile slot : Nat) (s : State) : Res := issueA 0x06 tile slot s (fun a b => a ||| b)
/-- XOR. -/
def execXor (tile slot : Nat) (s : State) : Res := issueA 0x07 tile slot s (fun a b => a ^^^ b)
/-- SHL. -/
def execShl (tile slot : Nat) (s : State) : Res := issueA 0x08 tile slot s shiftL
/-- SHR. -/
def execShr (tile slot : Nat) (s : State) : Res := issueA 0x09 tile slot s shiftR
/-- SAR. -/
def execSar (tile slot : Nat) (s : State) : Res := issueA 0x0A tile slot s shiftA
/-- MIN. -/
def execMin (tile slot : Nat) (s : State) : Res := issueA 0x0B tile slot s minS
/-- MAX. -/
def execMax (tile slot : Nat) (s : State) : Res := issueA 0x0C tile slot s maxS
/-- MINU. -/
def execMinu (tile slot : Nat) (s : State) : Res := issueA 0x0D tile slot s minU
/-- MAXU. -/
def execMaxu (tile slot : Nat) (s : State) : Res := issueA 0x0E tile slot s maxU
/-- ADDI. -/
def execAddi (tile slot : Nat) (s : State) : Res := issueB 0x10 tile slot s (fun a b => a + b)
/-- ANDI. -/
def execAndi (tile slot : Nat) (s : State) : Res := issueB 0x11 tile slot s (fun a b => a &&& b)
/-- ORI. -/
def execOri (tile slot : Nat) (s : State) : Res := issueB 0x12 tile slot s (fun a b => a ||| b)
/-- XORI. -/
def execXori (tile slot : Nat) (s : State) : Res := issueB 0x13 tile slot s (fun a b => a ^^^ b)
/-- SHLI: `IMM14`[5:0] is the low six bits. -/
def execShli (tile slot : Nat) (s : State) : Res := issueB 0x14 tile slot s shiftL
/-- SHRI. -/
def execShri (tile slot : Nat) (s : State) : Res := issueB 0x15 tile slot s shiftR
/-- SARI. -/
def execSari (tile slot : Nat) (s : State) : Res := issueB 0x16 tile slot s shiftA
/-- SHI: rd := (rd << 16) OR `IMM16`. -/
def execShi (tile slot : Nat) (s : State) : Res :=
  issueReg 0x17 tile slot s (fun th w => th.setReg (rdOf w) ((th.reg (rdOf w) <<< 16) ||| BitVec.ofNat 64 (imm16 w)))

/-! ### Predicates (R144, R145) -/

/-- The conditions of R145. -/
def condition (c : Nat) (a b : W64) : Bool :=
  match c with
  | 0 => a == b
  | 1 => a != b
  | 2 => decide (a.toInt < b.toInt)
  | 3 => decide (a.toInt ≤ b.toInt)
  | 4 => decide (a.toInt > b.toInt)
  | 5 => decide (a.toInt ≥ b.toInt)
  | 6 => decide (a.toNat < b.toNat)
  | 7 => decide (a.toNat ≤ b.toNat)
  | 8 => decide (a.toNat > b.toNat)
  | 9 => decide (a.toNat ≥ b.toNat)
  | _ => false

/-- CMP. -/
def execCmp (tile slot : Nat) (s : State) : Res :=
  issueReg 0x20 tile slot s (fun th w => th.setPred (rdOf w % 4) (condition (fnOf w % 16) (th.reg (raOf w)) (th.reg (rbOf w))))

/-- The four conditions of CMPI as codes of R145. -/
def cmpiCondition (k : Nat) : Nat := match k with | 0 => 0 | 1 => 1 | 2 => 2 | _ => 6

/-- CMPI. -/
def execCmpi (tile slot : Nat) (s : State) : Res :=
  issueReg 0x21 tile slot s (fun th w => th.setPred (rdOf w % 4) (condition (cmpiCondition (rdOf w / 4)) (th.reg (raOf w)) (imm14 w)))

/-- PLOG. -/
def execPlog (tile slot : Nat) (s : State) : Res :=
  issueReg 0x22 tile slot s (fun th w =>
    let a := th.pred (raOf w % 4)
    let b := th.pred (rbOf w % 4)
    th.setPred (rdOf w % 4) (match fnOf w % 4 with | 0 => a && b | 1 => a || b | 2 => a != b | _ => a && !b))

/-! ### Branches (R144, R146) -/

/-- The target of BR and BRL, modulo 2^32. -/
def branchTarget (th : Thread) (w : W32) : Nat := wrap 32 ((th.pc.toNat : Int) + 4 * imm22 w)

/-- BR. -/
def execBr (tile slot : Nat) (s : State) : Res :=
  issue 0x28 tile slot s (fun th w u => transfer u tile slot w (branchTarget th w) th)

/-- BRL: g15 := pc + 4, then as BR. -/
def execBrl (tile slot : Nat) (s : State) : Res :=
  issue 0x29 tile slot s (fun th w u =>
    transfer u tile slot w (branchTarget th w) (th.setReg 15 ((th.pc + 4).zeroExtend 64)))

/-- JR. -/
def execJr (tile slot : Nat) (s : State) : Res :=
  issue 0x2A tile slot s (fun th w u => transfer u tile slot w (th.reg (raOf w)).toNat th)

/-! ### Local memory (R147) -/

/-- The low `n` bytes of a value as a register holds them after a load. -/
def extendLoad (n : Nat) (sgn : Bool) (v : Nat) : W64 :=
  if sgn then BitVec.ofInt 64 (signed (8 * n) v) else BitVec.ofNat 64 (v % 2 ^ (8 * n))

/-- ra + sext(`IMM14`), modulo 2^64. -/
def effective (th : Thread) (w : W32) : W64 := th.reg (raOf w) + imm14 w

/-- What refuses a local access: alignment first, then the range, then a write to a context area (R147, R140). -/
def localRefusal (off n : Nat) (wr : Bool) : Nat :=
  if off % n ≠ 0 then 0x010B else if off ≥ sramBytes then 0x0105 else if wr && inContext off then 0x0105 else 0

/-- Read `n` bytes of the thread's own tile into rd. A double-bit error stops the tile (R180). -/
def loadOwn (s : State) (tile slot off n rd : Nat) (sgn : Bool) (th : Thread) : State :=
  let t := (s.tile tile).touch s.clk off n
  let s1 := s.setTile tile t
  if bankBad t off n then bankChecks s1 tile off n
  else (bankChecks s1 tile off n).setThread tile slot (th.setReg rd (extendLoad n sgn (tileNat t off n)))

/-- Write the low `n` bytes of a value to the thread's own tile. -/
def storeOwn (s : State) (tile slot off n : Nat) (v : W64) (th : Thread) : State :=
  let t := ((s.tile tile).touch s.clk off n).store off (leBytes n v.toNat)
  s.setTile tile { t with threads := tset t.threads slot th }

/-- A local load of `n` bytes. -/
def issueLoad (opc n : Nat) (sgn : Bool) (tile slot : Nat) (s : State) : Res :=
  issue opc tile slot s (fun th0 w u => sequential u tile slot w (fun th =>
    let off := (effective th0 w).toNat % 2 ^ 24
    match localRefusal off n false with
    | 0 => loadOwn u tile slot off n (rdOf w) sgn th
    | code => threadFault u tile slot w code))

/-- A local store of `n` bytes. -/
def issueStore (opc n tile slot : Nat) (s : State) : Res :=
  issue opc tile slot s (fun th0 w u => sequential u tile slot w (fun th =>
    let off := (effective th0 w).toNat % 2 ^ 24
    match localRefusal off n true with
    | 0 => storeOwn u tile slot off n (th0.reg (rdOf w)) th
    | code => threadFault u tile slot w code))

/-- LDL1. -/
def execLdl1 (tile slot : Nat) (s : State) : Res := issueLoad 0x30 1 false tile slot s
/-- LDL2. -/
def execLdl2 (tile slot : Nat) (s : State) : Res := issueLoad 0x31 2 false tile slot s
/-- LDL4. -/
def execLdl4 (tile slot : Nat) (s : State) : Res := issueLoad 0x32 4 false tile slot s
/-- LDL8. -/
def execLdl8 (tile slot : Nat) (s : State) : Res := issueLoad 0x33 8 false tile slot s
/-- LDLS1. -/
def execLdls1 (tile slot : Nat) (s : State) : Res := issueLoad 0x34 1 true tile slot s
/-- LDLS2. -/
def execLdls2 (tile slot : Nat) (s : State) : Res := issueLoad 0x35 2 true tile slot s
/-- LDLS4. -/
def execLdls4 (tile slot : Nat) (s : State) : Res := issueLoad 0x36 4 true tile slot s
/-- STL1. -/
def execStl1 (tile slot : Nat) (s : State) : Res := issueStore 0x38 1 tile slot s
/-- STL2. -/
def execStl2 (tile slot : Nat) (s : State) : Res := issueStore 0x39 2 tile slot s
/-- STL4. -/
def execStl4 (tile slot : Nat) (s : State) : Res := issueStore 0x3A 4 tile slot s
/-- STL8. -/
def execStl8 (tile slot : Nat) (s : State) : Res := issueStore 0x3B 8 tile slot s

/-! ### Global memory (R147, R148) -/

/-- The address lies in the thread's own tile. -/
def ownTile (s : State) (tile : Nat) (a : W64) : Bool := isOwn s a && addrSpace a == 1 && addrTile a == tile

/-- What refuses a global access at issue: alignment, then R25. -/
def globalRefusal (s : State) (a : W64) (n : Nat) : Nat :=
  if a.toNat % n ≠ 0 then 0x010B else if addrOk s a n then 0 else 0x0105

/-- Enter a request of a thread and hold its place in the load/store path. It travels on the networks of the part: to a
tile, to a controller, or to a gateway and from there to a host port or another part. -/
def threadReq (s : State) (tile slot : Nat) (act : MemAct) (a : W64) (n : Nat) : State :=
  let s1 := newReq s (.thread tile slot) act a n (tileView s tile) (s.tile tile).launch
  s1.setTile tile { s1.tile tile with lsu := (s1.tile tile).lsu ++ [s.nextReq] }

/-- The thread's record of what it sent to another part (R252). -/
def noteSent (s : State) (dst : Nat) (th : Thread) : Thread := { th with sent := addCover (coverOf s dst 0) th.sent }

/-- A thread's fence that still waits for a request to leave the part waits from then on for its stream too (R252). -/
def coverFence (s : State) (id dst : Nat) (th : Thread) : Thread :=
  match th.wait with
  | .fence sc rs cv tags start =>
    if rs.contains id then { th with wait := .fence sc rs (if sc = 2 then addCover (coverOf s dst 0) cv else cv) tags start } else th
  | _ => th

/-- Note at the issuing thread, while its launch runs, that its request went into the stream of another part. -/
def noteAway (s : State) (r : MemReq) : State :=
  match r.issuer with
  | .thread t k =>
    if r.launch.isSome && (s.tile t).launch == r.launch then
      s.setThread t k (coverFence s r.id (addrDev r.addr) (noteSent s (addrDev r.addr) ((s.tile t).thread k)))
    else s
  | _ => s

/-- The ring pair of the launch that a request was issued in. -/
def reqRing (s : State) (r : MemReq) : Option Nat := (r.launch.bind (launchOf s)).map (·.ring)

/-- A request keeps waiting for its reply outside the networks of the part. -/
def markAway (s : State) (id : Nat) : State :=
  { s with reqs := s.reqs.map fun q => if q.id == id then { q with away := true } else q }

/-- A request leaves the part at its gateway: a host read or write on its port, or the packet that its action asks for. A
read that the remote line cache answers sends nothing. -/
def sendAway (s : State) (r : MemReq) : State :=
  let host := addrSpace r.addr == 3 || addrSpace r.addr == 4
  let line := r.addr &&& ~~~127#64
  let ring := reqRing s r
  match r.act with
  | .read =>
    if host then (markAway s r.id).emit (.hostRead (addrSpace r.addr - 3) (mkAddr 0 0 (addrOff r.addr)) r.len false)
    else if cacheHolds s line then remoteRead (markAway s r.id) ring (.request r.id) line
    else noteAway (remoteRead (markAway s r.id) ring (.request r.id) line) r
  | .write b =>
    if host then (dropReq s r.id).emit (.hostWrite (addrSpace r.addr - 3) (mkAddr 0 0 (addrOff r.addr)) b false false)
    else
      let lo := r.addr.toNat % 128
      noteAway (sendWrite (dropReq s r.id) r.issuer ring line ((2 ^ b.length - 1) * 2 ^ lo) (splice (zeros 128) lo b)) r
  | .atomic op v c => noteAway (sendAtomic (markAway s r.id) ring (.request r.id) r.addr op.toNat v c) r

/-- Start a load that leaves the tile. The thread waits for the reply. -/
def startLoad (s : State) (tile slot : Nat) (a : W64) (n rd : Nat) (sgn : Bool) (th : Thread) : State :=
  (threadReq s tile slot .read a n).setThread tile slot { th with phase := .waiting, wait := .reply s.nextReq rd n sgn }

/-- A global load of `n` bytes. -/
def issueLoadG (opc n : Nat) (sgn : Bool) (tile slot : Nat) (s : State) : Res :=
  issue opc tile slot s (fun th0 w u =>
    sequential u tile slot w (fun th =>
      let a := effective th0 w
      match globalRefusal u a n with
      | 0 => if ownTile u tile a then loadOwn u tile slot (addrLocal a) n (rdOf w) sgn th
             else startLoad u tile slot a n (rdOf w) sgn th
      | code => threadFault u tile slot w code))

/-- A posted global store of `n` bytes: in the own tile at once, else it waits to be accepted. -/
def issueStoreG (opc n tile slot : Nat) (s : State) : Res :=
  issue opc tile slot s (fun th0 w u =>
    sequential u tile slot w (fun th =>
      let a := effective th0 w
      match globalRefusal u a n with
      | 0 =>
        if ownTile u tile a then
          (if inContext (addrLocal a) then threadFault u tile slot w 0x0105
           else storeOwn u tile slot (addrLocal a) n (th0.reg (rdOf w)) th)
        else u.setThread tile slot { th with phase := .waiting, wait := .accept a n (th0.reg (rdOf w)) }
      | code => threadFault u tile slot w code))

/-- LDG1. -/
def execLdg1 (tile slot : Nat) (s : State) : Res := issueLoadG 0x40 1 false tile slot s
/-- LDG2. -/
def execLdg2 (tile slot : Nat) (s : State) : Res := issueLoadG 0x41 2 false tile slot s
/-- LDG4. -/
def execLdg4 (tile slot : Nat) (s : State) : Res := issueLoadG 0x42 4 false tile slot s
/-- LDG8. -/
def execLdg8 (tile slot : Nat) (s : State) : Res := issueLoadG 0x43 8 false tile slot s
/-- LDGS1. -/
def execLdgs1 (tile slot : Nat) (s : State) : Res := issueLoadG 0x44 1 true tile slot s
/-- LDGS2. -/
def execLdgs2 (tile slot : Nat) (s : State) : Res := issueLoadG 0x45 2 true tile slot s
/-- LDGS4. -/
def execLdgs4 (tile slot : Nat) (s : State) : Res := issueLoadG 0x46 4 true tile slot s
/-- STG1. -/
def execStg1 (tile slot : Nat) (s : State) : Res := issueStoreG 0x48 1 tile slot s
/-- STG2. -/
def execStg2 (tile slot : Nat) (s : State) : Res := issueStoreG 0x49 2 tile slot s
/-- STG4. -/
def execStg4 (tile slot : Nat) (s : State) : Res := issueStoreG 0x4A 4 tile slot s
/-- STG8. -/
def execStg8 (tile slot : Nat) (s : State) : Res := issueStoreG 0x4B 8 tile slot s

/-- The answer to a request of a thread so far: its own, or that of its packet cut to the bytes asked for; a load of poison
takes its low bytes (R148). -/
def replyOf (s : State) (r : MemReq) : Reply :=
  match r.reply with
  | .none =>
    match s.fab.outstanding.find? (fun o => o.use_ == .request r.id) with
    | some o =>
      match o.reply with
      | .data line st =>
        .data (if line.length = 128 then slice line (if st = .poison then 0 else r.addr.toNat % 128) r.len else line) st
      | x => x
    | none => .none
  | x => x

/-- Forget a request with its packet's tag. -/
def closeReq (s : State) (id : Nat) : State :=
  let s1 := dropReq s id
  { s1 with fab := { s1.fab with outstanding := s1.fab.outstanding.filter (fun o => o.use_ != .request id) } }

/-- GLOBAL_LOAD_REPLY: the bytes enter rd after their check (R148, R432); host memory's bytes come with the command. -/
def execGlobalLoadReply (tile slot : Nat) (hostData : W64) (s : State) (poisoned : Bool := false) : Res :=
  onSlot tile slot <|
    let th := (s.tile tile).thread slot
    match th.wait with
    | .reply id rd n sgn =>
      match reqOf s id with
      | none => .next s
      | some r =>
        let host := addrSpace r.addr == 3 || addrSpace r.addr == 4
        let rep := if host && r.away && r.reply == .none then .data (leBytes n hostData.toNat) (if poisoned then .markedBad else .good)
          else replyOf s r
        match rep with
        | .none => .next s
        | .refused code => .next (raiseAt (closeReq s id) (.thread tile slot) code.toNat 0 r.addr)
        | .data b st =>
          let s1 := if host && poisoned then hostPoison (closeReq s id) r.addr else closeReq s id
          if (s.tile tile).trun ≠ 1 then .next s1 else
          match st with
          | .markedBad => .next (raiseAt s1 (.thread tile slot) 0x0205 2 r.addr)
          | .mismatch => .next (raiseAt s1 (.thread tile slot) 0x0205 1 r.addr)
          | _ => .next (s1.setThread tile slot ((wakeThread s th).setReg rd (extendLoad n sgn (leNat b))))
    | _ => .next s

/-- GLOBAL_STORE_ACCEPT: the load/store path takes a posted store once it has room (R137, R148). -/
def execGlobalStoreAccept (tile slot : Nat) (s : State) : Res :=
  onSlot tile slot <|
    let th := (s.tile tile).thread slot
    match th.wait with
    | .accept a n v =>
      ifDue (pathRoom s tile && (s.tile tile).trun == 1) s
        ((threadReq s tile slot (.write (leBytes n v.toNat)) a n).setThread tile slot (wakeThread s th))
    | _ => .next s

/-! ### Atomics (R150) -/

/-- ATOML: at the bank, in one step. -/
def execAtoml (tile slot : Nat) (s : State) : Res :=
  issue 0x4C tile slot s (fun th0 w u => sequential u tile slot w (fun th =>
    let off := (th0.reg (raOf w)).toNat % 2 ^ 24
    match localRefusal off 8 true with
    | 0 =>
      let t := (u.tile tile).touch u.clk off 8
      if bankBad t off 8 then bankChecks (u.setTile tile t) tile off 8 else
      let old := BitVec.ofNat 64 (tileNat t off 8)
      match atomicNew (fnOf w % 8) old (th0.reg (rbOf w)) (th0.reg (rdOf w)) with
      | some new => storeOwn (bankChecks (u.setTile tile t) tile off 8) tile slot off 8 new (th.setReg (rdOf w) old)
      | none => u
    | code => threadFault u tile slot w code))

/-- ATOMG: in the own tile at once; at the controller, another tile or another part through a request. `SPACE` 3 and 4 are
refused with FLT_THREAD_OP before R25 is applied (DESIGN CHOICE, log entry 108). -/
def execAtomg (tile slot : Nat) (s : State) : Res :=
  issue 0x4D tile slot s (fun th0 w u =>
    sequential u tile slot w (fun th =>
      let a := th0.reg (raOf w)
      let op := fnOf w % 8
      if a.toNat % 8 ≠ 0 ∨ addrSpace a = 3 ∨ addrSpace a = 4 then threadFault u tile slot w 0x010B
      else if !addrOk u a 8 then threadFault u tile slot w 0x0105
      else if ownTile u tile a then
        let off := addrLocal a
        if inContext off then threadFault u tile slot w 0x0105 else
        let t := (u.tile tile).touch u.clk off 8
        if bankBad t off 8 then bankChecks (u.setTile tile t) tile off 8 else
        let old := BitVec.ofNat 64 (tileNat t off 8)
        match atomicNew op old (th0.reg (rbOf w)) (th0.reg (rdOf w)) with
        | some new => storeOwn (bankChecks (u.setTile tile t) tile off 8) tile slot off 8 new (th.setReg (rdOf w) old)
        | none => u
      else
        let cmp := if op = 2 then th0.reg (rdOf w) else 0
        (threadReq u tile slot (.atomic (BitVec.ofNat 3 op) (th0.reg (rbOf w)) cmp) a 8).setThread tile slot
          { th with phase := .waiting, wait := .reply u.nextReq (rdOf w) 8 false }))

/-! ### Engine queues and counters (R151 to R154) -/

/-- A list with an entry before its last n. -/
def insertBack {α : Type} (l : List α) (n : Nat) (x : α) : List α := l.take (l.length - n) ++ x :: l.drop (l.length - n)

/-- Push an engine instruction: entries of one control cycle stand in ascending pipe number (R151). -/
def pushQueue (t : Tile) (clk q pipe : Nat) (x : W128) : Tile :=
  let now := if t.enqAt = clk then t.enqs else []
  let n := (now.filter (fun e => e.1 == q && decide (e.2 > pipe))).length
  let t1 := { t with enqAt := clk, enqs := now ++ [(q, pipe)] }
  match q with
  | 0 => { t1 with mqueue := insertBack t.mqueue n x }
  | 1 => { t1 with vqueue := insertBack t.vqueue n x }
  | _ => { t1 with cqueue := insertBack t.cqueue n x }

/-- ENQ. -/
def execEnq (tile slot : Nat) (s : State) : Res :=
  issue 0x50 tile slot s (fun th0 w u =>
    sequential u tile slot w (fun th =>
      let x : W128 := (th0.reg (rbOf w)) ++ (th0.reg (raOf w))
      let s1 := u.setThread tile slot th
      s1.setTile tile (pushQueue (s1.tile tile) s.clk (fnOf w % 4) (slot % 4) x)))

/-- WAITC: at once when the counter that it sees has reached the target, else the thread waits (R154). -/
def execWaitc (tile slot : Nat) (s : State) : Res :=
  issue 0x51 tile slot s (fun th0 w u => sequential u tile slot w (fun th =>
    let k := fnOf w % 256
    let target := (th0.reg (raOf w)).truncate 32
    let u1 := storeChecks u tile (· == .counter k)
    if (u1.tile tile).trun ≠ 1 then u1
    else if reached (u.seenCounter tile k) target then u1.setThread tile slot th
    else u1.setThread tile slot { th with phase := .waiting, wait := .counter k target }))

/-- WAITC_RELEASE: the counter has reached the target. -/
def execWaitcRelease (tile slot : Nat) (s : State) : Res :=
  onSlot tile slot <|
    let th := (s.tile tile).thread slot
    match th.wait with
    | .counter k target =>
      ifDue (reached (s.seenCounter tile k) target && (s.tile tile).trun == 1) s (s.setThread tile slot (wakeThread s th))
    | _ => .next s

/-- CTR: read, add or set (R153). -/
def execCtr (tile slot : Nat) (s : State) : Res :=
  issue 0x52 tile slot s (fun th0 w u => sequential u tile slot w (fun th =>
    let k := fnOf w % 256
    let v : W32 := (th0.reg (raOf w)).truncate 32
    let u1 := storeChecks u tile (· == .counter k)
    if (u1.tile tile).trun ≠ 1 then u1 else
    match fnOf w / 256 with
    | 0 => u1.setThread tile slot (th.setReg (rdOf w) ((u.counter tile k).zeroExtend 64))
    | 1 => addCounter (u1.setThread tile slot th) tile k v
    | _ => setCounter (u1.setThread tile slot th) tile k v))

/-! ### Parties (R156 to R158) -/

/-- The launch on a tile. -/
def launchOn (s : State) (tile : Nat) : Option Launch := (s.tile tile).launch.bind (launchOf s)

/-- Party of a slot. -/
def partyOf (s : State) (tile slot : Nat) : Nat := match launchOn s tile with | some l => slot / max l.psize 1 | none => 0

/-- Live members of a party: those that have not executed EXIT. -/
def liveMembers (s : State) (tile k : Nat) : List Nat :=
  match launchOn s tile with
  | some l => ((List.range l.psize).map (fun m => k * l.psize + m)).filter (fun x =>
      let ph := ((s.tile tile).thread x).phase
      ph == .ready || ph == .waiting)
  | none => []

/-- Release a party's barrier when every live member has arrived and someone waits. -/
def releaseBarrier (s : State) (tile k : Nat) : State :=
  let t := s.tile tile
  let arr := tget t.barriers k []
  if (liveMembers s tile k).all arr.contains && !arr.isEmpty then
    s.setTile tile { t with
      barriers := tdel t.barriers k
      threads := arr.foldl (fun ts x => tmod ts x {} (wakeThread s)) t.threads }
  else s

/-- BAR: the thread arrives; the last arrival releases every member. -/
def execBar (tile slot : Nat) (s : State) : Res :=
  issue 0x58 tile slot s (fun _ w u => sequential u tile slot w (fun th =>
    let k := partyOf u tile slot
    let s1 := u.setThread tile slot { th with phase := .waiting, wait := .barrier }
    let t := s1.tile tile
    releaseBarrier (s1.setTile tile { t with barriers := tset t.barriers k (insertNat slot (tget t.barriers k [])) }) tile k))

/-- YIELD: not ready for `FN` cycles; with 0 the thread is ready again next. -/
def execYield (tile slot : Nat) (s : State) : Res :=
  issueReg 0x59 tile slot s (fun th w =>
    if fnOf w = 0 then th else { th with phase := .waiting, wait := .yield (s.clk + fnOf w) })

/-- YIELD_EXPIRE. -/
def execYieldExpire (tile slot : Nat) (s : State) : Res :=
  onSlot tile slot <|
    let th := (s.tile tile).thread slot
    match th.wait with
    | .yield u => ifDue (decide (s.clk ≥ u) && (s.tile tile).trun == 1) s (s.setThread tile slot { wakeThread s th with readyAt := u + 1 })
    | _ => .next s

/-- Every thread of the tile has exited. -/
def allExited (t : Tile) : Bool := t.threads.all (fun x => x.2.phase != .ready && x.2.phase != .waiting)

/-- EXIT: the slot becomes exited, a barrier that waited only for it releases, and with the last thread the tile drains
its queues (R156, R158, R172). The program counter stays. -/
def execExit (tile slot : Nat) (s : State) : Res :=
  issue 0x7F tile slot s (fun th _ u =>
    let k := partyOf u tile slot
    let s1 := releaseBarrier (u.setThread tile slot { th with phase := .exited, wait := .nothing }) tile k
    let t := s1.tile tile
    s1.setTile tile { t with trun := if allExited t then 2 else t.trun })

/-! ### Fences (R149, R252) -/

/-- The thread's own earlier stores and atomics that a fence of a scope waits for: those to this part that are not
performed, those to host memory that are not issued, and for fabric scope those that have not left for another part. -/
def ownPosted (s : State) (tile slot sc : Nat) : List Nat :=
  (s.reqs.filter (fun r => r.issuer == .thread tile slot && r.launch == (s.tile tile).launch && !r.act.isRead &&
    (sc == 2 || destOf s r.addr ≥ 4096))).map (·.id)

/-- FENCE: tile scope at once; otherwise the thread waits for its own earlier requests. -/
def execFence (tile slot : Nat) (s : State) : Res :=
  issue 0x5A tile slot s (fun _ w u => sequential u tile slot w (fun th =>
    let sc := fnOf w % 4
    if sc = 0 then u.setThread tile slot th
    else u.setThread tile slot { th with
      phase := .waiting
      wait := .fence (BitVec.ofNat 2 sc) (ownPosted u tile slot sc) (if sc = 2 then th.sent else []) [] u.clk }))

/-- A thread's fence is covered. -/
def threadFenceDone (s : State) (rs : List Nat) (cv : List Cover) : Bool :=
  rs.all (fun i => (reqOf s i).isNone) && covered s cv

/-- FENCE_COMPLETE for a thread. -/
def threadFenceComplete (tile slot : Nat) (s : State) : Res :=
  onSlot tile slot <|
    let th := (s.tile tile).thread slot
    match th.wait with
    | .fence _ rs cv _ _ => ifDue (threadFenceDone s rs cv && (s.tile tile).trun == 1) s (s.setThread tile slot (wakeThread s th))
    | _ => .next s

/-- FENCE_TIMEOUT_EXPIRE for a thread (R254): the fault lists the devices that are silent. -/
def threadFenceTimeout (tile slot : Nat) (s : State) : Res :=
  onSlot tile slot <|
    let th := (s.tile tile).thread slot
    match th.wait with
    | .fence sc rs cv _ start =>
      ifDue (sc == 2 && !threadFenceDone s rs cv && s.passed start s.fab.fenceTo.toNat && (s.tile tile).trun == 1) s
        (tileRaise s tile 0x0403 0 slot th.ipc.toNat th.iw.toNat 2 (dataDevs (uncovered s cv)))
    | _ => .next s

/-! ### Time, draws and identity (R159) -/

/-- TIME: the time base in nanoseconds, or its 16-bit fraction. -/
def execTime (tile slot : Nat) (s : State) : Res :=
  issueReg 0x60 tile slot s (fun th w => th.setReg (rdOf w)
    (if fnOf w % 2 = 0 then BitVec.ofNat 64 s.ns else BitVec.ofNat 64 (s.time.now / 2 ^ 16 % 2 ^ 16)))

/-- A stream of a tile. -/
def Tile.stream (t : Tile) (n : Nat) : RandomStream := tget t.streams n {}

/-- Draw one word from a stream (R164). -/
def drawStream (t : Tile) (n : Nat) : W128 × Tile :=
  let x := t.stream n
  (streamWord x.key x.ctr, { t with streams := tset t.streams n { x with ctr := x.ctr + 1 } })

/-- RAND: rd takes the low half, then rb's register the high half. -/
def execRand (tile slot : Nat) (s : State) : Res :=
  issue 0x61 tile slot s (fun _ w u => sequential u tile slot w (fun th =>
    let d := drawStream (u.tile tile) (fnOf w % 256)
    let th1 := (th.setReg (rdOf w) (d.1.truncate 64)).setReg (rbOf w) ((d.1 >>> 64).truncate 64)
    (u.setTile tile d.2).setThread tile slot th1))

/-- The compute pace that a program reads, in 1/64 steps (R387). -/
def paceNow (s : State) : Nat := s.pwr.comp.toNat

/-- SREG. -/
def execSreg (tile slot : Nat) (s : State) : Res :=
  issueReg 0x62 tile slot s (fun th w =>
    let l := launchOn s tile
    let ps := match l with | some x => x.psize | none => 0
    th.setReg (rdOf w) (BitVec.ofNat 64 (match fnOf w % 16 with
      | 0 => slot
      | 1 => slot / max ps 1
      | 2 => slot % max ps 1
      | 3 => ps
      | 4 => (s.tile tile).logical
      | 5 => tile
      | 6 => if s.fab.devValid then s.fab.devNum.toNat else 0xFFF
      | 7 => (match l with | some x => x.ltAddr.toNat | none => 0)
      | _ => paceNow s)))

/-- The physical tile of a logical tile under the present map (R404). -/
def physOf (s : State) (t : Nat) : Nat := tget s.pwr.lmap t t

/-- The physical tile of a logical tile in a launch: the map it was accepted under when it is rotatable, else identity
(R404). -/
def Launch.phys (l : Launch) (t : Nat) : Nat := if l.rot then tget l.lmap t t else t

/-- TMAP: all ones for a tile outside the launch. -/
def execTmap (tile slot : Nat) (s : State) : Res :=
  issueReg 0x63 tile slot s (fun th w =>
    let lt := (th.reg (raOf w)).toNat % 2 ^ 11
    th.setReg (rdOf w) (match launchOn s tile with
      | some l => if l.tset.contains lt then BitVec.ofNat 64 (l.phys lt) else BitVec.allOnes 64
      | none => BitVec.allOnes 64))

/-! ### Fetch and reserved words -/

/-- ICACHE_FILL: a ready thread's fetch misses; its line comes from the image, as the launch's view shows it. A line whose
word fails its parity is fetched again (R434). With 256 lines held, a line that the manual leaves open is evicted (R138,
DESIGN CHOICE, log entry 4). -/
def execIcacheFill (tile slot : Nat) (s0 : State) : Res :=
  onSlot tile slot <|
    let t0 := s0.tile tile
    let th := t0.thread slot
    let bad := t0.trun == 1 && th.phase == .ready && (tget? t0.icache (th.pc.toNat / 256)).isSome && parityBad t0 th.pc.toNat
    let s := if bad then note (s0.setTile tile (dropLine t0 (th.pc.toNat / 256))) 0x0202 0 (unitTile tile) else s0
    let t := s.tile tile
    match launchOn s tile with
    | none => .next s
    | some l =>
      let n := th.pc.toNat / 256
      let a := l.img + BitVec.ofNat 64 (256 * n)
      let off := addrOff a
      if t.trun = 1 ∧ th.phase = .ready ∧ (tget? t.icache n).isNone = true then
        let code := if rangeOk 0 off 256 then refusal s (.thread tile slot) .read none 0 off 256 else 0x0105
        if code ≠ 0 then .next (tileRaise s tile code 0 slot th.pc.toNat 0 1 (dataAddr a))
        else if !unitReady s 0 off 256 then .next (wakeUnit s 0 off 256)
        else
          let r := memRead' s ((tileView s tile).map (localKey s)) 0 off 256 false
          match r.2.1 with
          | .markedBad => .next (engineRaise r.2.2 tile 0x0205 2 1 (dataAddr a))
          | .mismatch => .next (engineRaise r.2.2 tile 0x0205 1 1 (dataAddr a))
          | _ =>
            let u := r.2.2
            let t1 := u.tile tile
            if t1.icache.length < 256 then .next (u.setTile tile { t1 with icache := tset t1.icache n r.1 })
            else
              let d := u.draw
              let v := (t1.icache.getD (d.1.toNat % 256) (0, [])).1
              let t2 := dropLine t1 v
              .next (d.2.setTile tile { t2 with icache := tset t2.icache n r.1 })
      else .next s

/-- THREAD_RESERVED_OPCODE: a reserved encoding stops the tile, whatever its guard (R143). -/
def execThreadReservedOpcode (tile slot : Nat) (s : State) : Res :=
  onSlot tile slot <|
    match threadWord s tile slot with
    | none => .next s
    | some w => ifDue (!validWord w && picked s tile slot) s (threadFault (noteIssue s tile slot w) tile slot w 0x010B)

end Sys2Proof.Machine
end

