-- ==== Sys2Proof/Machine/TileMemory.lean ====
section
/-! DEFINITION. Events of the tile banks and the on-package networks (chapter 06): write-backs, retention and wakes,
clearing, delivery of mesh messages and beats of the die-to-die edges. -/

namespace Sys2Proof.Machine

/-- BANK_ECC_WRITEBACK: the corrected granule is stored with fresh ECC (R180). -/
def execBankEccWriteback (tile granule : Nat) (s : State) : Res :=
  onTile tile <|
    let t := s.tile tile
    ifDue (t.writeback.contains granule) s
      (s.setTile tile { t with writeback := t.writeback.filter (· != granule), marks := tdel t.marks granule })

/-- A launch runs on the tile. -/
def tileBusy (t : Tile) : Bool := t.launch.isSome

/-- BANK_RETENTION_ENTER: idle for 100 µs, no running launch, `RETEN` = 1 (R181). -/
def execBankRetentionEnter (tile bank : Nat) (s : State) : Res :=
  onTile tile <| onUnit 6 bank <|
    let t := s.tile tile
    let b := t.bank bank
    ifDue (!tileBusy t && s.pwr.reten && b.power == .on && s.passed b.access 100) s
      (s.setTile tile { t with banks := tset t.banks bank { b with power := .retention, since := s.clk } })

/-- The mark of a place after a flip; a second one makes it uncorrectable. -/
def worseMark (old : Option EccMark) (many : Bool) : EccMark := if many || old.isSome then .uncorrectable else .correctable

/-- A tile after a flip of its storage: a granule of the bank (R180), or another store (R434). -/
def markUpset (bank : Nat) (t : Tile) (u : TileUpset) : Tile :=
  match u with
  | .granule g many => if g / 2 ^ 17 = bank then { t with marks := tset t.marks g (worseMark (tget? t.marks g) many) } else t
  | .store p many =>
    { t with storeMarks := (p, worseMark ((t.storeMarks.find? (fun m => m.1 == p)).map (·.2)) many) :: t.storeMarks.filter (fun m => m.1 != p) }

/-- BANK_WAKE_COMPLETE: 2 µs after the wake began (R181); the command tells what storage of the tile has lost bits meanwhile
(DESIGN CHOICE, log entry 110). A wake is no access. -/
def execBankWakeComplete (tile bank : Nat) (s : State) (upsets : List TileUpset := []) : Res :=
  onTile tile <| onUnit 6 bank <|
    let t := s.tile tile
    let b := t.bank bank
    ifDue (b.power == .waking && s.passed b.since 2) s
      (s.setTile tile (upsets.foldl (markUpset bank) { t with banks := tset t.banks bank { b with power := .on } }))

/-- The tile-row domains, whose bits `PROWOFF` holds. -/
def rowDomains : List Nat := (List.range 108).filter (fun d => d % 9 != 8)

/-- Wake every bank that is in retention, as a request would (R181). -/
def wakeAllBanks (s : State) : State := { s with tiles := s.tiles.map (fun x => (x.1, x.2.wake s.clk 0 sramBytes)) }

/-- The level has not outrun the up-ramp, so a domain may switch on (R388, R403; DEDUCED, log entry 88). -/
def rampUpOk (s : State) : Bool := decide (s.pwr.level * 1000 ≤ s.pwr.upCeil)

/-- The level does not fall faster than the down-ramp, so a row may switch off (R403; DEDUCED, log entry 88). -/
def rampDownOk (s : State) : Bool := decide (s.pwr.level * 1000 ≥ s.pwr.downFloor)

/-- The twelve tiles of a tile-row domain 9d + r (R19, R20). -/
def rowTiles (domain : Nat) : List Nat := (List.range 12).map (fun c => domain / 9 * 96 + domain % 9 * 12 + c)

/-- The domain of a tile's row. -/
def rowDomain (tile : Nat) : Nat := tile / 96 * 9 + tile % 96 / 12

/-- Switch every bank of a tile on, cleared to zero with valid ECC, requests waiting for the clearing, which begins after the given
control cycles (R182). -/
def clearTile (delay : Nat) (s : State) (tile : Nat) : State :=
  let t := s.tile tile
  s.setTile tile { t with
    mem := [], marks := [], writeback := [], storeMarks := []
    banks := (List.range 6).map (fun b => (b, { power := .clearing, since := s.clk + delay, access := s.clk })) }

/-- A launch waits for a tile of the row: the launch is accepted, names the tile and has not started on it. -/
def rowWanted (s : State) (domain : Nat) : Bool :=
  s.cmd.launches.any (fun l => !l.finished && l.tset.any (fun t => rowDomain (l.phys t) == domain))

/-- Some tile of the row is usable: not OFF. -/
def rowUsable (s : State) (domain : Nat) : Bool := (rowTiles domain).any (fun t => (s.tile t).mode != 2)

/-- The row is held off by its bit of `PROWOFF` (R403). -/
def rowHeldOff (s : State) (domain : Nat) : Bool := bit s.pwr.rowOff.toNat domain

/-- TILE_ROW_POWER_ON: a row that is off switches on for a launch, or because its `PROWOFF` bit is 0 and a tile of it is
not OFF, when the ramp lets it; its banks start to clear after the 50 µs of the switching (R182, R403). -/
def execTileRowPowerOn (domain : Nat) (s : State) : Res :=
  onUnit 108 domain <|
    ifDue (domain % 9 != 8 && !s.pwr.domains.contains domain && s.pwr.domains.contains (domain / 9 * 9 + 8) &&
        s.pwr.phase != .off && s.pwr.phase != .tripped && rowUsable s domain && (rowWanted s domain || !rowHeldOff s domain) && rampUpOk s) s
      ((rowTiles domain).foldl (clearTile (50 * usec)) { s with pwr := { s.pwr with domains := insertNat domain s.pwr.domains } })

/-- BANK_CLEAR_COMPLETE: after 16,384 control cycles every bank of the row accepts requests (R182). -/
def execBankClearComplete (domain : Nat) (s : State) : Res :=
  onUnit 108 domain <|
    let due := domain % 9 != 8 && (rowTiles domain).any (fun t => (List.range 6).any (fun b =>
      ((s.tile t).bank b).power == .clearing && decide (s.clk ≥ ((s.tile t).bank b).since + 16384)))
    ifDue due s ((rowTiles domain).foldl (fun u t =>
      let x := u.tile t
      u.setTile t { x with banks := x.banks.map (fun b =>
        (b.1, if b.2.power = .clearing ∧ u.clk ≥ b.2.since + 16384 then { b.2 with power := .on, access := u.clk } else b.2)) }) s)

/-! ### Requests at a tile (R183) -/

/-- Perform a request at a tile's network port. -/
def performAtTile (s : State) (r : MemReq) : State :=
  let tile := addrTile r.addr
  let off := addrLocal r.addr
  let full := addrOff r.addr
  match r.act with
  | .read =>
    let m := memRead' s none 1 full r.len false
    setReqReply m.2.2 r.id (.data m.1 m.2.1)
  | .write b => dropReq (memWrite' s none 1 full b) r.id
  | .atomic op v c =>
    let m := memRead' s none 1 full 8 false
    let old := BitVec.ofNat 64 (leNat m.1)
    match atomicNew op.toNat old v c with
    | some new =>
      let t := m.2.2.tile tile
      setReqReply (m.2.2.setTile tile (t.store off (leBytes 8 new.toNat))) r.id (.data m.1 m.2.1)
    | none => m.2.2

/-! ### The edges (R187) -/

/-- The compute die whose record names an edge that is down: the lower-numbered end, or the compute die of an edge to
an end die (R496). Edges 0 to 9 are the row edges, 10 to 15 the column edges, 16 to 23 those of F0, F1, F2, F3, then
H–C0, H–C6, S–C5, S–C11. -/
def edgeDie (e : Nat) : Nat :=
  if e < 10 then e / 5 * 6 + e % 5 else if e < 16 then e - 10 else [0, 6, 5, 11, 0, 6, 5, 11].getD (e - 16) 0

/-- EDGE_BEAT_RECEIVE: a bad beat is resent and logged; sixteen failures in a row take the edge down (R187). -/
def execEdgeBeatReceive (edge : Nat) (good : Bool) (s : State) : Res :=
  onUnit 24 edge <|
    let e := tget s.edges edge {}
    if e.down then .next s
    else if good then .next { s with edges := tset s.edges edge { e with fails := 0 } }
    else
      let s1 := note { s with edges := tset s.edges edge { e with fails := e.fails + 1 } } 0x0202 0 (unitCompute (edgeDie edge))
      if e.fails + 1 ≥ 16 then
        .next (fatal { s1 with edges := tset s1.edges edge { fails := e.fails + 1, down := true } }
          { code := 0x0204, unit := unitCompute (edgeDie edge) })
      else .next s1

end Sys2Proof.Machine
end

