-- ==== Sys2Proof/Machine/Hbm.lean ====
section
/-! DEFINITION. Events of the HBM memory system (chapter 07): accesses at a controller, held partial writes, write-backs,
refresh, temperature, self-refresh, the region commit, retirement and row repair. -/

namespace Sys2Proof.Machine

/-! ### Set-up writes of a host port -/

/-- A register write that arrives through a host port: the port's link is up, and only the primary's writes are taken
(R361); another port's is refused with FLT_HANDOVER, detail 4. -/
def setupWrite (host : Nat) (s : State) (r : State) : Res :=
  onUnit 2 host <|
    if (s.hport host).up then
      (if host = b2n s.host.primary then .next r else .next (note s 0x0B01 4 unitHost))
    else .next s

/-- A write of a RING or IRQ register of a port: from that port or from the primary (R361, R474). -/
def portWrite (host own : Nat) (s : State) (r : State) : Res :=
  onUnit 2 host <|
    if (s.hport host).up then
      (if host = own ∨ host = b2n s.host.primary then .next r else .next (note s 0x0B01 4 unitHost))
    else .next s

/-! ### Accesses -/

/-- The kind of an action. -/
def accOf : MemAct → Acc
  | .read => .read
  | .write _ => .write
  | .atomic _ _ _ => .atomic

/-- Perform a request at its pseudo-channel, in the view of its issuer. -/
def performAtHbm (s : State) (r : MemReq) : State :=
  let key := r.view.map (localKey s)
  let off := addrOff r.addr
  match r.act with
  | .read =>
    let m := memRead' s key 0 off r.len false
    setReqReply m.2.2 r.id (.data m.1 m.2.1)
  | .write b => dropReq (memWrite' s key 0 off b) r.id
  | .atomic op v c =>
    let m := memRead' s key 0 off 8 false
    match atomicNew op.toNat (BitVec.ofNat 64 (leNat m.1)) v c with
    | some new => setReqReply (memWrite' m.2.2 key 0 off (leBytes 8 new.toNat)) r.id (.data m.1 m.2.1)
    | none => m.2.2

/-- Note the bits that have flipped in a granule of the part. -/
def applyUpset (s : State) (u : Upset) : State :=
  if u.granule < 768 * 2 ^ 23 ∧ u.symbol < 138 then
    let m := markOf s u.granule
    { s with hbm := { s.hbm with marks := tset s.hbm.marks u.granule { m with flips := m.flips ++ [(u.symbol, u.bits)] } } }
  else s

/-- One access: the checks of R497 in order, then the access; a stack that sleeps is woken, and an access to a stopped,
blocked or recommitting part waits (R197, R199, R203, R210, R403). -/
def hbmAccess (request : Nat) (s : State) : Res :=
  match reqOf s request with
  | none => .next s
  | some r =>
    let off := addrOff r.addr
    if !isOwn s r.addr || addrSpace r.addr != 0 || r.reply != .none || !firstInOrder s r || (r.act.isRead && !lineFree s r) then .next s
    else
      let code := refusal s r.issuer (accOf r.act) (r.view.map (localKey s)) 0 off r.len
      if code ≠ 0 then .next (raiseAt (dropReq s request) r.issuer code 0 r.addr)
      else if !unitReady s 0 off r.len then .next (wakeUnit s 0 off r.len)
      else .next (performAtHbm s r)

/-- HBM_ACCESS; the command tells which bits have flipped in the stacks meanwhile (DESIGN CHOICE, log entry 110). -/
def execHbmAccess (request : Nat) (s : State) (upsets : List Upset := []) : Res := hbmAccess request (upsets.foldl applyUpset s)

/-! ### Granules by place -/

/-- The HBM offset that the active table maps to a granule place, if any (the inverse of R194 and R195). -/
def logicalOf (s : State) (g : Nat) : Option Nat :=
  let pc := g / 2 ^ 23
  let loc := g % 2 ^ 23 * 256
  let die := pc / 64
  let frame := loc / 2 ^ 24
  let m := loc / 256 % 2 ^ 16
  (List.range 1536).findSome? fun r =>
    let e := activeRegion s r
    if e.frame.toNat ≠ frame then none
    else if e.mode = 0 then
      (if e.die.toNat = die then
        let low := (pc % 64) ^^^ (m % 64) ^^^ (m / 64 % 64) ^^^ (m / 4096 % 16)
        some (r * 2 ^ 30 + (m * 64 + low) * 256)
      else none)
    else if e.mode = 1 ∧ r % 12 = 0 then
      let sh := ((m % 256) ^^^ (m / 256)) * 3 % 768
      let gg := m * 768 + (pc + 768 - sh) % 768
      some ((r + gg / 2 ^ 22) * 2 ^ 30 + gg % 2 ^ 22 * 256)
    else none

/-- HBM_PARTIAL_WRITE_FLUSH: after 64 control cycles the held write merges with the old granule; an uncorrectable or bad
one leaves `CHKBAD` (R200, R205, R430). -/
def execHbmPartialWriteFlush (granule : Nat) (s : State) : Res :=
  match tget? s.hbm.held granule with
  | none => .next s
  | some h =>
    if s.clk < h.since + 64 ∨ placeReady s granule = false then .next s else
    let d := readPlace s ((logicalOf s granule).getD 0) granule
    let s1 := decodeEffects d.2.2.2 false [d.2.2.1]
    let bad := h.bad || d.2.1 != .good
    .next { s1 with hbm := { s1.hbm with
      held := tdel s1.hbm.held granule
      mem := memWrite zeroByte s1.hbm.mem (granule * 256) d.1
      writeback := s1.hbm.writeback.filter (· != granule)
      marks := if bad then tset s1.hbm.marks granule { chkBad := true } else tdel s1.hbm.marks granule } }

/-- HBM_CE_WRITEBACK (R205). -/
def execHbmCeWriteback (granule : Nat) (s : State) : Res :=
  ifDue (s.hbm.writeback.contains granule && placeReady s granule) s
    { s with hbm := { s.hbm with
      writeback := s.hbm.writeback.filter (· != granule)
      marks := if (markOf s granule).chkBad then tset s.hbm.marks granule { chkBad := true } else tdel s.hbm.marks granule } }

/-- HBM_REFRESH: 1, 2 or 4 slots in 32 at the stack's present rate (R201). -/
def execHbmRefresh (channel : Nat) (s : State) : Res :=
  onUnit 768 channel <|
    .next { s with hbm := { s.hbm with
      refreshed := tmod s.hbm.refreshed channel 0 (· + 2 ^ (s.stack (channel / 32)).refresh.toNat) } }

/-! ### Temperature (R202, R203) -/

/-- The refresh that a reading sets: up at once above a threshold, down only 3 °C below it. -/
def refreshFor (old : BitVec 2) (c : Nat) : BitVec 2 :=
  if c > 95 then 2
  else if c > 92 ∧ old = 2 then 2
  else if c > 85 then 1
  else if c > 82 ∧ old ≠ 0 then 1
  else 0

/-- HBM_STALL_TIMEOUT: a stop that lasts 1 s is FATAL. -/
def execHbmStallTimeout (stack : Nat) (s : State) : Res :=
  onUnit 24 stack <|
    ifDue ((s.stack stack).stop && s.passed (s.stack stack).stopAt 1000000 && !s.log.halted) s
      (fatal s { code := 0x0306, unit := unitStack stack })

/-! ### Self-refresh (R403) -/

/-- HBM_SELF_REFRESH_ENTER: no access for 1 ms with `HBMSR` = 1. -/
def execHbmSelfRefreshEnter (stack : Nat) (s : State) : Res :=
  onUnit 24 stack <|
    let k := s.stack stack
    ifDue (s.pwr.hbmSr && k.trained && !k.selfRef && s.passed k.access 1000) s
      (s.setStack stack { k with selfRef := true, waking := false })

/-- HBM_SELF_REFRESH_EXIT: at most 2 µs after the first access. -/
def execHbmSelfRefreshExit (stack : Nat) (s : State) : Res :=
  onUnit 24 stack <|
    let k := s.stack stack
    ifDue (k.selfRef && k.waking) s (s.setStack stack { k with selfRef := false, waking := false, access := s.clk })

/-! ### The region commit (R197) -/

/-- The shadow entry of a region. -/
def shadowRegion (s : State) (r : Nat) : Region := tget s.hbm.shadow r (resetRegion r)

/-- A launch is running or a pitch is open on either port. -/
def partBusy (s : State) : Bool :=
  s.cmd.launches.any (fun l => !l.finished) || s.cmd.rings.any (fun r => r.2.pitch.phase != .none)

/-- The die frame an entry names, or none when OFF. -/
def frameNamed (r : Nat) (e : Region) : Option (Nat × Nat) :=
  match e.mode.toNat with
  | 0 => some (e.die.toNat, e.frame.toNat)
  | 1 => some (r % 12, e.frame.toNat)
  | _ => none

/-- The first region that names a die frame an earlier one names. -/
def sharedFrame : List (Nat × Region) → List (Nat × Nat) → Option Nat
  | [], _ => none
  | (r, e) :: l, seen =>
    match frameNamed r e with
    | some f => if seen.contains f then some r else sharedFrame l (f :: seen)
    | none => sharedFrame l seen

/-- The first region of an incomplete or mixed SPREAD group. -/
def brokenGroup (s : State) : Option Nat :=
  (List.range 1536).find? fun r =>
    let e := shadowRegion s r
    e.mode == 1 && !(List.range 12).all (fun k =>
      let f := shadowRegion s (r / 12 * 12 + k)
      f.mode == 1 && f.frame == e.frame)

/-- The first region with a reserved value. -/
def reservedRegion (s : State) : Option Nat :=
  (List.range 1536).find? fun r =>
    let e := shadowRegion s r
    e.mode == 3 || decide (e.die.toNat > 11)

/-- Why a commit is refused, and the first region found failing; the order among several reasons is DEDUCED, log entry 19. -/
def commitWhy (s : State) : Option (Nat × Nat) :=
  if s.job.locked then some (5, 0)
  else
    match sharedFrame ((List.range 1536).map (fun r => (r, shadowRegion s r))) [] with
    | some r => some (1, r)
    | none =>
      match brokenGroup s with
      | some r => some (2, r)
      | none =>
        match reservedRegion s with
        | some r => some (4, r)
        | none => if partBusy s then some (3, 0) else none

/-- MRCOMMIT_GO: refuse, or begin the replacement of the active table. -/
def execMrcommitGo (host : Nat) (s : State) : Res :=
  setupWrite host s <|
    match commitWhy s with
    | some (why, first) =>
      note { s with hbm := { s.hbm with refused := true, refusedAt := some s.clk, why := BitVec.ofNat 3 why, first := BitVec.ofNat 11 first } }
        (if why = 5 then 0x0C01 else 0x0308) 0 unitHost
    | none => { s with hbm := { s.hbm with commit := some s.hbm.shadow, commitAt := s.clk } }

/-- MRCOMMIT_COMPLETE: the new table is active; contents do not move. -/
def execMrcommitComplete (s : State) : Res :=
  match s.hbm.commit with
  | some t => .next { s with hbm := { s.hbm with active := t, commit := none } }
  | none => .next s

/-! ### Retirement (R208, R209) -/

/-- MRET_WRITE: a reserved granule is refused; an entry put in force ends the once-only logging of its granules. -/
def execMretWrite (host index : Nat) (value : W32) (s : State) : Res :=
  setupWrite host s <|
    if index ≥ 4096 then s
    else if bits value.toNat 24 0 > 0x17FFFFF then note s 0x0308 0 unitHost
    else
      let gran := bits value.toNat 24 0
      { s with hbm := { s.hbm with
        retired := tset s.hbm.retired index (BitVec.ofNat 25 gran, bit value.toNat 31)
        logged := if bit value.toNat 31 then s.hbm.logged.filter (fun g => (logicalOf s g).map (· / 2 ^ 16) != some gran) else s.hbm.logged } }

end Sys2Proof.Machine
end

