-- ==== Sys2Proof/Machine/CopyEngine.lean ====
section
/-! DEFINITION. The copy engine of a tile (R160 to R163): CPY, CSIG, the landing of each destination line, completion
with its status record, and the fence timeout. -/

namespace Sys2Proof.Machine

/-! ### The instruction and its block -/

/-- Tile offset of the copy block. -/
def cblkOf (w : W128) : Nat := wbits w 42 25 * 64
/-- Tile offset of the status record. -/
def staddrOf (w : W128) : Nat := wbits w 125 108 * 64

/-- The reserved bits of a copy instruction are zero. -/
def copyWordOk (w : W128) : Bool := wbits w 14 8 == 0 && wbits w 107 43 == 0 && wbits w 127 126 == 0

/-- The copy block (R160). -/
def decodeBlock (b : Bytes) : CopyBlock :=
  { src := BitVec.ofNat 64 (field b 0 8), dst := BitVec.ofNat 64 (field b 8 8), len := BitVec.ofNat 32 (field b 16 4),
    rows := BitVec.ofNat 32 (field b 20 4), sstr := BitVec.ofNat 32 (field b 24 4), dstr := BitVec.ofNat 32 (field b 28 4),
    dctr := BitVec.ofNat 8 (field b 32 1), dcen := bit (field b 33 1) 0, fill := bit (field b 33 1) 1 }

/-- The reserved bits of a block are zero. -/
def blockOk (b : Bytes) : Bool := decide (field b 33 1 < 4) && allZero b 34 30

/-- The address of row k from a base and a stride. -/
def rowAddr (base : W64) (stride : W32) (k : Nat) : W64 := base + (stride.signExtend 64) * BitVec.ofNat 64 k

/-- The lowest and highest byte offsets over all rows. -/
def hullOf (base : W64) (stride : W32) (rows len : Nat) : Nat × Nat :=
  let a := (rowAddr base stride 0).toNat
  let z := (rowAddr base stride (rows - 1)).toNat
  (min a z, max a z + len - 1)

/-- Two addresses lie in one space of one part. -/
def sameSpace (s : State) (a b : W64) : Bool :=
  addrSpace a == addrSpace b && ((isOwn s a && isOwn s b) || (!isOwn s a && !isOwn s b && addrDev a == addrDev b))

/-- Two hulls of one space share a byte; the device bits do not count. -/
def hullsMeet (h g : Nat × Nat) : Bool := decide (h.1 % 2 ^ 48 ≤ g.2 % 2 ^ 48) && decide (g.1 % 2 ^ 48 ≤ h.2 % 2 ^ 48)

/-- The first byte of a run that R25 refuses; none when all are valid. -/
def firstBad (s : State) (a : W64) (n : Nat) : Option W64 :=
  if addrOk s a n then none
  else if !addrOk s a 1 then some a
  else some (match addrSpace a with
    | 0 => mkAddr (addrDev a) 0 hbmBytes
    | 1 => mkAddr (addrDev a) 1 (addrTile a * 2 ^ 24 + sramBytes)
    | sp => mkAddr (addrDev a) (sp + 1) 0)

/-- The first byte of row k that R25 refuses, the source before the destination. -/
def rowBad (s : State) (b : CopyBlock) (k : Nat) : Option W64 :=
  match (if b.fill then none else firstBad s (rowAddr b.src b.sstr k) b.len.toNat) with
  | some a => some a
  | none => firstBad s (rowAddr b.dst b.dstr k) b.len.toNat

/-- The address that a CSIG acts on: `OFFSET`[23:0] is ignored in tile SRAM (R161). -/
def sigAddr (b : CopyBlock) : W64 :=
  if addrSpace b.dst = 1 then mkAddr (addrDev b.dst) 1 (addrTile b.dst * 2 ^ 24) else b.dst

/-- The checks of R162 that follow the reading of the block, with the first failing byte where R25 refuses; 0 when all
pass. -/
def blockRefusal (s : State) (op : Nat) (b : CopyBlock) : Nat × W64 :=
  let n := b.len.toNat
  let rows := if b.len = 0 then 0 else b.rows.toNat
  if op = 0x81 then
    if !addrOk s (sigAddr b) 1 then (0x0105, b.dst) else if addrSpace b.dst = 1 then (0, 0) else (0x010C, 0)
  else match (List.range rows).findSome? (rowBad s b) with
    | some a => (0x0105, a)
    | none =>
      if b.dcen && addrSpace b.dst != 1 then (0x010C, 0)
      else if rows != 0 && !b.fill && sameSpace s b.src b.dst &&
          hullsMeet (hullOf b.src b.sstr rows n) (hullOf b.dst b.dstr rows n) then (0x010C, 0)
      else (0, 0)

/-- The destination lines of row k: aligned 128-byte addresses that the row touches. -/
def rowLines (b : CopyBlock) (k : Nat) : List (Nat × W64) :=
  let a := rowAddr b.dst b.dstr k
  (unitsOf 128 (a.toNat % 2 ^ 48) b.len.toNat).map (fun u => (k, mkAddr (addrDev a) (addrSpace a) (u * 128)))

/-- Keep the first entry of each line. -/
def firstTouches : List (Nat × W64) → List W64 → List (Nat × W64)
  | [], _ => []
  | e :: r, seen => if seen.contains e.2 then firstTouches r seen else e :: firstTouches r (e.2 :: seen)

/-- The destination lines of a copy in the order of issue: row by row, each line once, with the first row that touches it
(R160). -/
def copyLines (b : CopyBlock) : List (Nat × W64) := firstTouches ((List.range b.rows.toNat).flatMap (rowLines b)) []

/-! ### Status and completion -/

/-- The status record of R163. -/
def copyRecord (c : CopyRun) (fault cycles : Nat) : Bytes :=
  layout 32 [(0, 1, opOf c.word), (1, 1, b2n c.poison), (2, 2, fault), (4, 4, c.lines), (8, 8, c.bytes),
    (16, 8, if fault = 0 then 0 else c.faddr.toNat), (28, 4, cycles)]

/-- Write an engine's status record; a context area refuses it (R140). -/
def writeStatus (s : State) (tile at_ : Nat) (b : Bytes) : State :=
  if at_ + b.length > sramBytes then s
  else if touchesContext at_ b.length then engineRaise s tile 0x0105 0 1 (dataAddr (tileAddr tile at_))
  else s.setTile tile (((s.tile tile).touch s.clk at_ b.length).store at_ b)

/-- Completion of an engine instruction: the record when `STAT` = 1, then the counter when `CEN` = 1 (R101, R155). -/
def completeWord (s : State) (tile : Nat) (w : W128) (record_ : Bytes) : State :=
  let s1 := if statOf w then writeStatus s tile (staddrOf w) record_ else s
  if cenOf w then addCounter s1 tile (ctrOf w) 1 else s1

/-- A copy of the tile. -/
def copyOf (s : State) (tile id : Nat) : Option CopyRun := (s.tile tile).copies.find? (fun c => c.id == id)

/-- Replace a copy. -/
def setCopy (s : State) (tile : Nat) (c : CopyRun) : State :=
  s.setTile tile { s.tile tile with copies := (s.tile tile).copies.map fun x => if x.id == c.id then c else x }

/-- Forget a copy and the reads it still has outstanding. -/
def dropCopy (s : State) (tile id : Nat) : State :=
  let s1 := s.setTile tile { s.tile tile with copies := (s.tile tile).copies.filter (fun x => x.id != id) }
  { s1 with fab := { s1.fab with outstanding := s1.fab.outstanding.filter (fun o => o.use_ != .copyLine tile id) } }

/-- End a copy: its record and counter, and for a CONTAINED fault the stop of the tile. -/
def finishCopy (s : State) (tile : Nat) (c : CopyRun) (fault detail kind : Nat) (data : Bytes) (stalls : Nat := 0) : State :=
  let s1 := completeWord (dropCopy s tile c.id) tile c.word (copyRecord c fault ((s.clk - c.start + stalls) % 2 ^ 32))
  if classOf fault = 2 then engineRaise s1 tile fault detail kind data else s1

/-- Refuse a copy instruction at its start: it completes with its fault, and the tile stops (R101, R162, R171). -/
def refuseCopy (s : State) (tile : Nat) (w : W128) (fault : Nat) (a : W64 := 0) : State :=
  let c : CopyRun := { id := 0, word := w, block := ⟨0, 0, 0, 0, 0, 0, 0, false, false⟩, faddr := a, start := s.clk }
  engineRaise (completeWord s tile w (copyRecord c fault 0)) tile fault 0 1 (dataAddr a)

/-! ### Starting -/

/-- The head of the copy queue, on a tile that runs or drains. -/
def copyHead (s : State) (tile : Nat) : Option W128 :=
  let t := s.tile tile
  if (t.trun = 1 ∨ t.trun = 2) ∧ s.floored = false then t.cqueue.head? else none

/-- The next number of a copy on the tile. -/
def nextCopy (t : Tile) : Nat := t.copies.foldl (fun m c => max m (c.id + 1)) 0

/-- A run of bytes of a destination line that one row writes: the source address, the count, the offset in the line, and the
offset in the row. -/
structure LinePart where
  src : W64
  len : Nat
  at_ : Nat
  row : Nat
  deriving DecidableEq, Repr

/-- The part of a destination line that a row writes; its length is 0 where the row does not touch the line. -/
def linePart (b : CopyBlock) (row : Nat) (line : W64) : LinePart :=
  let d := rowAddr b.dst b.dstr row
  let lo := max d.toNat line.toNat
  let hi := min (d.toNat + b.len.toNat) (line.toNat + 128)
  ⟨rowAddr b.src b.sstr row + BitVec.ofNat 64 (lo - d.toNat), hi - lo, lo - line.toNat, lo - d.toNat⟩

/-- The parts of a destination line, row by row; a byte that several rows write ends with the last row's (DEDUCED, log entry 109). -/
def lineParts (b : CopyBlock) (e : Nat × W64) : List LinePart :=
  ((List.range (b.rows.toNat - e.1)).map (fun k => linePart b (e.1 + k) e.2)).filter (fun p => p.len != 0)

/-- The source lines that a part needs from another part. -/
def partLines (p : LinePart) : List W64 :=
  (unitsOf 128 (p.src.toNat % 2 ^ 48) p.len).map (fun u => mkAddr (addrDev p.src) (addrSpace p.src) (u * 128))

/-- The source lines that a destination line needs from another part. -/
def sourceLines (b : CopyBlock) (e : Nat × W64) : List W64 := (lineParts b e).flatMap partLines

/-- The copy's reads outstanding or answered, by line. -/
def copyAsked (s : State) (tile id : Nat) : List Outstanding :=
  s.fab.outstanding.filter (fun o => o.use_ == .copyLine tile id)

/-- Lines that the tile's copies have posted to other parts and that are not acknowledged. -/
def copyPosted (s : State) (tile : Nat) : Nat := posted s (fun k => k.tag == postedTag (.copy tile 0))

/-- How many lines of a copy, in the order of issue, may be outstanding: 256 on the tile, less those of the copies before it
and the posted ones (R163). -/
def lineWindow (s : State) (tile id : Nat) : Nat :=
  256 - copyPosted s tile - (((s.tile tile).copies.takeWhile (fun c => c.id != id)).map (fun c => c.todo.length)).sum

/-- The copy reads from another part. -/
def readsAway (s : State) (c : CopyRun) : Bool := !(c.block.fill || isOwn s c.block.src || decide (addrSpace c.block.src > 1))

/-- The reads that a copy from another part has still to issue. -/
def readsDue (s : State) (tile : Nat) (c : CopyRun) : List W64 :=
  if readsAway s c then
    ((c.todo.flatMap (sourceLines c.block)).eraseDups).filter (fun l => !(copyAsked s tile c.id).any (fun o => o.packet.addr == packetAddr l))
  else []

/-- Issue the reads that a copy from another part still needs, at most 256 outstanding on the tile and 4,096 in the
die's agent (R137, R163). A stopped tile issues none (R171). -/
def issueReads (s : State) (tile id : Nat) : State :=
  match copyOf s tile id with
  | none => s
  | some c =>
    if (s.tile tile).trun = 3 then s else
    let busy := (s.fab.outstanding.filter (fun o => o.reply == .none && (match o.use_ with | .copyLine t _ => t == tile | _ => false))).length
    ((readsDue s tile c).take (256 - copyPosted s tile - busy)).foldl (fun u l =>
      if !cacheReady u l then wakeCache u l
      else if agentRoom u tile then remoteRead u (tileRing u tile) (.copyLine tile id) l else u) s

/-- Every request of the copies under way has been issued, so that the next instruction may begin (R163). -/
def copiesIssued (s : State) (tile : Nat) : Bool :=
  decide (copyPosted s tile + ((s.tile tile).copies.map (fun c => c.todo.length)).sum < 256) &&
    (s.tile tile).copies.all (fun c => (readsDue s tile c).isEmpty)

/-- What both instructions check before they act: the bits, then the block's place and the record's (R162), with the first
failing byte of the tile. -/
def copyEarly (tile : Nat) (w : W128) : Nat × W64 :=
  if !copyWordOk w then (0x010C, 0)
  else if cblkOf w + 64 > sramBytes then (0x0105, tileAddr tile (max (cblkOf w) sramBytes))
  else if statOf w && decide (staddrOf w + 32 > sramBytes) then (0x0105, tileAddr tile (max (staddrOf w) sramBytes))
  else (0, 0)

/-- Start the head of the queue once its word is of the opcode. -/
def startCopy (op tile : Nat) (s : State) (body : W128 → CopyBlock → State → State) : Res :=
  onTile tile <|
    match copyHead s tile with
    | none => .next s
    | some w =>
      if opOf w ≠ op then .next s
      else if (op = 0x81 ∧ (s.tile tile).copies ≠ []) ∨ copiesIssued s tile = false then .next s
      else
        let s1 := s.setTile tile { s.tile tile with cqueue := (s.tile tile).cqueue.tail }
        let t := s1.tile tile
        if (copyEarly tile w).1 ≠ 0 then .next (refuseCopy s1 tile w (copyEarly tile w).1 (copyEarly tile w).2)
        else if bankBad t (cblkOf w) 64 then .next (bankChecks s1 tile (cblkOf w) 64)
        else
          let s2 := bankChecks (s1.setTile tile (t.touch s1.clk (cblkOf w) 64)) tile (cblkOf w) 64
          let raw := tileBytes t (cblkOf w) 64
          let b := decodeBlock raw
          if !blockOk raw then .next (refuseCopy s2 tile w 0x010C)
          else if (blockRefusal s2 op b).1 ≠ 0 then .next (refuseCopy s2 tile w (blockRefusal s2 op b).1 (blockRefusal s2 op b).2)
          else .next (body w b s2)

/-- CPY: the copy starts; its lines land one by one. -/
def execCpy (tile : Nat) (s : State) : Res :=
  startCopy 0x80 tile s (fun w b u =>
    let id := nextCopy (u.tile tile)
    let c : CopyRun := { id := id, word := w, block := b, todo := copyLines b, start := u.clk, lastSent := u.clk }
    issueReads (u.setTile tile { u.tile tile with copies := (u.tile tile).copies ++ [c] }) tile id)

/-- CSIG: once every earlier copy has completed, `LEN` is added to the counter; on another part by a SIGNAL. -/
def execCsig (tile : Nat) (s : State) : Res :=
  startCopy 0x81 tile s (fun w b u =>
    let c : CopyRun := { id := nextCopy (u.tile tile), word := w, block := b, start := u.clk, lastSent := u.clk }
    let put (v : State) (x : CopyRun) : State := v.setTile tile { v.tile tile with copies := (v.tile tile).copies ++ [x] }
    if b.len = 0 then put u c
    else if isOwn u b.dst then put (addCounter u (addrTile b.dst) b.dctr.toNat b.len) c
    else
      let u1 := sendSignal u (tileRing u tile) (mkAddr (addrDev b.dst) 1 (addrTile b.dst * 2 ^ 24)) b.dctr.toNat b.len.toNat
      put u1 { c with cover := [coverOf u1 (addrDev b.dst) 0] })

/-! ### Landing (R160, R163, R432) -/

/-- What a source yields: bytes with their check's state, a refusal, or nothing yet. -/
inductive Source where
  | wait
  | refused (code : Nat) (addr : W64)
  | data (bytes : Bytes) (state : LineState)
  deriving DecidableEq, Repr

/-- The bytes of one part of a destination line: the pattern, this part's memory in the launch's view, host memory (they come
with the command; a poisoned TLP enters marked bad and is logged), or the answered reads of another part (R160, R432). -/
def partSource (s : State) (tile : Nat) (c : CopyRun) (p : LinePart) (hostData : Bytes) (poisoned : Bool) : Source × State :=
  if c.block.fill then
    (.data ((List.range p.len).map (fun i => (leBytes 8 c.block.src.toNat).getD ((p.row + i) % 8) 0)) .good, s)
  else if addrSpace p.src = 3 ∨ addrSpace p.src = 4 then
    let s1 := s.emit (.hostRead (addrSpace p.src - 3) (mkAddr 0 0 (addrOff p.src)) p.len false)
    (.data (slice hostData 0 p.len) (if poisoned then .markedBad else .good), if poisoned then hostPoison s1 p.src else s1)
  else if isOwn s p.src then
    let sp := addrSpace p.src
    let code := refusal s (.copy tile c.id) .read none sp (addrOff p.src) p.len
    if code ≠ 0 then (.refused code p.src, s)
    else if !unitReady s sp (addrOff p.src) p.len then (.wait, wakeUnit s sp (addrOff p.src) p.len)
    else
      let m := memRead' s (if sp = 0 then (tileView s tile).map (localKey s) else none) sp (addrOff p.src) p.len false
      (.data m.1 m.2.1, m.2.2)
  else
    let got := (partLines p).map (fun l => (copyAsked s tile c.id).find? (fun o => o.packet.addr == packetAddr l && o.reply != .none))
    if got.any (·.isNone) then (.wait, s)
    else
      let rs := got.filterMap (fun o => o.map (·.reply))
      match rs.findSome? (fun r => match r with | .refused q => some q.toNat | _ => none) with
      | some code => (.refused code p.src, s)
      | none =>
        let b := rs.flatMap (fun r => match r with | .data x _ => x | _ => zeros 128)
        let st := rs.foldl (fun k r => match r with | .data _ q => worse k q | _ => k) LineState.good
        (.data (slice b (p.src.toNat % 128) p.len) st, s)

/-- What the sources of a line yield together: the bytes of each part, the worst state, and the first failing byte. -/
structure Gathered where
  parts : List (LinePart × Bytes) := []
  state : LineState := .good
  worst : W64 := 0

/-- The sources of a destination line, part by part; the bytes of a host come one part after the other. -/
def lineSource (tile : Nat) (c : CopyRun) (poisoned : Bool) : List LinePart → Bytes → Gathered → State → Source × Gathered × State
  | [], _, g, s => (.data [] g.state, g, s)
  | p :: r, h, g, s =>
    match partSource s tile c p h poisoned with
    | (.data b st, s1) =>
      lineSource tile c poisoned r (h.drop p.len)
        { parts := g.parts ++ [(p, b)], state := worse g.state st, worst := if st ≠ .good ∧ g.state = .good then p.src else g.worst } s1
    | (x, s1) => (x, g, s1)

/-- The mask of a line's bytes that parts write. -/
def lineMask (ps : List (LinePart × Bytes)) : Nat := ps.foldl (fun m p => m ||| ((2 ^ p.1.len - 1) * 2 ^ p.1.at_)) 0

/-- The line's bytes, the parts laid in row order over zeros. -/
def lineBytes (ps : List (LinePart × Bytes)) : Bytes := ps.foldl (fun l p => splice l p.1.at_ p.2) (zeros 128)

/-- The runs of bytes that a line's write covers: (offset, count). -/
def lineRuns (ps : List (LinePart × Bytes)) : List (Nat × Nat) := maskRuns 128 0 (lineMask ps)

/-- Write the runs of a line into this part's memory. -/
def putRuns (key : Option StageKey) (sp off : Nat) (line : Bytes) (bad : Bool) : List (Nat × Nat) → State → State
  | [], s => s
  | r :: rest, s => putRuns key sp off line bad rest (memWrite' s key sp (off + r.1) (slice line r.1 r.2) bad)

/-- Write a line's bytes where they go; the code and detail of a refusal come first. A bad line stops at the port of a
tile it would enter, goes to a host as a poisoned TLP, marks the granule or the packet it becomes part of; one that fails
its check moves no byte into HBM (R430, R432). -/
def lineSink (s : State) (tile : Nat) (c : CopyRun) (line : W64) (g : Gathered) : Option (Nat × Nat × State) :=
  let st := g.state
  let bad := st == .markedBad || st == .mismatch
  let runs := lineRuns g.parts
  let data := lineBytes g.parts
  if addrSpace line = 3 ∨ addrSpace line = 4 then
    let s1 := runs.foldl (fun u r => u.emit (.hostWrite (addrSpace line - 3) (mkAddr 0 0 (addrOff line + r.1)) (slice data r.1 r.2) (st != .good) true)) s
    some (if bad then (0x0205, 4, s1) else (0, 0, s1))
  else if isOwn s line then
    let sp := addrSpace line
    if sp = 1 ∧ bad = true then some (0x0205, if st = .markedBad then 2 else 1, s)
    else if st = .mismatch then some (0x0205, 3, s)
    else
      let key := if sp = 0 then (tileView s tile).map (localKey s) else none
      match runs.findSome? (fun r => match refusal s (.copy tile c.id) .write key sp (addrOff line + r.1) r.2 with | 0 => none | k => some k) with
      | some code => some (code, 0, s)
      | none =>
        if !runs.all (fun r => unitReady s sp (addrOff line + r.1) r.2) then none
        else
          let s1 := putRuns key sp (addrOff line) data bad runs s
          some (0, 0, if c.block.dcen then addCounter s1 (addrTile line) c.block.dctr.toNat 1 else s1)
  else
    let s1 := sendWrite s (.copy tile c.id) (tileRing s tile) line (lineMask g.parts) data (if bad then st else .good)
    some (0, 0, if c.block.dcen then sendSignal s1 (tileRing s tile) (mkAddr (addrDev line) 1 (addrTile line * 2 ^ 24)) c.block.dctr.toNat 1 else s1)

/-- Drop the answered reads that no line still to land needs. -/
def pruneReads (s : State) (tile : Nat) (c : CopyRun) : State :=
  let need := c.todo.flatMap (sourceLines c.block)
  { s with fab := { s.fab with outstanding := s.fab.outstanding.filter (fun o =>
    o.use_ != .copyLine tile c.id || need.any (fun l => o.packet.addr == packetAddr l)) } }

/-- The endpoints that a line travels between (R185). -/
def lineEnds (s : State) (c : CopyRun) (e : Nat × W64) : Nat × Nat :=
  (if c.block.fill then 2 ^ 21 else endpointOf s (linePart c.block e.1 e.2).src, endpointOf s e.2)

/-- No line issued before this one, between the same endpoints, is still to land (R185). -/
def lineFirst (s : State) (tile : Nat) (c : CopyRun) (line : Nat) (e : Nat × W64) : Bool :=
  ((s.tile tile).copies.takeWhile (fun d => d.id != c.id)).all (fun d => d.todo.all (fun f => lineEnds s d f != lineEnds s c e)) &&
    (c.todo.take line).all (fun f => lineEnds s c f != lineEnds s c e)

/-- A line has landed: what the copy has left to do, what it counts, and the stream it must see covered. -/
def landedCopy (s : State) (c : CopyRun) (line : Nat) (e : Nat × W64) (g : Gathered) : CopyRun :=
  let remote := !isOwn s e.2 && decide (addrSpace e.2 ≤ 1)
  { c with
    todo := c.todo.eraseIdx line
    lines := c.lines + 1
    bytes := c.bytes + (g.parts.map (fun p => p.1.len)).sum
    poison := c.poison || g.state == .poison
    faddr := if g.state = .poison ∧ c.poison = false then g.worst else c.faddr
    cover := if remote then addCover (coverOf s (addrDev e.2) 0) c.cover else c.cover
    lastSent := if remote then s.clk else c.lastSent }

/-- COPY_LINE_LAND: one destination line is written and, with `DCEN`, counted on the destination tile; toward another
part the count follows the line as a SIGNAL (DEDUCED, log entry 20). Only lines whose requests may be outstanding land. -/
def execCopyLineLand (tile copy line : Nat) (hostData : Bytes) (s : State) (poisoned : Bool := false) : Res :=
  onTile tile <|
    match copyOf s tile copy with
    | none => .next s
    | some c =>
      match c.todo[line]? with
      | none => .next s
      | some e =>
        if line ≥ lineWindow s tile copy ∨ lineFirst s tile c line e = false then .next s else
        match lineSource tile c poisoned (lineParts c.block e) hostData {} s with
        | (.wait, _, s1) => .next (issueReads s1 tile copy)
        | (.refused code a, _, s1) => .next (finishCopy s1 tile { c with faddr := a } code 0 1 (dataAddr a))
        | (.data _ _, g, s1) =>
          match lineSink s1 tile c e.2 g with
          | none => .next (wakeUnit s (addrSpace e.2) (addrOff e.2) 128)
          | some (code, detail, s2) =>
            let da := if code = 0x0205 then g.worst else e.2 + BitVec.ofNat 64 (((g.parts.head?).map (fun p => p.1.at_)).getD 0)
            if code ≠ 0 then .next (finishCopy s2 tile { c with faddr := da } code detail 1 (dataAddr da))
            else
              let c1 := landedCopy s2 c line e g
              .next (issueReads (pruneReads (setCopy s2 tile c1) tile c1) tile copy)

/-- COPY_COMPLETE: every line is written and, for another part, acknowledged; a copy that landed poison completes with
FLT_TARGET_DEAD. -/
def execCopyComplete (tile copy stalls : Nat) (s : State) : Res :=
  onTile tile <|
    match copyOf s tile copy with
    | none => .next s
    | some c =>
      ifDue (c.todo.isEmpty && covered s c.cover && !c.lost) s
        (finishCopy s tile c (if c.poison then 0x0401 else 0) 0 0 [] stalls)

/-- COPY_FENCE_TIMEOUT of a copy engine: unacknowledged for the fence timeout after its last line was sent. -/
def engineCopyTimeout (tile copy : Nat) (s : State) : Res :=
  onTile tile <|
    match copyOf s tile copy with
    | none => .next s
    | some c =>
      ifDue (c.todo.isEmpty && !covered s c.cover && s.passed c.lastSent s.fab.fenceTo.toNat) s
        (finishCopy s tile c 0x0403 0 2 (dataDevs (uncovered s c.cover)))

/-- COPY_RESERVED_OPCODE: refused before the block is read (R162). -/
def execCopyReservedOpcode (tile : Nat) (s : State) : Res :=
  onTile tile <|
    match copyHead s tile with
    | none => .next s
    | some w =>
      ifDue (opOf w != 0x80 && opOf w != 0x81) s
        (refuseCopy (s.setTile tile { s.tile tile with cqueue := (s.tile tile).cqueue.tail }) tile w 0x010C)

end Sys2Proof.Machine
end

