-- ==== Sys2Proof/Machine/Rings.lean ====
section
/-! DEFINITION. Descriptors (R325 to R337, R339): the order in which a ring pair starts them, the checks of R333 in
order, how they end, and their completion records; the polls and fetches; NOP, FENCE, WAIT, SIGNAL and TIMED. -/

namespace Sys2Proof.Machine

/-! ### The 64 bytes of a descriptor (R332) -/

/-- `OPC`. -/
def descOpc (d : Desc) : Nat := field d.raw 0 1
/-- `DFLAGS`. -/
def descFlags (d : Desc) : Nat := field d.raw 1 1
/-- `PITCH`. -/
def descPitch (d : Desc) : Nat := field d.raw 2 2
/-- `SEQ`. -/
def descSeq (d : Desc) : Nat := field d.raw 4 4
/-- An operand. -/
def opnd (d : Desc) (off k : Nat) : Nat := field d.raw off k
/-- An operand that is an address. -/
def opndAddr (d : Desc) (off : Nat) : W64 := BitVec.ofNat 64 (field d.raw off 8)

/-- The operation code within an opcode: LIST of LAUNCH, BOP, POP, JOP, SOP; 0 elsewhere. -/
def descOp (d : Desc) : Nat :=
  match descOpc d with
  | 0x01 => opnd d 16 1 % 2
  | 0x10 | 0x11 | 0x38 => opnd d 8 1 % 4
  | 0x18 | 0x19 | 0x1A => opnd d 8 1
  | _ => 0

/-- The opcodes of R335. -/
def opcodes : List Nat :=
  [0x00, 0x01, 0x02, 0x03, 0x04, 0x05, 0x06, 0x08, 0x09, 0x0A, 0x10, 0x11, 0x12, 0x18, 0x19, 0x1A, 0x20, 0x21, 0x22,
   0x28, 0x29, 0x2A, 0x30, 0x38]

/-- The operation codes that each opcode lists. -/
def opListed (opc op : Nat) : Bool :=
  match opc with
  | 0x10 => decide (op ≤ 2)
  | 0x11 | 0x38 | 0x19 | 0x1A => decide (op ≤ 1)
  | 0x18 => decide (op ≤ 3)
  | _ => true

/-- Standing of a descriptor inside a pitch (R335). -/
inductive Standing where
  | yes | deferred | no | ends
  deriving DecidableEq, Repr

/-- The last column of R335. -/
def standing (d : Desc) : Standing :=
  match descOpc d with
  | 0x05 => if opnd d 24 1 % 2 = 1 then .deferred else .yes
  | 0x09 | 0x0A => .ends
  | 0x10 => if descOp d = 1 then .yes else .no
  | 0x18 | 0x1A => .deferred
  | 0x08 | 0x11 | 0x19 | 0x28 | 0x29 | 0x2A | 0x30 | 0x38 => .no
  | _ => .yes

/-- Descriptors that behave as if `FB` = 1 (R334). -/
def actsFb (opc : Nat) : Bool := [0x03, 0x08, 0x09, 0x0A, 0x38, 0x30, 0x2A, 0x19].contains opc

/-- Descriptors that hold every later one until they complete (R334). -/
def holds (opc : Nat) : Bool := actsFb opc || opc == 0x04 || opc == 0x06

/-! ### Which descriptor starts (R334) -/

/-- The descriptor that the ring pair would start now; none in a FATAL halt (R438). -/
def nextDesc (s : State) (ring : Nat) : Option Desc :=
  let r := s.ring ring
  if r.phase ≠ .active ∨ r.pitch.phase = .stopping ∨ r.pitch.phase = .committing ∨ s.log.halted = true then none
  else
    match r.descs.find? (fun d => d.phase == .accepted) with
    | none => none
    | some d =>
      let earlier := r.descs.takeWhile (fun e => e.index != d.index)
      if earlier.any (fun e => e.phase != .done && holds (descOpc e)) then none
      else if (descFlags d % 2 == 1 || actsFb (descOpc d)) && earlier.any (fun e => e.phase != .done) then none
      else some d

/-! ### Changing descriptors -/

/-- Change a descriptor of a ring pair. -/
def modDesc (s : State) (ring index : Nat) (f : Desc → Desc) : State :=
  s.setRing ring { s.ring ring with descs := (s.ring ring).descs.map fun d => if d.index == index then f d else d }

/-- A descriptor of a ring pair by its count. -/
def descOf (s : State) (ring index : Nat) : Option Desc := (s.ring ring).descs.find? (fun d => d.index == index)

/-- A descriptor that is under way in a given manner. -/
def runningDesc (s : State) (ring : Nat) (p : DescRun → Bool) : Option Desc :=
  (s.ring ring).descs.find? (fun d => d.phase == .running && p d.run)

/-- A descriptor completes with its outcome. -/
def doneDesc (s : State) (ring : Nat) (d : Desc) (fault : Nat) (detail : Bytes) : State :=
  modDesc s ring d.index fun x =>
    { x with phase := .done, run := .none, fault := BitVec.ofNat 16 fault, detail := detail, timeNs := s.ns }

/-- A descriptor goes on under way. -/
def runDesc (s : State) (ring : Nat) (d : Desc) (run : DescRun) : State :=
  modDesc s ring d.index fun x => { x with phase := .running, run := run }

/-- `DETAIL` from (offset in the record, width, value) fields (R331). -/
def detailOf (fields : List (Nat × Nat × Nat)) : Bytes := layout 16 (fields.map fun f => (f.1 - 16, f.2.1, f.2.2))

/-- `DETAIL` that lists devices. -/
def detailDevs (ds : List Nat) (answer : Nat := 0) : Bytes :=
  detailOf [(16, 2, ds.length), (18, 12, packDevs ds), (30, 2, answer)]

/-- `DETAIL` of a descriptor that has not run: a LAUNCH names no faulting tile. -/
def detailNone (d : Desc) : Bytes := if descOpc d = 0x01 then detailOf [(16, 2, 0xFFFF)] else zeros 16

/-- A descriptor starts: inside a pitch it joins the belay log (R355). -/
def beginDesc (s : State) (ring : Nat) (d : Desc) : State :=
  let s1 := modDesc s ring d.index fun x => { x with phase := .running, run := .none, inPitch := x.inPitch || inPitch s ring }
  if inPitch s ring && !(s.ring ring).pitch.log.contains d.index then
    s1.setRing ring { s1.ring ring with pitch := { (s1.ring ring).pitch with log := (s1.ring ring).pitch.log ++ [d.index] } }
  else s1

/-- A fault of a ring pair's own work: its record, and the stop of its pitch when the class reaches it (R436). -/
def ringRaise (s : State) (ring code detail kind : Nat) (data : Bytes) : State :=
  memberFault s (some ring) { code := code, detail := detail, unit := unitHost, kind := kind, data := data, ended := true }

/-- A refused descriptor completes with its fault; inside a pitch the refusal ends the pitch without replay (R333,
R352). -/
def refuseDesc (s : State) (ring : Nat) (d : Desc) (code : Nat) (detail : Nat := 0) (bytes : Bytes := detailNone d) : State :=
  let f : Raise := { code := code, detail := detail, unit := unitHost, ended := true }
  let s1 := doneDesc (beginDesc (record s (withRing s (some ring) f)) ring d) ring d code bytes
  if inPitch s1 ring then pitchFault s1 ring f false else s1

/-- A descriptor meets a fault as it runs, and completes with it. -/
def failDesc (s : State) (ring : Nat) (d : Desc) (code detail kind : Nat) (data : Bytes) (bytes : Bytes := detailNone d) : State :=
  doneDesc (ringRaise s ring code detail kind data) ring d code bytes

/-! ### The checks of R333 -/

/-- The operand bytes that R335 names: first byte, count, and the bits of each that are used. -/
def namedBytes (opc : Nat) : List (Nat × Nat × Nat) :=
  match opc with
  | 0x01 => [(8, 8, 255), (16, 1, 1)]
  | 0x02 => [(8, 33, 255), (44, 4, 255)]
  | 0x03 => [(8, 1, 3)]
  | 0x04 => [(8, 8, 255), (16, 1, 3), (24, 12, 255)]
  | 0x05 => [(8, 9, 255), (20, 4, 255), (24, 1, 1)]
  | 0x06 => [(8, 8, 255), (16, 1, 1)]
  | 0x08 => [(8, 12, 255), (20, 1, 1), (24, 8, 255)]
  | 0x10 => [(8, 1, 3), (9, 1, 255), (12, 12, 255)]
  | 0x11 => [(8, 1, 3), (9, 1, 255), (16, 8, 255)]
  | 0x12 => [(16, 8, 255)]
  | 0x18 | 0x19 | 0x1A => [(8, 1, 255), (16, 8, 255)]
  | 0x20 => [(8, 14, 255)]
  | 0x21 | 0x22 => [(16, 8, 255)]
  | 0x28 => [(8, 2, 255), (10, 1, 15), (12, 4, 255), (16, 1, 3), (18, 1, 255), (19, 1, 15)]
  | 0x29 => [(8, 2, 255), (10, 1, 15), (12, 5, 255), (17, 1, 15)]
  | 0x2A => [(8, 3, 255), (12, 4, 255)]
  | 0x30 => [(8, 1, 255), (9, 1, 7), (10, 1, 0x83), (16, 32, 255), (48, 1, 15)]
  | 0x38 => [(8, 1, 3), (16, 8, 255)]
  | _ => []

/-- The bits of a byte that are used. -/
def usedBits (l : List (Nat × Nat × Nat)) (i : Nat) : Nat :=
  (l.find? (fun e => decide (e.1 ≤ i) && decide (i < e.1 + e.2.1))).elim 0 (fun e => e.2.2)

/-- Reserved bits and bytes of a descriptor are zero (R332, R335). -/
def reservedZero (d : Desc) : Bool :=
  decide (descFlags d < 4) &&
    (List.range 56).all fun i => opnd d (8 + i) 1 &&& (255 - usedBits (namedBytes (descOpc d)) (8 + i)) == 0

/-- The counter target of a signal: a tile's address with `OFFSET`[23:0] ignored. -/
def sigTarget (a : W64) : W64 := a &&& ~~~(0xFFFFFF#64)

/-- The source and destination of a COPY share a byte of one space of one part. -/
def copyOverlaps (s : State) (d : Desc) : Bool :=
  let n := opnd d 24 8
  let a := opndAddr d 8
  let b := opndAddr d 16
  decide (n > 0) && sameSpace s a b && hullsMeet (a.toNat, a.toNat + n - 1) (b.toNat, b.toNat + n - 1)

/-- The kind of address that a WAIT's condition needs (R337). -/
def waitKindOk (s : State) (d : Desc) : Bool :=
  let a := opndAddr d 8
  if opnd d 16 1 = 0 then addrSpace a == 8 && addrOff a / 2 ^ 44 == 0
  else decide (a.toNat % 8 = 0) && (addrSpace a == 0 || (isOwn s a && (addrSpace a == 3 || addrSpace a == 4)))

/-- Operand values within the ranges of R335 (step 2). The range of BOP is the bucket chapter's (DESIGN CHOICE, log entry 21). -/
def operandsOk (s : State) (d : Desc) : Bool :=
  match descOpc d with
  | 0x02 => decide (opnd d 24 8 ≤ 2 ^ 40) && addrSpace (opndAddr d 16) != 8 &&
      (opnd d 32 8 == 0 || addrSpace (opndAddr d 32) == 1) && !copyOverlaps s d
  | 0x03 => opnd d 8 1 == 1 || opnd d 8 1 == 2
  | 0x04 => waitKindOk s d
  | 0x05 => addrSpace (opndAddr d 8) == 1
  | 0x08 => addrSpace (opndAddr d 24) == 0 && isOwn s (opndAddr d 24) && opnd d 24 8 % 8 == 0 && !inPool s (addrOff (opndAddr d 24)) 8
  | 0x11 | 0x38 | 0x18 | 0x19 | 0x1A => opListed (descOpc d) (descOp d)
  | 0x2A => decide (opnd d 8 2 < 768) && decide (opnd d 10 1 < 64) && decide (opnd d 12 4 < 32768)
  | 0x30 => decide (opnd d 8 2 < 1152) && opnd d 10 1 % 4 != 3
  | _ => true

/-- The pitch rules of R340 (step 3). -/
def pitchRulesOk (s : State) (ring : Nat) (d : Desc) : Bool :=
  let p := (s.ring ring).pitch
  if descOpc d = 0x08 then p.phase == .none && descPitch d != 0 && descPitch d != p.previous.toNat
  else if p.phase = .none then descPitch d == 0 && standing d != .ends
  else descPitch d == p.id.toNat && standing d != .no

/-- The addresses a descriptor names, with the bytes it names there (step 4). -/
def namedAddrs (d : Desc) : List (W64 × Nat) :=
  match descOpc d with
  | 0x01 => [(opndAddr d 8, 1)]
  | 0x02 => (if opnd d 24 8 = 0 then [] else [(opndAddr d 8, opnd d 24 8), (opndAddr d 16, opnd d 24 8)]) ++
      (if opnd d 32 8 = 0 then [] else [(sigTarget (opndAddr d 32), 1)])
  | 0x04 => [(opndAddr d 8, if opnd d 16 1 = 0 then 4 else 8)]
  | 0x05 => [(sigTarget (opndAddr d 8), 1)]
  | 0x08 => [(opndAddr d 24, 8)]
  | 0x10 | 0x11 | 0x38 => if descOp d = 0 then [(opndAddr d 16, 1)] else []
  | 0x12 | 0x18 | 0x19 | 0x1A | 0x21 | 0x22 => [(opndAddr d 16, 1)]
  | _ => []

/-- R25 for an address of a descriptor, control space among them (R338). -/
def namedOk (s : State) (a : W64) (len : Nat) : Bool :=
  if addrSpace a = 8 then isOwn s a && controlOk (addrOff a) len else addrOk s a len

/-- The first of steps 1 to 4 of R333 that fails; 0 when all pass. -/
def checkDesc (s : State) (ring : Nat) (d : Desc) : Nat :=
  if !opcodes.contains (descOpc d) then 0x0601
  else if !reservedZero d || !operandsOk s d then 0x0605
  else if !pitchRulesOk s ring d then 0x0606
  else if !(namedAddrs d).all (fun a => namedOk s a.1 a.2) then 0x0105
  else 0

/-- Start the ring pair's next descriptor when it is of the form: the checks of R333, the belay log's limit (R355), the
deferral of R348, else the body. The body gets the state with the descriptor begun. -/
def startDesc (opc op ring : Nat) (s : State) (body : Desc → State → State) : Res :=
  onUnit 32 ring <|
    match nextDesc s ring with
    | none => .next s
    | some d =>
      if descOpc d ≠ opc ∨ descOp d ≠ op then .next s
      else if checkDesc s ring d ≠ 0 then .next (refuseDesc s ring d (checkDesc s ring d))
      else
        let logged := (s.ring ring).pitch.log
        if inPitch s ring ∧ logged.length ≥ 4096 ∧ logged.contains d.index = false then .next (refuseDesc s ring d 0x0607)
        else
          let u := beginDesc s ring d
          if inPitch s ring ∧ standing d = .deferred then
            let v := doneDesc u ring d 0 (zeros 16)
            .next (v.setRing ring { v.ring ring with deferred := (v.ring ring).deferred ++ [d] })
          else .next (body d u)

/-! ### Reading this part's HBM for a ring pair -/

/-- What reading a record or table finds. -/
inductive RingRead where
  | wait
  | bad (code detail : Nat) (after : State)
  | ok (bytes : Bytes) (after : State)

/-- Read HBM in the ring pair's view (R337, R341), with the checks of R497 and R432. -/
def ringRead (s : State) (ring off len : Nat) : RingRead :=
  let code := refusal s (.ring ring) .read none 0 off len
  if code ≠ 0 then .bad code 0 s
  else if !unitReady s 0 off len then .wait
  else
    let m := memRead' s ((ringView s ring).map (localKey s)) 0 off len false
    match m.2.1 with
    | .markedBad => .bad 0x0205 2 m.2.2
    | .mismatch => .bad 0x0205 1 m.2.2
    | _ => .ok m.1 m.2.2

/-- Read a record that a descriptor names, 256-byte aligned in this part's HBM (R333 step 5); `s` is the state before
the descriptor began. -/
def withRecord (s u : State) (ring : Nat) (d : Desc) (a : W64) (len align code : Nat) (go : Bytes → State → State) : State :=
  if !(isOwn s a && addrSpace a == 0 && decide (addrOff a % align = 0) && rangeOk 0 (addrOff a) len) then refuseDesc s ring d code
  else
    match ringRead u ring (addrOff a) len with
    | .wait => wakeUnit s 0 (addrOff a) len
    | .bad c det v => failDesc v ring d c det 1 (dataAddr a)
    | .ok b v => go b v

/-! ### Signals (R335) -/

/-- Apply a signal: at once here, by a SIGNAL packet toward another part. A count of zero moves nothing (R8). -/
def applySignal (s : State) (ring : Nat) (target : W64) (ctr count : Nat) : State × List Cover :=
  let a := sigTarget target
  if count = 0 then (s, [])
  else if isOwn s a then (addCounter s (addrTile a) ctr (BitVec.ofNat 32 count), [])
  else
    let s1 := sendSignal s (some ring) a ctr count
    (s1, [coverOf s1 (addrDev a) 0])

/-! ### Descriptors that end as their work ends -/

/-- `DETAIL` of a LAUNCH: first faulting tile, tiles started, launches ended. -/
def launchDetail (ls : List Launch) (list : Bool) : Bytes :=
  let first := (ls.find? (fun l => l.fault != 0)).elim 0xFFFF (fun l => l.faultTile.toNat)
  detailOf [(16, 2, first), (18, 2, (ls.map (fun l => l.started.length)).sum), (20, 2, if list then (ls.filter (·.finished)).length else 0)]

/-- A launch's faults in order: the first decides. -/
def launchFault (ls : List Launch) : Nat := (ls.find? (fun l => l.fault != 0)).elim 0 (fun l => l.fault.toNat)

/-- The launches of a list of numbers. -/
def launchesOf (s : State) (ids : List Nat) : List Launch := ids.filterMap (launchOf s)

/-- Complete a descriptor whose launches have ended or whose writes are acknowledged (R335). -/
def settleDesc (s : State) (ring : Nat) (d : Desc) : State :=
  match d.run with
  | .launch ids =>
    let ls := launchesOf s ids
    if ls.all (·.finished) then
      let s1 := doneDesc s ring d (launchFault ls) (launchDetail ls (descOp d == 1))
      { s1 with cmd := { s1.cmd with launches := s1.cmd.launches.filter (fun l => !ids.contains l.id) } }
    else s
  | .cover cv sig _ =>
    if !covered s cv then s
    else if sig then
      let a := applySignal s ring (opndAddr d 32) (opnd d 40 1) (opnd d 44 4)
      if a.2.isEmpty then doneDesc a.1 ring d d.fault.toNat d.detail
      else runDesc a.1 ring d (.cover a.2 false s.clk)
    else doneDesc s ring d d.fault.toNat d.detail
  | _ => s

/-- Complete what can complete on a ring pair. -/
def settleRing (s : State) (ring : Nat) : State :=
  ((s.ring ring).descs.filter (fun d => d.phase == .running)).foldl (fun u d => settleDesc u ring d) s

/-- Complete what can complete on every ring pair. -/
def settleAll (s : State) : State := s.cmd.rings.foldl (fun u r => settleRing u r.1) s

/-- COPY_FENCE_TIMEOUT of a descriptor: its remote writes or add are unacknowledged `FFENCETO` after the last was sent. -/
def ringCopyTimeout (ring : Nat) (s : State) : Res :=
  onUnit 32 ring <|
    match runningDesc s ring (fun r => match r with
        | .cover cv _ last => !covered s cv && s.passed last s.fab.fenceTo.toNat
        | _ => false) with
    | some d =>
      match d.run with
      | .cover cv _ _ => .next (failDesc s ring d 0x0403 0 2 (dataDevs (uncovered s cv)) (detailDevs (uncovered s cv)))
      | _ => .next s
    | none => .next s

/-- COPY_FENCE_TIMEOUT. -/
def execCopyFenceTimeout (who : Mover) (s : State) : Res :=
  match who with
  | .engine t c => engineCopyTimeout t c s
  | .ring r => ringCopyTimeout r s

/-! ### NOP and reserved opcodes -/

/-- The NOP descriptor completes at once. -/
def execDescriptorNop (ring : Nat) (s : State) : Res := startDesc 0x00 0 ring s (fun d u => doneDesc u ring d 0 (zeros 16))

/-- The code that refuses a reserved operation when steps 2 to 4 find nothing else: BOP 3 is the bucket chapter's
(R274, DESIGN CHOICE, log entry 21). -/
def reservedCode (s : State) (ring : Nat) (d : Desc) : Nat := if checkDesc s ring d = 0 then 0x0505 else checkDesc s ring d

/-- DESCRIPTOR_RESERVED_OPCODE. -/
def execDescriptorReservedOpcode (ring : Nat) (s : State) : Res :=
  onUnit 32 ring <|
    match nextDesc s ring with
    | none => .next s
    | some d =>
      ifDue (!opcodes.contains (descOpc d) || !opListed (descOpc d) (descOp d)) s (refuseDesc s ring d (reservedCode s ring d))

/-! ### FENCE (R336) -/

/-- FENCE: every earlier descriptor has completed and host writes are issued as they are made; fabric scope waits for
the ring pair's requests to be covered. -/
def execFenceDescriptor (ring : Nat) (s : State) : Res :=
  startDesc 0x03 0 ring s (fun d u =>
    let cv := (u.ring ring).sent
    if opnd d 8 1 = 1 ∨ covered u cv = true then doneDesc u ring d 0 (zeros 16)
    else runDesc u ring d (.fence u.clk cv))

/-- FENCE_COMPLETE for a FENCE descriptor. -/
def ringFenceComplete (ring : Nat) (s : State) : Res :=
  onUnit 32 ring <|
    match runningDesc s ring (fun r => match r with | .fence _ _ => true | _ => false) with
    | some d =>
      match d.run with
      | .fence _ cv => ifDue (covered s cv) s (doneDesc s ring d 0 (zeros 16))
      | _ => .next s
    | none => .next s

/-- FENCE_TIMEOUT_EXPIRE for a FENCE descriptor, and for step 2 of a BELAY, whose pitch it ends without replay (R348). -/
def ringFenceTimeout (ring : Nat) (s : State) : Res :=
  onUnit 32 ring <|
    match runningDesc s ring (fun r => match r with | .fence _ _ => true | .belay => true | _ => false) with
    | some d =>
      match d.run with
      | .fence start cv =>
        ifDue (!covered s cv && s.passed start s.fab.fenceTo.toNat) s
          (failDesc s ring d 0x0403 0 2 (dataDevs (uncovered s cv)) (detailDevs (uncovered s cv)))
      | .belay =>
        let p := (s.ring ring).pitch
        ifDue (p.phase == .preparing && p.covering && !covered s p.sent && s.passed p.since s.fab.fenceTo.toNat) s
          (ringRaise (modDesc s ring d.index (fun x => { x with detail := detailDevs (uncovered s p.sent) })) ring 0x0403 0 2
            (dataDevs (uncovered s p.sent)))
      | _ => .next s
    | none => .next s

/-- FENCE_COMPLETE. -/
def execFenceComplete (who : Fencer) (s : State) : Res :=
  match who with
  | .thread t k => threadFenceComplete t k s
  | .ring r => ringFenceComplete r s

/-- FENCE_TIMEOUT_EXPIRE. -/
def execFenceTimeoutExpire (who : Fencer) (s : State) : Res :=
  match who with
  | .thread t k => threadFenceTimeout t k s
  | .ring r => ringFenceTimeout r s

/-! ### WAIT (R337, R338) -/

/-- Tile and counter of a counter address in control space. -/
def controlCounter (a : W64) : Nat × Nat := (bits (addrOff a) 34 24, bits (addrOff a) 9 2)

/-- The condition of a WAIT on a word. -/
def waitHolds (d : Desc) (v : W64) : Bool :=
  let x := opndAddr d 24
  match opnd d 16 1 with
  | 1 => v == x
  | 2 => v != x
  | _ => decide (v.toNat ≥ x.toNat)

/-- The counter of a WAIT has reached its value, and the counter's value. -/
def waitCounter (s : State) (d : Desc) : Bool × W64 :=
  let c := controlCounter (opndAddr d 8)
  let v := s.counter c.1 c.2
  (reached v (BitVec.ofNat 32 (opnd d 24 8)), v.zeroExtend 64)

/-- `DETAIL` of a WAIT. -/
def waitDetail (v : W64) : Bytes := detailOf [(16, 8, v.toNat)]

/-- WAIT: the ring pair is held; a counter that has reached its value lets it go at once. -/
def execWait (ring : Nat) (s : State) : Res :=
  startDesc 0x04 0 ring s (fun d u =>
    if opnd d 16 1 = 0 then
      (if (waitCounter u d).1 then doneDesc u ring d 0 (waitDetail (waitCounter u d).2)
       else runDesc u ring d (.wait u.clk u.clk (waitCounter u d).2))
    else runDesc u ring d (.wait u.clk u.clk 0))

/-- A read toward another part that a COPY or a WAIT of the ring pair made. -/
def readOf (ring : Nat) (o : Outstanding) : Bool :=
  match o.use_ with
  | .copyRead r _ => r == ring
  | .waitRead r => r == ring
  | _ => false

/-- Nobody waits any more for the reads of a ring pair's descriptors. -/
def dropReads (s : State) (ring : Nat) : State :=
  { s with fab := { s.fab with outstanding := s.fab.outstanding.filter (fun o => !readOf ring o) } }

/-- Read a line of another part for a descriptor, through the windows of the cache (R244, R266). -/
def askLine (s : State) (ring : Nat) (u : TagUse) (line : W64) : State :=
  if cacheReady s line then remoteRead s (some ring) u line else wakeCache s line

/-- A WAIT tests the value it has read; the next read comes a `WATCH_PERIOD` later. -/
def testWord (s : State) (ring : Nat) (d : Desc) (start : Nat) (v : W64) : State :=
  if waitHolds d v then doneDesc s ring d 0 (waitDetail v)
  else runDesc s ring d (.wait start (s.clk + s.cmd.watch.toNat * usec) v)

/-- The word lies on another part: a READ, then its reply's bytes. A line marked bad, poison among it, ends the descriptor
(R432). -/
def waitRemote (s : State) (ring : Nat) (d : Desc) (start : Nat) (last : W64) : State :=
  let a := opndAddr d 8
  match s.fab.outstanding.find? (fun o => o.use_ == .waitRead ring) with
  | none => askLine s ring (.waitRead ring) (a &&& ~~~127#64)
  | some o =>
    let s1 := freeOutstanding s o.tag
    match o.reply with
    | .none => s
    | .refused code => failDesc s1 ring d code.toNat 0 1 (dataAddr a) (waitDetail last)
    | .data _ .markedBad => failDesc s1 ring d 0x0205 2 1 (dataAddr a) (waitDetail last)
    | .data _ .poison => failDesc s1 ring d 0x0205 2 1 (dataAddr a) (waitDetail last)
    | .data _ .mismatch => failDesc s1 ring d 0x0205 1 1 (dataAddr a) (waitDetail last)
    | .data b .good => testWord s1 ring d start (BitVec.ofNat 64 (field b (a.toNat % 128) 8))

/-- The word of a WAIT on this part, in the ring pair's view, or in a host's memory, whose bytes come with the command. -/
def waitWord (s : State) (ring : Nat) (a : W64) (outside : W64) : RingRead :=
  if addrSpace a = 3 ∨ addrSpace a = 4 then .ok (leBytes 8 outside.toNat) (s.emit (.hostRead (addrSpace a - 3) (mkAddr 0 0 (addrOff a)) 8 false))
  else ringRead s ring (addrOff a) 8

/-- WAIT_POLL: a counter is tested in every control cycle, a word once per `WATCH_PERIOD`. -/
def execWaitPoll (ring : Nat) (outsideWord : W64) (s : State) (poisoned : Bool := false) : Res :=
  onUnit 32 ring <|
    match runningDesc s ring (fun r => match r with | .wait _ _ _ => true | _ => false) with
    | none => .next s
    | some d =>
      match d.run with
      | .wait start nextPoll last =>
        let a := opndAddr d 8
        if opnd d 16 1 = 0 then
          ifDue (waitCounter s d).1 s (doneDesc s ring d 0 (waitDetail (waitCounter s d).2))
        else if s.clk < nextPoll then .next s
        else if isOwn s a = false ∧ addrSpace a = 0 then .next (waitRemote s ring d start last)
        else
          match waitWord s ring a outsideWord with
          | .wait => .next (wakeUnit s 0 (addrOff a) 8)
          | .bad c det u => .next (failDesc u ring d c det 1 (dataAddr a) (waitDetail last))
          | .ok b u =>
            if poisoned && decide (addrSpace a > 1) then
              .next (failDesc (hostPoison u a) ring d 0x0205 2 1 (dataAddr a) (waitDetail last))
            else .next (testWord u ring d start (BitVec.ofNat 64 (leNat b)))
      | _ => .next s

/-- WAIT_TIMEOUT: the descriptor completes with FLT_WAIT_TIMEOUT and the ring pair stops. -/
def execWaitTimeout (ring : Nat) (s : State) : Res :=
  onUnit 32 ring <|
    match runningDesc s ring (fun r => match r with | .wait _ _ _ => true | _ => false) with
    | none => .next s
    | some d =>
      match d.run with
      | .wait start _ last =>
        let v := if opnd d 16 1 = 0 then (waitCounter s d).2 else last
        ifDue (opnd d 32 4 != 0 && s.passed start (opnd d 32 4) && !(opnd d 16 1 == 0 && (waitCounter s d).1)) s
          (stopRing (doneDesc (dropReads s ring) ring d 0x060F (waitDetail v)) ring 0x060F 0)
      | _ => .next s

/-! ### SIGNAL (R335) -/

/-- Apply a SIGNAL descriptor. -/
def runSignal (s : State) (ring : Nat) (d : Desc) : State :=
  let a := applySignal s ring (opndAddr d 8) (opnd d 16 1) (opnd d 20 4)
  if a.2.isEmpty then doneDesc a.1 ring d 0 (zeros 16) else runDesc a.1 ring d (.cover a.2 false s.clk)

/-- SIGNAL. -/
def execSignal (ring : Nat) (s : State) : Res := startDesc 0x05 0 ring s (fun d u => runSignal u ring d)

/-! ### TIMED (R339) -/

/-- The time base is locked (R421). -/
def timeLocked (s : State) : Bool := s.time.phase == .locked || s.time.phase == .holdover

/-- Release a TIMED at or after its instant. -/
def releaseTimed (s : State) (ring : Nat) (d : Desc) : State :=
  if opnd d 16 1 = 1 ∧ timeLocked s = false then stopRing (doneDesc s ring d 0x0901 (zeros 16)) ring 0x0901 5
  else doneDesc s ring d 0 (detailOf [(16, 8, s.ns - opnd d 8 8)])

/-- TIMED: at once when `AT` has passed. -/
def execTimed (ring : Nat) (s : State) : Res :=
  startDesc 0x06 0 ring s (fun d u => if u.ns ≥ opnd d 8 8 then releaseTimed u ring d else runDesc u ring d .timed)

/-- TIMED_RELEASE. -/
def execTimedRelease (ring : Nat) (s : State) : Res :=
  onUnit 32 ring <|
    match runningDesc s ring (fun r => r == .timed) with
    | some d => ifDue (decide (s.ns ≥ opnd d 8 8)) s (releaseTimed s ring d)
    | none => .next s

/-! ### Polls, fetches and completion records -/

/-- Ring pairs of a port that are ACTIVE. -/
def activeRings (s : State) (host : Nat) : List Nat :=
  ((List.range 16).map (16 * host + ·)).filter (fun r => (s.ring r).phase == .active)

/-- DOORBELL_POLL: one 64-byte read of the block gives the tails; a tail more than the size ahead stops its ring pair
(R327). -/
def execDoorbellPoll (host : Nat) (block : Bytes) (s : State) : Res :=
  onUnit 2 host <|
    if activeRings s host = [] ∨ s.clk < tget s.cmd.polled host 0 ∨ s.log.halted = true then .next s
    else
      let s1 := { s with cmd := { s.cmd with polled := tset s.cmd.polled host (s.clk + s.cmd.watch.toNat * usec) } }
      let s2 := s1.emit (.hostRead host (tget s.cmd.doorbell host 0) 64 false)
      .next ((activeRings s host).foldl (fun u r =>
        let x := u.ring r
        let tail := BitVec.ofNat 32 (field block (4 * (r % 16)) 4)
        if (tail - x.head).toNat > x.size.toNat then stopRing u r 0x0602 3
        else u.setRing r { x with tail := tail }) s2)

/-- The shadow-head write of a ring pair. -/
def writeHead (s : State) (ring : Nat) : State :=
  s.emit (.hostWrite (ring / 16) (tget s.cmd.shadow (ring / 16) 0 + BitVec.ofNat 64 (4 * (ring % 16)))
    (leBytes 4 (s.ring ring).head.toNat) false false)

/-- Take fetched descriptors one by one (R328). -/
def acceptAll (ring : Nat) : List Bytes → State → State
  | [], s => s
  | raw :: rest, s =>
    let r := s.ring ring
    let seq := BitVec.ofNat 32 (field raw 4 4)
    if seq = r.next then
      acceptAll ring rest (s.setRing ring { r with
        next := r.next + 1, head := r.head + 1, descs := r.descs ++ [{ index := r.head.toNat, raw := raw }] })
    else if (r.next - seq).toNat ≤ 2 ^ 31 then
      acceptAll ring rest (record (s.setRing ring { r with head := r.head + 1, dup := satInc r.dup })
        (withRing s (some ring) { code := 0x0602, detail := 1, unit := unitHost }))
    else stopRing s ring 0x0602 2 6 (dataSeq r.next.toNat seq.toNat)

/-- Cut fetched bytes into descriptors. -/
def cutDescs : Nat → Bytes → List Bytes
  | 0, _ => []
  | n + 1, b => slice b 0 64 :: cutDescs n (b.drop 64)

/-- DESCRIPTOR_FETCH: up to 64 descriptors from the head onward, then the new head; the rest of a longer run waits for
the next poll. -/
def execDescriptorFetch (ring : Nat) (raw : Bytes) (s : State) : Res :=
  onUnit 32 ring <|
    let r := s.ring ring
    let n := min 64 (r.tail - r.head).toNat
    if r.phase ≠ .active ∨ n = 0 ∨ s.log.halted = true then .next s
    else
      let s1 := (List.range n).foldl (fun u k => u.emit (.hostRead (ring / 16)
        (r.sbase + BitVec.ofNat 64 (64 * ((r.head.toNat + k) % max r.size.toNat 1))) 64 false)) s
      let s2 := acceptAll ring (cutDescs n raw) s1
      let s3 := s2.setRing ring { s2.ring ring with tail := (s2.ring ring).head }
      .next (writeHead s3 ring)

/-- The 32 bytes of a completion record (R330). -/
def completionBytes (d : Desc) : Bytes :=
  layout 32 [(0, 4, descSeq d), (4, 2, d.fault.toNat), (6, 1, descOpc d),
    (7, 1, b2n d.inPitch + 2 * b2n d.replayed + 4 * b2n d.discarded), (8, 8, d.timeNs), (16, 16, leNat (slice d.detail 0 16))]

/-- The ring pair's vector: r mod 16 at reset (R476). -/
def ringVector (s : State) (ring : Nat) : Nat := ((s.ring ring).vec.map (·.toNat)).getD (ring % 16)

/-- COMPLETION_RECORD_WRITE: the oldest descriptor has completed, and its pitch has ended (R330, R356). -/
def execCompletionRecordWrite (ring : Nat) (s : State) : Res :=
  onUnit 32 ring <|
    let r := s.ring ring
    match r.descs with
    | [] => .next s
    | d :: rest =>
      if r.phase = .disabled ∨ d.phase ≠ .done ∨ (d.inPitch = true ∧ d.sealed = false) then .next s
      else
        let a := r.cbase + BitVec.ofNat 64 (32 * (d.index % max r.size.toNat 1))
        let s1 := (s.setRing ring { r with descs := rest }).emit (.hostWrite (ring / 16) a (completionBytes d) false false)
        .next (if bit (descFlags d) 1 then vectorEvent s1 (ring / 16) (ringVector s ring) else s1)

/-! ### RCTL (R329) -/

/-- Disable a ring pair: an open pitch ends as PITCH_ABORT ends it, one past its commit point completes; its launches
stop, and everything else it has accepted is dropped with no record. What a committed pitch has deferred still takes effect, under
numbers that no descriptor of the ring pair has. -/
def disableRing (s : State) (ring : Nat) : State :=
  let s1 := dropReads (stopMembers s ring) ring
  let r := s1.ring ring
  let past := r.pitch.phase == .committing
  let ph : PitchPhase := match r.pitch.phase with | .none => .none | .committing => .committing | _ => .stopping
  s1.setRing ring { r with
    phase := .disabled
    descs := []
    deferred := if past then r.deferred.map (fun d => { d with index := d.index + 2 ^ 40 }) else []
    pitch := { r.pitch with phase := ph, aborting := true } }

/-- Enable a ring pair: the head count starts at 0 and 0 goes to its shadow-head entry. -/
def enableRing (s : State) (ring : Nat) : State :=
  writeHead (s.setRing ring { s.ring ring with phase := .active, head := 0, tail := 0 }) ring

/-- A write of `RCTL`: the vector, then `EN`, then `RESTART`. Nothing makes a ring pair ACTIVE in a FATAL halt (R438). -/
def writeRctl (s : State) (ring : Nat) (v : W32) : State :=
  let s1 := s.setRing ring { s.ring ring with vec := some (BitVec.ofNat 8 (bits v.toNat 15 8)) }
  let s2 := if bit v.toNat 0 then (if (s1.ring ring).phase = .disabled ∧ s.log.halted = false then enableRing s1 ring else s1)
    else if (s1.ring ring).phase = .disabled then s1 else disableRing s1 ring
  if bit v.toNat 1 ∧ (s2.ring ring).phase = .stopped ∧ s.log.halted = false then s2.setRing ring { s2.ring ring with phase := .active } else s2

/-- RCTL_EN_WRITE. -/
def execRctlEnWrite (host ring : Nat) (value : W32) (s : State) : Res :=
  onUnit 32 ring <| portWrite host (ring / 16) s (writeRctl s ring (value &&& ~~~2#32))

/-- RCTL_RESTART: `EN` and the vector are written as they stand. -/
def execRctlRestart (host ring : Nat) (s : State) : Res :=
  onUnit 32 ring <| portWrite host (ring / 16) s
    (if (s.ring ring).phase = .stopped ∧ s.log.halted = false then s.setRing ring { s.ring ring with phase := .active } else s)

end Sys2Proof.Machine
end

