-- ==== Sys2Proof/Machine/Launches.lean ====
section
/-! DEFINITION. Launches (R166 to R171, R317, R396): the LAUNCH descriptor and its replay-list form, the start of a
launch on a tile, its end there, the watchdog, and the end of a launch that met a fault. -/

namespace Sys2Proof.Machine

/-! ### The launch table -/

/-- The launch that a table describes (R167), with a replay entry's replacements. -/
def launchFrom (s : State) (ring : Nat) (lt : W64) (b : Bytes) (args strm : Nat) (nowb : Bool) : Launch :=
  { id := s.cmd.nextLaunch, ring := ring, img := BitVec.ofNat 64 (field b 0 8), imgLen := BitVec.ofNat 32 (field b 8 4),
    entry := BitVec.ofNat 32 (field b 12 4), args := BitVec.ofNat 64 (if args = 0 then field b 16 8 else args),
    strm := BitVec.ofNat 64 (if strm = 0 then field b 24 8 else strm), nparty := field b 32 2, psize := field b 34 2,
    czero := bit (field b 36 1) 0, rot := bit (field b 36 1) 1, wdog := BitVec.ofNat 32 (field b 40 4), ltAddr := lt,
    tset := bitList (field b 48 144) 1152, nowb := nowb, atNs := s.ns
    lmap := if inPitch s ring then (s.ring ring).pitch.lmap else s.pwr.lmap }

/-- An aligned run of this part's HBM. -/
def hbmRun (s : State) (a : W64) (align len : Nat) : Bool :=
  isOwn s a && addrSpace a == 0 && decide (addrOff a % align = 0) && rangeOk 0 (addrOff a) len

/-- Physical tiles of a launch (R404). -/
def physTiles (l : Launch) : List Nat := l.tset.map l.phys

/-- The checks of R168 on a table; 0 when all pass. -/
def launchRefusal (s : State) (b : Bytes) (l : Launch) : Nat :=
  let hi := l.tset.foldl max 0
  if decide (field b 36 1 ≥ 4) || !allZero b 37 3 || !allZero b 44 4 || !allZero b 192 64 ||
      !hbmRun s l.img 256 l.imgLen.toNat || decide (l.imgLen.toNat % 4 ≠ 0) || decide (l.entry.toNat % 4 ≠ 0) ||
      decide (l.entry.toNat ≥ l.imgLen.toNat) || (l.strm != 0 && !hbmRun s l.strm 256 (8192 * (hi + 1))) ||
      decide (l.nparty > 128) || decide (l.psize > 256) || decide (l.nparty * l.psize > 2048) then 0x010D
  else if (physTiles l).any (fun t => (s.tile t).mode == 2) then 0x0103
  else 0

/-- A launch that moves nothing completes at once (R168, R8). -/
def emptyLaunch (l : Launch) : Bool := l.tset.isEmpty || l.nparty == 0 || l.psize == 0

/-- A launch that has not ended names the tile and has not ended there. -/
def holdsTile (l : Launch) (t : Nat) : Bool :=
  !l.finished && (physTiles l).contains t && !l.ended.contains t

/-- Every tile of the launch is free (R169, R334). -/
def tilesFree (s : State) (l : Launch) : Bool :=
  (physTiles l).all (fun t => !s.cmd.launches.any (fun m => holdsTile m t))

/-- The launch that holds a tile, or will take it next: the first that names it and has not ended there (R169). -/
def holderOf (s : State) (tile : Nat) : Option Launch := s.cmd.launches.find? (fun l => holdsTile l tile)

/-- Launches one of whose tiles has become free start now: their watchdogs run from here (R170). -/
def beginLaunches (s : State) : State :=
  { s with cmd := { s.cmd with launches := s.cmd.launches.map fun l =>
      if l.begunAt.isNone && !l.finished && (physTiles l).any (fun t => (holderOf s t).map (·.id) == some l.id) then
        { l with begunAt := some s.clk } else l } }

/-- Accept a launch; a rotatable one marks its tiles used (R405). -/
def acceptLaunch (s : State) (l : Launch) : State :=
  let l1 := if emptyLaunch l then { l with finished := true } else l
  beginLaunches { s with
    cmd := { s.cmd with launches := s.cmd.launches ++ [l1], nextLaunch := s.cmd.nextLaunch + 1 }
    pwr := { s.pwr with used := if l.rot then l.tset.foldl (fun u t => insertNat t u) s.pwr.used else s.pwr.used } }

/-- LAUNCH: the table is read and checked; the descriptor waits, not started, while a tile is busy. -/
def execLaunch (ring : Nat) (s : State) : Res :=
  startDesc 0x01 0 ring s (fun d u =>
    let a := opndAddr d 8
    withRecord s u ring d a 256 256 0x010D (fun b v =>
      let l := launchFrom v ring a b 0 0 false
      let code := launchRefusal v b l
      if code ≠ 0 then refuseDesc v ring d code
      else if !tilesFree v l then s
      else settleRing (runDesc (acceptLaunch v l) ring d (.launch [l.id])) ring))

/-! ### Replay lists (R317) -/

/-- An entry: table, `ARGS`, `STRM`, `NOWB`. -/
structure ListEntry where
  lt   : W64
  args : Nat
  strm : Nat
  nowb : Bool

/-- The entries after the header. -/
def listEntries (b : Bytes) : List ListEntry :=
  (List.range (field b 0 2)).map fun i =>
    let o := 32 + 32 * i
    { lt := BitVec.ofNat 64 (field b o 8), args := field b (o + 8) 8, strm := field b (o + 16) 8, nowb := bit (field b (o + 24) 1) 0 }

/-- The reserved bits of the entries are zero. -/
def listReservedOk (b : Bytes) : Bool :=
  (List.range (field b 0 2)).all fun i => decide (field b (32 + 32 * i + 24) 1 < 2) && allZero b (32 + 32 * i + 25) 7

/-- Start the entries in order as separate launches. An entry whose table cannot be read or breaks R168 is a launch that
ended with that fault (DEDUCED, log entry 22). -/
def startEntries (ring : Nat) : List ListEntry → State → State
  | [], s => s
  | e :: rest, s =>
    let bad (code detail : Nat) (v : State) : State :=
      let l := launchFrom v ring e.lt (zeros 256) 0 0 false
      acceptLaunch (ringRaise v ring code detail 1 (dataAddr e.lt))
        { l with fault := BitVec.ofNat 16 code, finished := true }
    startEntries ring rest (
      if !hbmRun s e.lt 256 256 then bad 0x010D 0 s
      else
        match ringRead s ring (addrOff e.lt) 256 with
        | .wait => bad 0x010D 0 s
        | .bad c det v => bad c det v
        | .ok b v =>
          let l := launchFrom v ring e.lt b e.args e.strm e.nowb
          let code := launchRefusal v b l
          if code ≠ 0 then bad code 0 v else acceptLaunch v l)

/-- The tables of a list lie where a read can reach them now. -/
def entriesReady (s : State) (es : List ListEntry) : Bool :=
  es.all (fun e => !hbmRun s e.lt 256 256 || unitReady s 0 (addrOff e.lt) 256)

/-- Wake the stacks that hold the tables. -/
def wakeEntries (s : State) (es : List ListEntry) : State :=
  es.foldl (fun u e => if hbmRun u e.lt 256 256 then wakeUnit u 0 (addrOff e.lt) 256 else u) s

/-- An entry is faulty: its table or its streams do not lie aligned in this part's HBM, or a reserved bit is set (R317). -/
def entryBad (s : State) (e : ListEntry) : Bool :=
  !hbmRun s e.lt 256 256 || (e.strm != 0 && !hbmRun s (BitVec.ofNat 64 e.strm) 256 1)

/-- The tiles that an entry's table names, whatever else is wrong with it. -/
def entryTiles (s : State) (ring : Nat) (e : ListEntry) : List Nat :=
  physTiles (launchFrom s ring e.lt (memRead' s ((ringView s ring).map (localKey s)) 0 (addrOff e.lt) 256 false).1 e.args e.strm e.nowb)

/-- No launch accepted before holds a tile of a list's entries (R334). -/
def listFree (s : State) (ring : Nat) (es : List ListEntry) : Bool :=
  es.all (fun e => (entryTiles s ring e).all (fun t => (holderOf s t).isNone))

/-- LAUNCH_REPLAY_LIST: the descriptor waits, not started, while an earlier launch holds a tile of it. -/
def execLaunchReplayList (ring : Nat) (s : State) : Res :=
  startDesc 0x01 1 ring s (fun d u =>
    let a := opndAddr d 8
    withRecord s u ring d a 32 256 0x0C02 (fun h v =>
      let n := field h 0 2
      if n > 256 ∨ allZero h 2 30 = false then refuseDesc v ring d 0x0C02
      else withRecord s v ring d a (32 + 32 * n) 256 0x0C02 (fun b w =>
        let es := listEntries b
        if !listReservedOk b || es.any (entryBad w) then refuseDesc w ring d 0x0C02
        else if !entriesReady w es then wakeEntries s es
        else if !listFree w ring es then s
        else
          let x := startEntries ring es w
          settleRing (runDesc x ring d (.launch ((List.range n).map (w.cmd.nextLaunch + ·)))) ring)))

/-! ### Start on a tile (R166, R169, R396) -/

/-- The launch that a tile would start next. -/
def launchWaiting (s : State) (tile : Nat) : Option Launch :=
  match holderOf s tile with
  | some l => if l.stopped || l.fault != 0 || l.started.contains tile then none else some l
  | none => none

/-- The stagger P + S of a tile, in nanoseconds (R396). -/
def stagger (s : State) (tile : Nat) : Nat :=
  let p := if s.fab.devValid then s.fab.devNum.toNat % max s.pwr.pmod.toNat 1 * s.pwr.pstep.toNat else 0
  let q := if s.pwr.tspan = 0 then 0 else tile % s.pwr.tspan.toNat
  (p + q) * 1000

/-- The logical tile that a launch runs on a physical one. -/
def logicalTile (l : Launch) (tile : Nat) : Nat := (l.tset.find? (fun t => l.phys t == tile)).getD tile

/-- The streams of a stream table's 8,192 bytes (R166). -/
def streamsFrom (b : Bytes) : Table RandomStream :=
  (List.range 256).map fun n =>
    (n, { key := BitVec.ofNat 128 (field b (32 * n) 16), ctr := BitVec.ofNat 64 (field b (32 * n + 16) 8),
          draws := BitVec.ofNat 32 (field b (32 * n + 24) 4) })

/-- A thread as R141 starts it. -/
def freshThread (l : Launch) (slot : Nat) : Thread :=
  { g := [(1, l.args), (14, BitVec.ofNat 64 (0x800000 + 1024 * (slot + 1)))], pc := l.entry, phase := .ready }

/-- The tile as R169 makes it at the start: streams loaded, vector registers zeroed, counters with `CZERO`, every thread
ready. -/
def startedTile (t : Tile) (l : Launch) (clk logical : Nat) (streams : Table RandomStream) : Tile :=
  { (if l.czero then t.zeroCounters clk else t) with
    streams := streams, vregs := []
    storeMarks := t.storeMarks.filter (fun m => match m.1 with
      | .accumulator _ _ => true
      | .counter _ => !l.czero
      | _ => false)
    threads := (List.range (l.nparty * l.psize)).map (fun k => (k, freshThread l k))
    barriers := [], icache := []
    launch := some l.id, logical := logical, trun := 1, parties := BitVec.ofNat 8 l.nparty, tfltCode := 0 }

/-- Byte offset of a tile's streams. -/
def streamOff (l : Launch) (logical : Nat) : Nat := addrOff l.strm + 8192 * logical

/-- Start a launch on a tile whose banks are on. -/
def startOnTile (s : State) (tile : Nat) (l : Launch) : State :=
  let k := logicalTile l tile
  let mark (u : State) : State := modLaunch u l.id (fun x => { x with started := insertNat tile x.started })
  if l.strm = 0 then
    mark (s.setTile tile (startedTile (s.tile tile) l s.clk k []))
  else
    let held := mark (s.setTile tile (startedTile (s.tile tile) l s.clk k []))
    let off := streamOff l k
    let code := refusal held (.thread tile 0) .read none 0 off 8192
    if code ≠ 0 then engineRaise held tile code 0 1 (dataAddr (mkAddr 0xFFF 0 off))
    else if !unitReady s 0 off 8192 then wakeUnit s 0 off 8192
    else
      let m := memRead' held ((ringView s l.ring).map (localKey s)) 0 off 8192 false
      match m.2.1 with
      | .markedBad => engineRaise m.2.2 tile 0x0205 2 1 (dataAddr (mkAddr 0xFFF 0 off))
      | .mismatch => engineRaise m.2.2 tile 0x0205 1 1 (dataAddr (mkAddr 0xFFF 0 off))
      | _ => m.2.2.setTile tile { m.2.2.tile tile with streams := streamsFrom m.1 }

/-- LAUNCH_TILE_START: the tile is free and powered, its stagger has passed on the time base (R424); banks in retention are woken first
(R181). -/
def execLaunchTileStart (tile : Nat) (s : State) : Res :=
  onTile tile <|
    let t := s.tile tile
    match launchWaiting s tile with
    | none => .next s
    | some l =>
      if t.launch.isSome ∨ s.pwr.domains.contains (rowDomain tile) = false ∨ s.ns < max l.atNs t.freeNs + stagger s tile then .next s
      else if !t.banksOn 0 sramBytes then .next (s.setTile tile (t.wake s.clk 0 sramBytes))
      else .next (startOnTile s tile l)

/-! ### End on a tile (R170) -/

/-- The engines are idle, the queues empty and every copy complete. -/
def tileQuiet (t : Tile) : Bool :=
  t.mqueue.isEmpty && t.vqueue.isEmpty && t.cqueue.isEmpty && t.mload.isNone && t.mruns.isEmpty && t.vrun.isNone && t.copies.isEmpty

/-- A row switches off when no launch runs on it while its `PROWOFF` bit is 1, and while every tile of it is OFF, once the ramp lets
it (R403): its banks lose their contents. -/
def rowRelease (s : State) (tile : Nat) : State :=
  let dm := rowDomain tile
  if ((rowHeldOff s dm && !rowWanted s dm) || !rowUsable s dm) && s.pwr.domains.contains dm && rampDownOk s then
    let s1 := (rowTiles dm).foldl (fun u t => u.setTile t { u.tile t with
      mem := [], marks := [], writeback := [], storeMarks := [], banks := [], acc0 := [], acc1 := [], vregs := []
      active := {}, shadow := {} }) s
    { s1 with pwr := { s1.pwr with domains := s1.pwr.domains.filter (· != dm) } }
  else s

/-- Every row that is due to switch off. -/
def releaseRows (s : State) : State := rowDomains.foldl (fun u d => rowRelease u (d / 9 * 96 + d % 9 * 12)) s

/-- Every row that a launch has left. -/
def rowsRelease (s : State) (l : Launch) : State := (physTiles l).foldl rowRelease s

/-- Release a tile: its slots become free. -/
def releaseTile (s : State) (tile : Nat) (state : BitVec 2) : State :=
  let t := s.tile tile
  let s1 := s.setTile tile { t with
    launch := none, trun := state, freeNs := s.ns, barriers := []
    threads := t.threads.map (fun x => (x.1, { x.2 with phase := .free, wait := .nothing })) }
  { s1 with fab := { s1.fab with outstanding := s1.fab.outstanding.filter (fun o =>
      match o.use_ with | .copyLine k _ => k != tile | _ => true) } }

/-- Note that a launch has ended on a tile, and that it has ended when every tile of `TSET` has. -/
def endOnTile (s : State) (l : Launch) (tile : Nat) : State :=
  let n := (physTiles l).length
  let s1 := modLaunch s l.id (fun x =>
    let e := insertNat tile x.ended
    { x with ended := e, finished := decide (e.length ≥ n) })
  rowsRelease (settleRing (beginLaunches s1) l.ring) l

/-- The counters written back to their entries (R166): 8 bytes for each stream, in the launch's view. -/
def writeStreams (s : State) (tile : Nat) (l : Launch) : State :=
  let key := (ringView s l.ring).map (localKey s)
  let t := s.tile tile
  (List.range 256).foldl (fun u n =>
    memWrite' u key 0 (streamOff l t.logical + 32 * n + 16) (leBytes 8 (t.stream n).ctr.toNat)) s

/-- LAUNCH_TILE_END. -/
def execLaunchTileEnd (tile : Nat) (s : State) : Res :=
  onTile tile <|
    let t := s.tile tile
    match launchOn s tile with
    | none => .next s
    | some l =>
      if t.trun ≠ 2 ∨ tileQuiet t = false ∨ l.fault ≠ 0 ∨ l.stopped = true then .next s
      else if l.nowb || l.strm == 0 then .next (endOnTile (releaseTile s tile 0) l tile)
      else
        let off := streamOff l t.logical
        let code := refusal s (.thread tile 0) .write ((ringView s l.ring).map (localKey s)) 0 off 8192
        if code ≠ 0 then .next (engineRaise s tile code 0 1 (dataAddr (mkAddr 0xFFF 0 off)))
        else if !unitReady s 0 off 8192 then .next (wakeUnit s 0 off 8192)
        else .next (endOnTile (releaseTile (writeStreams s tile l) tile 0) l tile)

/-! ### Watchdog and faults (R170, R171) -/

/-- LAUNCH_WATCHDOG_EXPIRE: each tile on which the launch still runs stops with FLT_LAUNCH_TIMEOUT; one record, of the
host die. -/
def execLaunchWatchdogExpire (launch : Nat) (s : State) : Res :=
  match launchOf s launch with
  | none => .next s
  | some l =>
    let live := runningTiles l
    let f : Raise := { code := 0x010E, unit := unitHost }
    let late := match l.begunAt with | some t => s.passed t l.wdog.toNat | none => false
    ifDue (l.wdog != 0 && !l.finished && l.fault == 0 && !l.stopped && late) s <|
      let s1 := record s (containedRaise s (some l.ring) f)
      let s2 := live.foldl (fun u t => stopTile u t 0x010E 0x7FF 0 0) s1
      let s3 := modLaunch s2 launch (fun x =>
        { x with fault := 0x010E, faultAt := s.clk, faultTile := match live with | [] => 0xFFFF | t :: r => BitVec.ofNat 16 (r.foldl min t) })
      contain s3 (some l.ring) f

/-- The outstanding requests of a tile have settled. -/
def settled (s : State) (tile : Nat) : Bool :=
  s.reqs.all (fun r => issuerTile r.issuer != some tile || r.reply != .none) &&
    s.fab.outstanding.all (fun o => o.reply != .none || (match o.use_ with | .copyLine k _ => k != tile | _ => true))

/-- Forget the answered requests of a tile. -/
def forgetReqs (s : State) (tile : Nat) : State :=
  (s.reqs.filter (fun r => issuerTile r.issuer == some tile)).foldl (fun u r => closeReq u r.id) s

/-- No instruction that left its queue is under way in the matrix array or the vector engine. -/
def enginesIdle (t : Tile) : Bool := t.mload.isNone && t.mruns.isEmpty && t.vrun.isNone

/-- Forget the copies of a tile that stopped: they end with the launch, without a record. -/
def forgetCopies (s : State) (tile : Nat) : State := s.setTile tile { s.tile tile with copies := [] }

/-- LAUNCH_FAULT_END: a launch that met a fault, or whose attempt or ring pair stopped, ends on every tile of `TSET`;
nothing is written back. A tile that recorded the fault keeps state 3 (R172). -/
def execLaunchFaultEnd (launch : Nat) (s : State) : Res :=
  match launchOf s launch with
  | none => .next s
  | some l =>
    let live := runningTiles l
    if l.finished || (l.fault == 0 && !l.stopped) then .next s
    else
      let s1 := live.foldl (fun u t => if (u.tile t).trun = 3 then u else quietStop u t) s
      if !live.all (fun t => settled s1 t && enginesIdle (s1.tile t)) then .next s1
      else
        let s2 := live.foldl (fun u t => releaseTile (forgetCopies (forgetReqs u t) t) t (if (u.tile t).tfltCode = 0 then 0 else 3)) s1
        let s3 := modLaunch s2 launch (fun x => { x with ended := x.started, finished := true })
        .next (rowsRelease (settleRing (beginLaunches s3) l.ring) l)

end Sys2Proof.Machine
end

