-- ==== Sys2Proof/Machine/Float.lean ====
section
/-! DEFINITION. Numbers of the floating-point formats (R31 to R35), rounding in every mode (R51), the operations of the
vector engine on exact values (R115, R116, R118, R119), each rounded once by its caller. -/

namespace Sys2Proof.Machine

/-! ### Exact values -/

/-- A value: a NaN and whether it signals; an infinity; or a magnitude `m * 2^e`, to which `more` adds something below
one unit `2^e`, as the functions of R116 need for their correct rounding. -/
inductive FpNum where
  | nan (signalling : Bool)
  | inf (neg : Bool)
  | fin (neg : Bool) (m : Nat) (e : Int) (more : Bool)
  deriving DecidableEq, Repr

/-- Zero with a sign. -/
def zeroNum (neg : Bool) : FpNum := .fin neg 0 0 false

/-- An integer times a power of two; zero is +0. -/
def intNum (i : Int) (e : Int) : FpNum := .fin (decide (i < 0)) i.natAbs e false

/-- NaN or infinite. -/
def FpNum.nonFinite : FpNum → Bool
  | .fin _ _ _ _ => false
  | _ => true

/-- A NaN. -/
def FpNum.isNan : FpNum → Bool
  | .nan _ => true
  | _ => false

/-- A signalling NaN. -/
def FpNum.signals : FpNum → Bool
  | .nan q => q
  | _ => false

/-- The sign bit. -/
def FpNum.sign : FpNum → Bool
  | .nan _ => false
  | .inf n => n
  | .fin n _ _ _ => n

/-- A zero. -/
def FpNum.isZero : FpNum → Bool
  | .fin _ m _ more => m == 0 && !more
  | _ => false

/-- The value with its sign changed. -/
def FpNum.negate : FpNum → FpNum
  | .nan q => .nan q
  | .inf n => .inf (!n)
  | .fin n m e r => .fin (!n) m e r

/-- The magnitude. -/
def FpNum.magnitude : FpNum → FpNum
  | .nan q => .nan q
  | .inf _ => .inf false
  | .fin _ m e r => .fin false m e r

/-- Times a power of two. -/
def FpNum.scaleBy (k : Int) : FpNum → FpNum
  | .fin n m e r => .fin n m (e + k) r
  | x => x

/-! ### Formats (R31, R32) -/

/-- Exponent and fraction bits; E4M3 alone has no infinity. -/
structure Fmt where
  ebits : Nat
  fbits : Nat
  e4m3  : Bool := false
  deriving DecidableEq, Repr

/-- The format of a code of R30; FP32 stands for the codes that name no floating-point format. -/
def fmtOf (code : Nat) : Fmt :=
  match code with
  | 1 => ⟨8, 7, false⟩
  | 2 => ⟨5, 10, false⟩
  | 3 => ⟨4, 3, true⟩
  | 4 => ⟨5, 2, false⟩
  | _ => ⟨8, 23, false⟩

/-- FP32. -/
def fp32 : Fmt := fmtOf 0
/-- BF16. -/
def bf16 : Fmt := fmtOf 1

/-- Bias. -/
def Fmt.bias (f : Fmt) : Nat := 2 ^ (f.ebits - 1) - 1
/-- Sign bit's weight. -/
def Fmt.signBit (f : Fmt) : Nat := 2 ^ (f.ebits + f.fbits)
/-- The code whose exponent field is all ones and whose fraction is zero. -/
def Fmt.topExp (f : Fmt) : Nat := (2 ^ f.ebits - 1) * 2 ^ f.fbits
/-- Largest finite code. -/
def Fmt.largest (f : Fmt) : Nat := if f.e4m3 then f.signBit - 2 else f.topExp - 1
/-- Canonical NaN. -/
def Fmt.canonical (f : Fmt) : Nat := if f.e4m3 then f.signBit - 1 else f.topExp + 2 ^ (f.fbits - 1)
/-- Exponent of the unit of subnormals. -/
def Fmt.unit (f : Fmt) : Int := 1 - (f.bias : Int) - f.fbits

/-- Read a code. -/
def decodeNum (f : Fmt) (c : Nat) : FpNum :=
  let neg := bit c (f.ebits + f.fbits)
  let a := c % f.signBit
  let ex := a / 2 ^ f.fbits
  let fr := a % 2 ^ f.fbits
  if (f.e4m3 && a == f.signBit - 1) || (!f.e4m3 && decide (a > f.topExp)) then .nan (!f.e4m3 && !bit fr (f.fbits - 1))
  else if !f.e4m3 && a == f.topExp then .inf neg
  else if ex = 0 then .fin neg fr f.unit false
  else .fin neg (2 ^ f.fbits + fr) (f.unit + (ex - 1 : Nat)) false

/-! ### Rounding (R11, R12, R34, R35, R51) -/

/-- A rounded result and what R119 notes about it. -/
structure Rounded where
  code      : Nat
  inexact   : Bool := false
  overflow  : Bool := false
  underflow : Bool := false
  sat       : Bool := false
  deriving DecidableEq, Repr

/-- Choose between a lower neighbour `k` and `k + 1`, where the value lies `rem / 2^shift` above `k` (and a little more
when `more`); `r` is the element's random byte. -/
def pickUp (rnd r k rem shift : Nat) (more : Bool) : Nat :=
  if rem = 0 ∧ more = false then k
  else
    match rnd with
    | 0 =>
      let half := 2 ^ shift / 2
      if rem > half ∨ (rem = half ∧ (more = true ∨ k % 2 = 1)) then k + 1 else k
    | 1 => k
    | 2 => if 256 * rem / 2 ^ shift + r ≥ 256 then k + 1 else k
    | _ => if k % 2 = 0 then k + 1 else k

/-- Bits of a number. -/
def bitLen (n : Nat) : Nat := if n = 0 then 0 else Nat.log2 n + 1

/-- The code of `k * 2^q`, a value on the format's grid. -/
def gridCode (f : Fmt) (k : Nat) (q : Int) : Nat :=
  let ex := (q - f.unit).toNat
  if k < 2 ^ f.fbits then k else k - 2 ^ f.fbits + (ex + 1) * 2 ^ f.fbits

/-- Round a value to a format: `satf` is the `SATF` of R12, which only FP8 has. -/
def roundNum (f : Fmt) (satf : Bool) (rnd r : Nat) (x : FpNum) : Rounded :=
  match x with
  | .nan _ => { code := f.canonical }
  | .inf n =>
    let s := if n then f.signBit else 0
    if !f.e4m3 then { code := f.topExp + s }
    else if satf then { code := s + f.largest, sat := true }
    else { code := f.canonical }
  | .fin n m e more =>
    let s := if n then f.signBit else 0
    let fp8 := f.ebits + f.fbits == 7
    let q : Int := max (e + bitLen m - 1 - f.fbits) f.unit
    let sh := (q - e).toNat
    let up := (e - q).toNat
    let k := pickUp rnd r (m * 2 ^ up / 2 ^ sh) (m * 2 ^ up % 2 ^ sh) sh more
    let inexact := decide (m * 2 ^ up % 2 ^ sh ≠ 0) || more
    let tiny := decide (e + (bitLen m : Int) ≤ f.unit + f.fbits)
    let c := gridCode f k q
    if c > f.largest then
      (if fp8 then
         (if satf then { code := s + f.largest, inexact := true, overflow := true, sat := true }
          else if f.e4m3 then { code := f.canonical, inexact := true, overflow := true }
          else { code := s + f.topExp, inexact := true, overflow := true })
       else if rnd = 0 ∨ rnd = 2 then { code := s + f.topExp, inexact := true, overflow := true }
       else { code := s + f.largest, inexact := true, overflow := true })
    else { code := s + c, inexact := inexact, underflow := inexact && tiny }

/-- Round to the nearest FP32 code. -/
def toFp32 (x : FpNum) : W32 := BitVec.ofNat 32 (roundNum fp32 false 0 0 x).code
/-- Read an FP32 word. -/
def ofFp32 (w : W32) : FpNum := decodeNum fp32 w.toNat

/-! ### Arithmetic on exact values; the flag is IEEE invalid (R119) -/

/-- a + b. -/
def addNum (a b : FpNum) : FpNum × Bool :=
  let sig := a.signals || b.signals
  match a, b with
  | .nan _, _ => (.nan false, sig)
  | _, .nan _ => (.nan false, sig)
  | .inf x, .inf y => if x = y then (.inf x, false) else (.nan false, true)
  | .inf x, _ => (.inf x, false)
  | _, .inf y => (.inf y, false)
  | .fin x m d _, .fin y n e _ =>
    let u := min d e
    let p : Int := (if x then -1 else 1) * (m * 2 ^ (d - u).toNat : Nat)
    let q : Int := (if y then -1 else 1) * (n * 2 ^ (e - u).toNat : Nat)
    if p + q = 0 then (zeroNum (x && y), false) else (intNum (p + q) u, false)

/-- a × b. -/
def mulNum (a b : FpNum) : FpNum × Bool :=
  let sig := a.signals || b.signals
  match a, b with
  | .nan _, _ => (.nan false, sig)
  | _, .nan _ => (.nan false, sig)
  | .inf x, c => if c.isZero then (.nan false, true) else (.inf (x != c.sign), false)
  | c, .inf y => if c.isZero then (.nan false, true) else (.inf (y != c.sign), false)
  | .fin x m d _, .fin y n e _ => (.fin (x != y) (m * n) (d + e) false, false)

/-- a × b + c, exact; a product 0 × Inf is invalid whatever the addend. -/
def fmaNum (a b c : FpNum) : FpNum × Bool :=
  let p := mulNum a b
  let t := addNum p.1 c
  (t.1, p.2 || t.2 || c.signals)

/-- a < b, for values that are not NaN; with `zeros`, −0 counts below +0. -/
def lessNum (zeros : Bool) (a b : FpNum) : Bool :=
  match a, b with
  | .nan _, _ => false
  | _, .nan _ => false
  | .inf x, .inf y => x && !y
  | .inf x, _ => x
  | _, .inf y => !y
  | .fin x m d _, .fin y n e _ =>
    let u := min d e
    let p : Int := (if x then -1 else 1) * (m * 2 ^ (d - u).toNat : Nat)
    let q : Int := (if y then -1 else 1) * (n * 2 ^ (e - u).toNat : Nat)
    decide (p < q) || (zeros && decide (p = q) && x && !y)

/-- The smaller, or the larger, of two values (R115). -/
def minNum (a b : FpNum) : FpNum × Bool :=
  if a.isNan || b.isNan then (.nan false, a.signals || b.signals) else (if lessNum true b a then b else a, false)
def maxNum (a b : FpNum) : FpNum × Bool :=
  if a.isNan || b.isNan then (.nan false, a.signals || b.signals) else (if lessNum true a b then b else a, false)

/-- The condition of R118. -/
def compareNum (cond : Nat) (a b : FpNum) : Bool :=
  let un := a.isNan || b.isNan
  let lt := lessNum false a b
  let gt := lessNum false b a
  match cond with
  | 0 => !un && !lt && !gt
  | 1 => un || lt || gt
  | 2 => lt
  | 3 => !un && !gt
  | 4 => gt
  | 5 => !un && !lt
  | _ => un

/-! ### The functions of R116 -/

/-- The integer square root by its bits, from bit `i` down. -/
def isqrt : (i : Nat) → (n root : Nat) → Nat
  | 0, n, r => if (r + 1) * (r + 1) ≤ n then r + 1 else r
  | i + 1, n, r =>
    let t := r + 2 ^ (i + 1)
    isqrt i n (if t * t ≤ n then t else r)

/-- A value, whether invalid, and whether division by zero. -/
abbrev FnResult := FpNum × Bool × Bool

/-- 1 / a. -/
def rcpNum : FpNum → FnResult
  | .nan q => (.nan false, q, false)
  | .inf n => (zeroNum n, false, false)
  | .fin n m e _ =>
    if m = 0 then (.inf n, false, true)
    else
      let k := bitLen m + 128
      (.fin n (2 ^ k / m) (-(k : Int) - e) (decide (2 ^ k % m ≠ 0)), false, false)

/-- 1 / √a. -/
def rsqNum : FpNum → FnResult
  | .nan q => (.nan false, q, false)
  | .inf n => if n then (.nan false, true, false) else (zeroNum false, false, false)
  | .fin n m e _ =>
    if m = 0 then (.inf n, false, true)
    else if n then (.nan false, true, false)
    else
      let odd := e % 2 ≠ 0
      let m' := if odd then 2 * m else m
      let e' := if odd then e - 1 else e
      let k := bitLen m' + 64
      let r := isqrt (k + 1) (2 ^ (2 * k) / m') 0
      (.fin false r (-(k : Int) - e' / 2) (decide (r * r * m' ≠ 2 ^ (2 * k))), false, false)

/-- ln 2 in units of 2^-256. -/
def ln2Fixed : Nat := 0xB17217F7D1CF79ABC9E3B39803F2F6AF40F343267298B62D8A0D175B8BAAFA2B

/-- Terms of the exponential of z, in units of 2^-256. -/
def expTerms : (n k : Nat) → (z term sum : Nat) → Nat
  | 0, _, _, _, sum => sum
  | n + 1, k, z, term, sum =>
    let t := term * z / 2 ^ 256 / k
    expTerms n (k + 1) z t (sum + t)

/-- 2^a. An integer is exact; any other argument of these formats gives an irrational power, which lies strictly between
two of the 257-bit numbers formed here. -/
def exp2Num : FpNum → FnResult
  | .nan q => (.nan false, q, false)
  | .inf n => (if n then zeroNum false else .inf false, false, false)
  | .fin n m e _ =>
    let big := m * 2 ^ (e + 256).toNat
    let x : Int := (if n then -1 else 1) * (big : Nat)
    let w := x / (2 ^ 256 : Nat)
    let fr := (x % (2 ^ 256 : Nat)).toNat
    if m ≠ 0 ∧ e + bitLen m > 12 then (.fin false 1 (if n then -4096 else 4096) true, false, false)
    else if fr = 0 then (.fin false 1 w false, false, false)
    else (.fin false (expTerms 64 1 (fr * ln2Fixed / 2 ^ 256) (2 ^ 256) (2 ^ 256)) (w - 256) true, false, false)

/-- Terms of the inverse hyperbolic tangent of w, in units of 2^-256; `p` is the odd power reached. -/
def atanhTerms : (n k : Nat) → (w p sum : Nat) → Nat
  | 0, _, _, _, sum => sum
  | n + 1, k, w, p, sum => atanhTerms n (k + 2) w (p * w / 2 ^ 256 * w / 2 ^ 256) (sum + p / k)

/-- log2 a. A power of two is exact; any other value has an irrational logarithm. -/
def log2Num : FpNum → FnResult
  | .nan q => (.nan false, q, false)
  | .inf n => if n then (.nan false, true, false) else (.inf false, false, false)
  | .fin n m e _ =>
    if m = 0 then (.inf true, false, true)
    else if n then (.nan false, true, false)
    else
      let top : Int := e + (bitLen m - 1 : Nat)
      if m = 2 ^ (bitLen m - 1) then (intNum top 0, false, false)
      else
        let y := m * 2 ^ 256 / 2 ^ (bitLen m - 1)
        let w := (y - 2 ^ 256) * 2 ^ 256 / (y + 2 ^ 256)
        let l := 2 * atanhTerms 90 1 w w 0 * 2 ^ 256 / ln2Fixed
        let v : Int := top * (2 ^ 256 : Nat) + (l : Nat)
        (.fin (decide (v < 0)) v.natAbs (-256) true, false, false)

end Sys2Proof.Machine
end

