-- ==== Sys2Proof/Machine/Packs.lean ====
section
/-! DEFINITION. Block-integer formats (R36 to R40), SG1 (R41), packs and their checks (R42 to R49), and how a producer
scales and rounds a block (R39, R51, R56). -/

namespace Sys2Proof.Machine

/-! ### Formats of R36 and R43 by their tag -/

/-- Bits of an element. -/
def tagBits (t : Nat) : Nat := match t with | 0x8 => 8 | 0xE => 8 | 0x9 => 4 | 0xA => 2 | 0xB => 2 | _ => 1
/-- `F`. -/
def tagShift (t : Nat) : Nat := match t with | 0x8 => 6 | 0x9 => 2 | 0xA => 1 | _ => 0
/-- The largest integer a producer emits. -/
def tagMax (t : Nat) : Nat := match t with | 0x8 => 127 | 0x9 => 7 | 0xA => 3 | _ => 1
/-- Blocks of a pack. -/
def tagBlocks (t : Nat) : Nat := match t with | 0xC => 49 | 0xB => 27 | 0xA => 27 | 0x9 => 14 | _ => 7
/-- Elements of a block. -/
def tagPer (t : Nat) : Nat := if t = 0xD then 256 else 32
/-- Elements of a pack. -/
def tagCap (t : Nat) : Nat := tagBlocks t * tagPer t
/-- Bytes of a block's scale. -/
def tagScale (t : Nat) : Nat := if t = 0xD then 2 else 1
/-- First byte of the payload area. -/
def tagPay (t : Nat) : Nat := 8 + tagBlocks t * tagScale t
/-- Payload bytes of a block. -/
def tagBytes (t : Nat) : Nat := tagPer t * tagBits t / 8

/-- A code of R30 that is not reserved. -/
def formatKnown (c : Nat) : Bool := decide (c ≤ 4) || (decide (8 ≤ c) && decide (c ≤ 14))

/-- The integer of an element code (R36, R56). -/
def codeInt (t c : Nat) : Int :=
  match t with
  | 0x8 => signed 8 c
  | 0x9 => signed 4 c
  | 0xA => 2 * (c : Int) - 3
  | 0xB => if c = 1 then 1 else if c = 3 then -1 else 0
  | 0xC => 2 * (c : Int) - 1
  | _ => c

/-- The code of an integer. -/
def intCode (t : Nat) (q : Int) : Nat :=
  match t with
  | 0xA => ((q + 3) / 2).toNat
  | 0xC => ((q + 1) / 2).toNat
  | _ => wrap (tagBits t) q

/-- The fraction shift at a number of passes. -/
def passShift (t pass : Nat) : Nat := if t = 0x8 then 8 * pass - 2 else tagShift t
/-- The largest integer produced at a number of passes. -/
def passMax (t pass : Nat) : Nat := if t = 0x8 then 2 ^ (8 * pass - 1) - 1 else tagMax t

/-- The value of an integer under a block scale (R36, R37, R56); zero reads as +0. -/
def scaledNum (t pass scale : Nat) (q : Int) : FpNum :=
  if scale = 0 then zeroNum false
  else if scale = 0xFF then .nan false
  else intNum q ((scale : Int) - 127 - passShift t pass)

/-! ### Producing a block (R39, R51) -/

/-- A block as produced: its scale, its integers, and how many were clamped. -/
structure BlockOut where
  scale : Nat
  q     : List Int
  sat   : Nat := 0
  deriving DecidableEq, Repr

/-- The magnitude `m * 2^e` does not exceed `n * 2^f`. -/
def magLe (m : Nat) (e : Int) (n : Nat) (f : Int) : Bool :=
  let u := min e f
  decide (m * 2 ^ (e - u).toNat ≤ n * 2 ^ (f - u).toNat)

/-- Mantissa and exponent of a finite value. -/
def FpNum.parts : FpNum → Nat × Int
  | .fin _ m e _ => (m, e)
  | _ => (0, 0)

/-- The value of largest magnitude. -/
def largestOf (xs : List FpNum) : Nat × Int :=
  xs.foldl (fun a x => if magLe x.parts.1 x.parts.2 a.1 a.2 then a else x.parts) (0, 0)

/-- The scale of a block whose largest magnitude is not zero: the smallest code that holds it, else 254. -/
def scaleFor (t pass : Nat) (a : Nat × Int) : Nat :=
  let f : Int := 127 + passShift t pass
  ((List.range 254).find? (fun k => magLe a.1 a.2 (passMax t pass) ((k + 1 : Nat) - f))).elim 254 (· + 1)

/-- Round onto the integers. -/
def roundInt (rnd r m : Nat) (k : Int) : Nat :=
  pickUp rnd r (m * 2 ^ k.toNat / 2 ^ (-k).toNat) (m * 2 ^ k.toNat % 2 ^ (-k).toNat) (-k).toNat false

/-- Round onto the odd integers: the two neighbours across zero have one magnitude, and the lower is the one with the
sign of the value. -/
def roundOdd (rnd r m : Nat) (k : Int) : Int :=
  let n := m * 2 ^ k.toNat
  let d := 2 ^ (-k).toNat
  if n = d then 1
  else if n < d then (if rnd = 2 ∧ 256 * (d - n) / (2 * d) + r ≥ 256 then -1 else 1)
  else if n ≥ 3 * d then 3
  else match rnd with
    | 0 => if n ≤ 2 * d then 1 else 3
    | 2 => if 256 * (n - d) / (2 * d) + r ≥ 256 then 3 else 1
    | _ => 1

/-- Round one element at a scale; one beyond the largest integer is clamped (R13). -/
def quantElem (t pass scale rnd r : Nat) (x : FpNum) : Int × Bool :=
  let m := x.parts.1
  let k := x.parts.2 - ((scale : Int) - 127 - passShift t pass)
  let sg : Int := if x.sign then -1 else 1
  let top := passMax t pass
  if !magLe m k top 0 then (sg * (top : Nat), true)
  else if t = 0xA ∨ t = 0xC then (sg * roundOdd rnd r m k, false)
  else (sg * (roundInt rnd r m k : Nat), false)

/-- Produce a block from exact values, one random byte an element. -/
def quantBlock (t pass rnd : Nat) (xs : List FpNum) (rs : List Nat) : BlockOut :=
  if xs.any (·.nonFinite) then ⟨0xFF, xs.map (fun _ => 0), 0⟩
  else if xs.all (·.isZero) then ⟨0, xs.map (fun _ => 0), 0⟩
  else
    let e := scaleFor t pass (largestOf xs)
    let qs := xs.zipIdx.map (fun p => quantElem t pass e rnd (rs.getD p.2 0) p.1)
    if qs.all (fun q => q.1 == 0) then ⟨0, xs.map (fun _ => 0), 0⟩
    else ⟨e, qs.map (·.1), (qs.filter (·.2)).length⟩

/-- Slice j of an integer at `pass` slices (R56): a byte. -/
def sliceOf (pass j : Nat) (q : Int) : Nat := wrap (8 * pass) q / 2 ^ (8 * (pass - 1 - j)) % 256

/-- The integer of slices, slice 0 first. -/
def joinSlices (pass : Nat) (s : List Nat) : Int := signed (8 * pass) (s.foldl (fun n b => n * 256 + b) 0)

/-! ### Packs (R43 to R48) -/

/-- A decoded pack. Scales are those of R43 (of SG1, the magnitudes); padding reads as zero. -/
structure Pack where
  tag    : Nat
  count  : Nat
  scales : List Nat
  codes  : List Nat
  sat    : Bool := false
  rsmask : Nat := 0
  deriving DecidableEq, Repr

/-- `CHECK` of a pack (R46). -/
def packCrc (b : Bytes) : Nat := crc16 (slice b 0 6 ++ [0, 0] ++ slice b 8 248)

/-- A scale that marks a block non-finite (R37, R41). -/
def scaleBad (t s : Nat) : Bool := if t = 0xD then decide (s < 0x8000) && decide (s ≥ 0x7F80) else s == 0xFF

/-- The scales of a pack's bytes. -/
def packScales (t : Nat) (b : Bytes) : List Nat :=
  (List.range (tagBlocks t)).map (fun k => field b (8 + k * tagScale t) (tagScale t))

/-- Blocks that hold a valid element. -/
def liveBlocks (t count : Nat) : Nat := (count + tagPer t - 1) / tagPer t

/-- The codes of a block. -/
def blockCodes (t : Nat) (b : Bytes) (k : Nat) : List Nat :=
  let n := field b (tagPay t + k * tagBytes t) (tagBytes t)
  (List.range (tagPer t)).map (fun j => n / 2 ^ (tagBits t * j) % 2 ^ tagBits t)

/-- The first header byte that R45 refuses. The block count that bounds `RSMASK` is that of the blocks within `COUNT`
(DEDUCED, log entry 95). -/
def headerBad (t : Nat) (b : Bytes) : Option Nat :=
  let count := field b 1 2
  let flags := field b 3 1
  let rs := field b 4 1
  let nf := ((packScales t b).take (liveBlocks t count)).any (scaleBad t)
  if field b 0 1 ≠ t then some 0
  else if count > tagCap t then some 1
  else if bit flags 0 ≠ nf ∨ bit flags 2 ≠ decide (rs % 128 ≠ 0) ∨ flags / 8 ≠ 0 then some 3
  else if (t ≠ 0x8 ∧ rs ≠ 0) ∨ rs / 2 ^ liveBlocks t count ≠ 0 then some 4
  else if field b 5 1 ≠ 0 then some 5
  else none

/-- The first encoding in a block that R38 or R41 refuses, as its byte. -/
def encodingBad (t count : Nat) (b : Bytes) (k : Nat) : Option Nat :=
  let s := (packScales t b).getD k 0
  if t = 0xD then (if s ≥ 0x8000 then some (8 + 2 * k + 1) else none)
  else if t = 0xB ∧ s ≠ 0 ∧ s ≠ 0xFF then
    ((blockCodes t b k).zipIdx.find? (fun c => decide (k * 32 + c.2 < count) && c.1 == 2)).map
      (fun c => tagPay t + k * tagBytes t + c.2 * 2 / 8)
  else none

/-- Decode a pack of a tag (R47): else the fault and the failing byte. -/
def decodePack (t : Nat) (b : Bytes) : Except (Nat × Nat) Pack :=
  if packCrc b ≠ field b 6 2 then .error (0x0106, 6)
  else
    match headerBad t b with
    | some o => .error (0x0107, o)
    | none =>
      let count := field b 1 2
      let live := liveBlocks t count
      match (List.range live).findSome? (encodingBad t count b) with
      | some o => .error (0x0107, o)
      | none => .ok {
          tag := t, count := count
          scales := (packScales t b).zipIdx.map (fun s => if s.2 < live then s.1 else 0)
          codes := ((List.range live).flatMap (blockCodes t b)).take count
          sat := bit (field b 3 1) 1
          rsmask := field b 4 1 % 128 }

/-- The bytes of a block's payload. -/
def blockBytes (t : Nat) (codes : List Nat) : Bytes :=
  leBytes (tagBytes t) ((codes.zipIdx.map (fun c => c.1 % 2 ^ tagBits t * 2 ^ (tagBits t * c.2))).sum)

/-- Element codes of a produced block: written as zero where the scale marks the block zero or non-finite (R14, R37). -/
def producedCodes (t : Nat) (b : BlockOut) : List Nat :=
  if b.scale = 0 ∨ b.scale = 0xFF then b.q.map (fun _ => 0) else b.q.map (intCode t)

/-- Lay out a pack (R43 to R48). -/
def encodePack (p : Pack) : Bytes :=
  let t := p.tag
  let live := liveBlocks t p.count
  let ss := (List.range (tagBlocks t)).map (fun k => if k < live then p.scales.getD k 0 else 0)
  let nf := ss.any (scaleBad t)
  let body := ss.zipIdx.flatMap (fun s =>
    blockBytes t (((p.codes.take p.count).drop (s.2 * tagPer t)).take (tagPer t)))
  let head : Bytes := leBytes 1 t ++ leBytes 2 p.count ++
    leBytes 1 (b2n nf + 2 * b2n p.sat + 4 * b2n (decide (p.rsmask ≠ 0))) ++ leBytes 1 p.rsmask ++ [0, 0, 0]
  let raw := slice (head ++ ss.flatMap (leBytes (tagScale t)) ++ body) 0 256
  splice raw 6 (leBytes 2 (packCrc raw))

/-- The value of a pack's element; padding is +0. -/
def packNum (p : Pack) (k : Nat) : FpNum :=
  if k ≥ p.count then zeroNum false
  else
    let s := p.scales.getD (k / tagPer p.tag) 0
    let c := p.codes.getD k 0
    if p.tag = 0xD then
      (if s = 0 then zeroNum false
       else if scaleBad 0xD s then .nan false
       else if c = 1 then (decodeNum bf16 s).negate else decodeNum bf16 s)
    else scaledNum p.tag 1 s (codeInt p.tag c)

/-- Packs of a tensor of n elements (R49). -/
def tensorPacks (t n : Nat) : Nat := (n + tagCap t - 1) / tagCap t

/-- `COUNT` of pack k of a tensor of n elements. -/
def tensorCount (t n k : Nat) : Nat := min (tagCap t) (n - k * tagCap t)

/-! ### Random bytes (R53) -/

/-- The random bytes of n elements from drawn words. -/
def randomBytes (ws : List W128) (n : Nat) : List Nat :=
  (ws.flatMap (fun w => (List.range 16).map (fun j => w.toNat / 2 ^ (8 * j) % 256))).take n

end Sys2Proof.Machine
end

