-- ==== Sys2Proof/Machine/Matrix.lean ====
section
/-! DEFINITION. The matrix array of a tile (chapter 03): modes and width, loading and swapping weights, the streamed
operand, the forward and transposed products with their foot, check slots, and the status record. -/

namespace Sys2Proof.Machine

/-! ### Modes and width (R65) -/

/-- Physical columns marked bad. -/
def badCount (m : BitVec 260) : Nat := ((List.range 260).filter (fun i => bit m.toNat i)).length

/-- `W` of a mode and a map. -/
def widthFor (mode : BitVec 2) (m : BitVec 260) : Nat :=
  match mode.toNat with
  | 0 => min 256 ((260 - badCount m) / 8 * 8)
  | 1 => 256
  | _ => 0

/-- The logical width of a tile. -/
def tileWidth (t : Tile) : Nat := widthFor t.mode t.badMap

/-! ### Fields of the instructions (R101 to R104) -/

/-- `TAG` of MLOAD. -/
def mTag (w : W128) : Nat := wbits w 11 8
/-- `SQ`. -/
def mSq (w : W128) : Bool := bit w.toNat 12
/-- `COLS`. -/
def mCols (w : W128) : Nat := wbits w 33 25
/-- First pack. -/
def mPaddr (w : W128) : Nat := wbits w 49 34 * 256
/-- Packs of the stationary tensor. -/
def mPacks (w : W128) : Nat := tensorPacks (mTag w) (512 * mCols w)

/-- `DIR`: transposed. -/
def rDir (w : W128) : Bool := bit w.toNat 8
/-- `PASS`. -/
def rPass (w : W128) : Nat := wbits w 10 9
/-- `ACC`. -/
def rAcc (w : W128) : Bool := bit w.toNat 11
/-- `ABANK`. -/
def rBank (w : W128) : Bool := bit w.toNat 12
/-- `FORM`: pack form. -/
def rForm (w : W128) : Bool := bit w.toNat 13
/-- `ILV`. -/
def rIlv (w : W128) : Bool := bit w.toNat 14
/-- `AROW`. -/
def rArow (w : W128) : Nat := wbits w 32 25
/-- `NVEC`. -/
def rNvec (w : W128) : Nat := wbits w 41 33
/-- Byte offset of the mantissa area (or first pack) of vector parity `odd`, slice j. -/
def rArea (w : W128) (odd : Bool) (j : Nat) : Nat :=
  ((if odd then wbits w 73 58 else wbits w 57 42) + (if rPass w = 1 then 0 else j * wbits w 89 74)) * 256
/-- Byte offset of the scale area. -/
def rScales (w : W128) : Nat := wbits w 107 90 * 64
/-- Elements of a streamed vector. -/
def rLen (w : W128) : Nat := if rDir w then 256 else 512
/-- Vectors of a parity. -/
def rCount (w : W128) (odd : Bool) : Nat := if rIlv w then (rNvec w + (if odd then 0 else 1)) / 2 else rNvec w

/-- The areas an MRUN reads: (offset, length). -/
def runAreas (w : W128) : List (Nat × Nat) :=
  (List.range (rPass w)).flatMap (fun j =>
    if rForm w then [(rArea w false j, tensorPacks 0x8 (rNvec w * rLen w) * 256)]
    else (rArea w false j, rCount w false * rLen w) :: (if rIlv w then [(rArea w true j, rCount w true * rLen w)] else [])) ++
  (if rForm w then [] else [(rScales w, rNvec w * (rLen w / 32))])

/-- Every area lies in the tile's SRAM. -/
def areasOk (l : List (Nat × Nat)) : Bool := l.all (fun a => a.2 == 0 || decide (a.1 + a.2 ≤ sramBytes))

/-- The status record's area. -/
def statusArea (w : W128) : List (Nat × Nat) := if statOf w then [(staddrOf w, 32)] else []

/-! ### What an instruction meets before it has any effect (R105) -/

/-- Checks of MLOAD. -/
def mloadRefusal (t : Tile) (w : W128) : Nat :=
  if wbits w 14 13 ≠ 0 ∨ wbits w 107 50 ≠ 0 ∨ wbits w 127 126 ≠ 0 then 0x0108
  else if mTag w < 0x8 ∨ mTag w > 0xC then 0x0107
  else if t.mode = 2 ∨ mCols w > tileWidth t then 0x0103
  else if areasOk ((mPaddr w, mPacks w * 256) :: statusArea w) = false then 0x0105
  else 0

/-- Checks of MSWAP. -/
def mswapRefusal (t : Tile) (w : W128) : Nat :=
  if wbits w 14 8 ≠ 0 ∨ wbits w 107 25 ≠ 0 ∨ wbits w 127 126 ≠ 0 then 0x0108
  else if t.mode = 2 then 0x0103
  else if areasOk (statusArea w) = false then 0x0105
  else if t.shadow.valid then 0 else 0x0108

/-- Checks of MRUN. -/
def mrunRefusal (t : Tile) (w : W128) : Nat :=
  if wbits w 127 126 ≠ 0 ∨ rPass w = 0 then 0x0108
  else if t.mode = 2 then 0x0103
  else if areasOk (runAreas w ++ statusArea w) = false then 0x0105
  else if rArow w + rNvec w > (if rDir w then 128 else 256) ∨ (rForm w = true ∧ rIlv w = true) then 0x0108
  else if rNvec w = 0 then 0
  else if t.active.valid = false then 0x0108
  else if rDir w = true ∧ t.active.squareChecked = false then 0x0109
  else 0

/-! ### Status and completion (R101, R106, R107) -/

/-- The status record. -/
def matrixRecord (w : W128) (x : MatrixStatus) (cycles : Nat) : Bytes :=
  layout 32 [(0, 1, opOf w), (1, 1, b2n x.nf + 2 * b2n x.aln + 4 * b2n x.chkd), (2, 2, x.fault.toNat),
    (4, 4, x.nfIndex.toNat), (8, 4, x.nfBlock.toNat), (12, 1, x.nfSrc.toNat), (13, 1, x.chkWhere.toNat),
    (14, 2, x.suspect.toNat), (16, 4, x.nfCount.toNat), (20, 4, x.alnCount.toNat), (24, 4, x.slots.toNat), (28, 4, cycles)]

/-- The counts of a pitch (R61). -/
def addPitchCounts (s : State) (tile nf sat : Nat) : State :=
  match tileView s tile with
  | some r => s.setRing r { s.ring r with pitch := { (s.ring r).pitch with
      nfCount := satInc (s.ring r).pitch.nfCount nf, satCount := satInc (s.ring r).pitch.satCount sat } }
  | none => s

/-- A non-finite output is reported, class INFO (R58). -/
def reportNf (s : State) (tile : Nat) (nf : Bool) : State :=
  if nf then record s (withRing s (tileRing s tile) { code := 0x0101, unit := unitTile tile }) else s

/-- An instruction ends: record, counter, counts and the report of non-finite outputs. -/
def endMatrix (s : State) (tile : Nat) (w : W128) (x : MatrixStatus) (cycles : Nat) : State :=
  let s1 := completeWord s tile w (matrixRecord w x (cycles % 2 ^ 32))
  reportNf (addPitchCounts s1 tile x.nfCount.toNat 0) tile x.nf

/-- An instruction ends, and a fault stops the tile. -/
def finishMatrix (s : State) (tile : Nat) (w : W128) (x : MatrixStatus) (cycles kind : Nat) (data : Bytes) : State :=
  let s2 := endMatrix s tile w x cycles
  if x.fault = 0 then s2 else engineRaise s2 tile x.fault.toNat 0 kind data

/-- An instruction is refused before it has any effect. -/
def refuseMatrix (s : State) (tile : Nat) (w : W128) (code : Nat) : State :=
  finishMatrix s tile w { fault := BitVec.ofNat 16 code } 0 0 []

/-- The head of the matrix queue, on a tile that runs or drains, outside FLOOR (R411). -/
def matrixHead (s : State) (tile : Nat) : Option W128 :=
  let t := s.tile tile
  if (t.trun = 1 ∨ t.trun = 2) ∧ s.floored = false then t.mqueue.head? else none

/-- The tile without the head of its matrix queue. -/
def popMatrix (s : State) (tile : Nat) : State := s.setTile tile { s.tile tile with mqueue := (s.tile tile).mqueue.tail }

/-- Serve the head of the matrix queue when it is of the opcode and its order conditions hold (R75). -/
def startMatrix (op tile : Nat) (ready : Tile → Bool) (s : State) (body : W128 → State → State) : Res :=
  onTile tile <|
    match matrixHead s tile with
    | none => .next s
    | some w => ifDue (opOf w == op && ready (s.tile tile)) s (body w (popMatrix s tile))

/-! ### Loading (R70 to R73) -/

/-- Decode the packs of a tensor from a tile: codes and scales in order, or the fault, its pack and byte. The count that
R49 gives is checked after the pack's own checks (DEDUCED, log entry 98). -/
def loadPacks (t : Tile) (tag n base : Nat) : (left k : Nat) → Except (Nat × Nat × Nat) (List Nat × List Nat)
  | 0, _ => .ok ([], [])
  | left + 1, k =>
    match decodePack tag (tileBytes t (base + 256 * k) 256) with
    | .error e => .error (e.1, base + 256 * k, e.2)
    | .ok p =>
      if p.count ≠ tensorCount tag n k then .error (0x0107, base + 256 * k, 1)
      else match loadPacks t tag n base left (k + 1) with
        | .error e => .error e
        | .ok r => .ok (p.codes ++ r.1, p.scales.take (liveBlocks tag p.count) ++ r.2)

/-- The nonzero entries of a list, by index. -/
def sparse (w : Nat) (l : List Nat) : Table (BitVec w) :=
  (l.zipIdx.filter (fun x => x.1 ≠ 0)).map (fun x => (x.2, BitVec.ofNat w x.1))

/-- Scale of weight block (g, c). -/
def scaleAt (ws : WeightSet) (g c : Nat) : Nat := (tget ws.scales (c * 16 + g) 0).toNat

/-- The scales of a square: row group g, column group h. A column group that W cuts has a square of the columns below W
(DEDUCED, log entry 97). -/
def squareScales (ws : WeightSet) (width g h : Nat) : List Nat :=
  ((List.range 32).filter (fun c => decide (32 * h + c < width))).map (fun c => scaleAt ws g (32 * h + c))

/-- The code of a square, or none where R72 refuses it. -/
def squareCode (tag : Nat) (ss : List Nat) : Option Nat :=
  let live := (ss.filter (fun x => x ≠ 0 ∧ x ≠ 0xFF)).eraseDups
  if live.length > 1 then none
  else if (tag = 0xA ∨ tag = 0xC) ∧ ss.contains 0 = true ∧ ss.all (· == 0) = false then none
  else if ss.contains 0xFF then some 0xFF
  else some (live.headD 0)

/-- Bit of plane p of the weight at (r, c). -/
def planeBit (ws : WeightSet) (p r c : Nat) : Bool := bit (tget ws.codes (c * 512 + r) 0).toNat p

/-- The weight of column c in checksum column k (R94). -/
def sumWeight (k c : Nat) : Nat :=
  match k with
  | 0 => if c < 128 then 1 else 0
  | 1 => if 128 ≤ c then 1 else 0
  | 2 => if c < 128 then c + 1 else 0
  | _ => if 128 ≤ c then c - 127 else 0

/-- The checksum cells of a set, by (k * 8 + p) * 512 + r. -/
def checkSums (ws : WeightSet) : Table (BitVec 14) :=
  sparse 14 ((List.range 4).flatMap (fun k => (List.range (tagBits ws.tag.toNat)).flatMap (fun p =>
    (List.range 512).map (fun r => ((List.range 256).map (fun c => if planeBit ws p r c then sumWeight k c else 0)).sum)) ++
    List.replicate ((8 - tagBits ws.tag.toNat) * 512) 0))

/-- The set a tensor fills: columns from `COLS` to W are zero blocks. The planes of a block with scale 0x00 are written as
zero whatever its element bits hold, so that both paths read it as zero (R14; DEDUCED, log entry 99). -/
def filledSet (t : Tile) (w : W128) (codes scales : List Nat) : WeightSet :=
  let live := codes.zipIdx.map (fun x => if scales.getD (x.2 / 32) 0 = 0 then 0 else x.1)
  let ws : WeightSet := { valid := true, tag := BitVec.ofNat 4 (mTag w), cols := mCols w, codes := sparse 8 live, scales := sparse 8 scales }
  if t.mode = 1 then { ws with sums := checkSums ws } else ws

/-- The squares of a set, by g * 8 + h; none where R72 refuses one. -/
def allSquares (ws : WeightSet) (width : Nat) : Option (List Nat) :=
  (List.range 128).mapM (fun i => squareCode ws.tag.toNat (squareScales ws width (i / 8) (i % 8)))

/-- What an MLOAD does: the load in progress with its result or its fault. -/
def loadResult (t : Tile) (w : W128) : MatrixLoad :=
  match loadPacks t (mTag w) (512 * mCols w) (mPaddr w) (mPacks w) 0 with
  | .error e => { word := w, fault := BitVec.ofNat 16 e.1, faddr := BitVec.ofNat 64 e.2.1, foff := e.2.2, cycles := (e.2.1 - mPaddr w) / 256 + 1 }
  | .ok r =>
    let ws := filledSet t w r.1 r.2
    if mSq w then
      match allSquares ws (tileWidth t) with
      | some q => { word := w, cycles := mPacks w, result := { ws with squareChecked := true, squares := sparse 8 q } }
      | none => { word := w, fault := 0x0109, cycles := mPacks w }
    else { word := w, cycles := mPacks w, result := ws }

/-- The shadow set becomes invalid (R73). -/
def spoilShadow (s : State) (tile : Nat) : State :=
  s.setTile tile { s.tile tile with shadow := { (s.tile tile).shadow with valid := false } }

/-- Packs read up to the first granule of a run that cannot be corrected. -/
def packsToBad (t : Tile) (off n : Nat) : Nat := ((t.marked off n .uncorrectable).foldl min (off / 16 + n) * 16 - off) / 256 + 1

/-- MLOAD: every earlier MLOAD has completed; the packs are decoded. An MLOAD of no columns leaves the shadow set. One that
meets a granule it cannot correct ends there, with its record (R101). -/
def execMload (tile : Nat) (s : State) : Res :=
  startMatrix 0x01 tile (fun t => t.mload.isNone) s (fun w u =>
    let t := u.tile tile
    let code := mloadRefusal t w
    if code ≠ 0 then refuseMatrix (spoilShadow u tile) tile w code
    else if mCols w = 0 then finishMatrix u tile w {} 0 0 []
    else if bankBad t (mPaddr w) (mPacks w * 256) then
      bankChecks (endMatrix (spoilShadow u tile) tile w { fault := 0x0201 } (packsToBad t (mPaddr w) (mPacks w * 256))) tile
        (mPaddr w) (mPacks w * 256)
    else
      let v := bankChecks (u.setTile tile (t.touch u.clk (mPaddr w) (mPacks w * 256))) tile (mPaddr w) (mPacks w * 256)
      v.setTile tile { v.tile tile with mload := some (loadResult t w) })

/-- MLOAD_COMPLETE. -/
def execMloadComplete (tile stalls : Nat) (s : State) : Res :=
  onTile tile <|
    match (s.tile tile).mload with
    | none => .next s
    | some m =>
      let s1 := s.setTile tile { s.tile tile with mload := none }
      if s.floored then .next s
      else if m.fault = 0 then
        .next (finishMatrix (s1.setTile tile { s1.tile tile with shadow := m.result }) tile m.word {} (m.cycles + stalls) 0 [])
      else .next (finishMatrix (spoilShadow s1 tile) tile m.word { fault := m.fault } (m.cycles + stalls)
        (if m.fault = 0x0109 then 0 else 1) (dataPack (tileAddr tile m.faddr.toNat) m.foff))

/-! ### Runs -/

/-- Slots of a run. -/
def runSlots (w : W128) : Nat := rPass w * rNvec w

/-- Check slots of a run on a tile (R92). -/
def runChecks (t : Tile) (w : W128) : Nat := if t.mode = 1 then (runSlots w + 31) / 32 else 0

/-- The run has streamed its last slot and ended its last check slot. -/
def runStreamed (t : Tile) (r : MatrixRun) : Bool := r.rows == rNvec r.word && r.checks == runChecks t r.word

/-- No earlier run still reads the cells. -/
def cellsFree (t : Tile) : Bool := t.mruns.all (runStreamed t)

/-- MSWAP: copies the shadow set once no load and no run is under way (R74, R75). -/
def execMswap (tile : Nat) (s : State) : Res :=
  startMatrix 0x02 tile (fun t => t.mload.isNone && cellsFree t) s (fun w u =>
    let t := u.tile tile
    let code := mswapRefusal t w
    if code ≠ 0 then refuseMatrix u tile w code
    else finishMatrix (u.setTile tile { t with active := t.shadow }) tile w {} 1 0 [])

/-- MRUN: the run starts; a run of no vectors completes at once, or in its order behind runs that have streamed and not
yet completed (R8). -/
def execMrun (tile : Nat) (s : State) : Res :=
  startMatrix 0x03 tile cellsFree s (fun w u =>
    let t := u.tile tile
    let code := mrunRefusal t w
    if code ≠ 0 then refuseMatrix u tile w code
    else if rNvec w = 0 ∧ t.mruns = [] then finishMatrix u tile w {} 0 0 []
    else u.setTile tile { t with mruns := t.mruns ++ [{ word := w }] })

/-- MATRIX_RESERVED_OPCODE. -/
def execMatrixReservedOpcode (tile : Nat) (s : State) : Res :=
  onTile tile <|
    match matrixHead s tile with
    | none => .next s
    | some w => ifDue (opOf w == 0 || decide (opOf w > 3)) s (refuseMatrix (popMatrix s tile) tile w 0x0108)

/-! ### The streamed operand (R76 to R78) -/

/-- The vector's elements and the scales of its blocks; or the fault, its pack and byte. -/
abbrev Streamed := Except (Nat × Nat × Nat) (List Int × List Nat)

/-- Runs of SRAM that slice j of vector i reads. -/
def vectorReads (w : W128) (i j : Nat) : List (Nat × Nat) :=
  let v := rLen w
  if rForm w then [(rArea w false j + i * v / 224 * 256, ((i * v + v - 1) / 224 - i * v / 224 + 1) * 256)]
  else
    let odd := rIlv w && i % 2 == 1
    let k := if rIlv w then 2 else 1
    [(rArea w odd j + i / k * v, v), (rScales w + i * (v / 32), v / 32)]

/-- A lower slice's pack agrees with slice 0's in scales and count (R78): else the byte. -/
def sliceDiffers (p q : Pack) : Option Nat :=
  if p.count ≠ q.count then some 1
  else (List.range 7).findSome? (fun b => if p.scales.getD b 0 = q.scales.getD b 0 then none else some (8 + b))

/-- Elements e to e + n − 1 of a tensor's packs, and the scales of their blocks. -/
def packRun (t : Tile) (w : W128) (j : Nat) : (n e : Nat) → Streamed
  | 0, _ => .ok ([], [])
  | n + 1, e =>
    let k := e / 224
    let at_ := rArea w false j + 256 * k
    match decodePack (if j = 0 then 0x8 else 0xE) (tileBytes t at_ 256) with
    | .error x => .error (x.1, at_, x.2)
    | .ok p =>
      let clash := if j = 0 then none else
        match decodePack 0x8 (tileBytes t (rArea w false 0 + 256 * k) 256) with
        | .ok q => sliceDiffers p q
        | .error x => some x.2
      match clash with
      | some o => .error (0x0107, at_, o)
      | none =>
        match packRun t w j n (e + 32) with
        | .error x => .error x
        | .ok r =>
          let b := e % 224 / 32
          .ok ((List.range 32).map (fun i => codeInt (if j = 0 then 0x8 else 0xE) (p.codes.getD (b * 32 + i) 0)) ++ r.1,
            p.scales.getD b 0 :: r.2)

/-- Slice j of vector i as the array receives it. Beyond the width of a transposed run elements are zero, and a block
that lies wholly beyond it is a zero block (R89). -/
def sliceVector (t : Tile) (w : W128) (i j : Nat) : Streamed :=
  let v := rLen w
  let width := tileWidth t
  let cut (x : List Int × List Nat) : List Int × List Nat :=
    if rDir w then (x.1.zipIdx.map (fun e => if e.2 < width then e.1 else 0), x.2.zipIdx.map (fun e => if 32 * e.2 < width then e.1 else 0)) else x
  if rForm w then (packRun t w j (v / 32) (i * v)).map cut
  else
    let odd := rIlv w && i % 2 == 1
    let k := if rIlv w then 2 else 1
    let b := tileBytes t (rArea w odd j + i / k * v) v
    let sc := tileBytes t (rScales w + i * (v / 32)) (v / 32)
    .ok (cut (b.map (fun x => if j = 0 then signed 8 x.toNat else x.toNat), sc.map (·.toNat)))

/-- Slices of a vector that have streamed, slice 0 first, its block scales, and the fault, pack and byte that stop it. -/
structure Stream where
  slices : List (List Int) := []
  scales : List Nat := []
  fault  : Option (Nat × Nat × Nat) := none
  deriving DecidableEq, Repr

/-- Stream n further slices of vector i from slice j on; the scales are those of slice 0. -/
def streamOn (t : Tile) (w : W128) (i : Nat) : (n j : Nat) → Stream → Stream
  | 0, _, x => x
  | n + 1, j, x =>
    match sliceVector t w i j with
    | .error e => { x with fault := some e }
    | .ok a => streamOn t w i n (j + 1) { x with slices := x.slices ++ [a.1], scales := if j = 0 then a.2 else x.scales }

/-- Stream the next vector of a run up to (not including) slice j. -/
def streamTo (t : Tile) (r : MatrixRun) (j : Nat) : Stream :=
  streamOn t r.word r.rows (j - r.part.length) r.part.length { slices := r.part, scales := r.partScales }

/-- Runs of SRAM that streaming up to slice j reads. -/
def streamReads (r : MatrixRun) (j : Nat) : List (Nat × Nat) :=
  ((List.range j).drop r.part.length).flatMap (vectorReads r.word r.rows)

/-- What each row has received, with further slices (R95). -/
def addSums (sums : List Int) (slices : List (List Int)) : List Int :=
  slices.foldl (fun a v => if a.isEmpty then v else a.zipWith (· + ·) v) sums

/-! ### The products and their foot (R64, R81 to R89) -/

/-- Coefficients of the planes and the added constant. -/
def planeCoefs (tag : Nat) : List Int × Int :=
  match tag with
  | 0x8 => ([1, 2, 4, 8, 16, 32, 64, -128], 0)
  | 0x9 => ([1, 2, 4, -8], 0)
  | 0xA => ([2, 4], -3)
  | 0xB => ([1, -2], 0)
  | _ => ([2], -1)

/-- The integer a weight stands for. -/
def weightInt (ws : WeightSet) (r c : Nat) : Int :=
  let k := planeCoefs ws.tag.toNat
  (k.1.zipIdx.map (fun p => if planeBit ws p.2 r c then p.1 else 0)).sum + k.2

/-- The groups that meet in an output element, as (group integer, streamed scale, stationary scale). -/
def groupsOf (ws : WeightSet) (dir : Bool) (a : List Int) (ea : List Nat) (o : Nat) : List (Int × Nat × Nat) :=
  if dir then
    (List.range 8).map (fun h =>
      (((List.range 32).map (fun c => a.getD (32 * h + c) 0 * weightInt ws o (32 * h + c))).sum,
        ea.getD h 0, (tget ws.squares (o / 32 * 8 + h) 0).toNat))
  else
    (List.range 16).map (fun g =>
      (((List.range 32).map (fun r => a.getD (32 * g + r) 0 * weightInt ws (32 * g + r) o)).sum, ea.getD g 0, scaleAt ws g o))

/-- The foot: one slice's FP32 value, and whether an aligned term lost a bit (R83, R84). -/
def footOf (gs : List (Int × Nat × Nat)) (fs fw : Nat) : W32 × Bool :=
  if gs.any (fun g => g.2.1 == 0xFF || g.2.2 == 0xFF) then (0x7FC00000, false)
  else
    let live := gs.filter (fun g => g.2.1 ≠ 0 ∧ g.2.2 ≠ 0)
    let emax := live.foldl (fun m g => max m (g.2.1 + g.2.2)) 0
    let term (g : Int × Nat × Nat) : Int × Bool :=
      let d := emax - (g.2.1 + g.2.2)
      if d ≤ 15 then (g.1 * (2 ^ (15 - d) : Nat), false) else (g.1 / (2 ^ (d - 15) : Nat), decide (g.1 % (2 ^ (d - 15) : Nat) ≠ 0))
    let ts := live.map term
    (toFp32 (intNum (ts.map (·.1)).sum ((emax : Int) - 269 - fs - fw)), ts.any (·.2))

/-- FP32 addition under RNE. -/
def addFp32 (a b : W32) : W32 := toFp32 (addNum (ofFp32 a) (ofFp32 b)).1

/-- An output element before `ACC`: its slices combined from the lowest (R85). -/
def combineSlices (ws : WeightSet) (dir : Bool) (sl : List (List Int)) (ea : List Nat) (o : Nat) : W32 × Bool :=
  let ys := sl.zipIdx.map (fun a => footOf (groupsOf ws dir a.1 ea o) (6 + 8 * a.2) (tagShift ws.tag.toNat))
  (ys.reverse.foldl (fun z y => addFp32 z y.1) 0, ys.any (·.2))

/-- Which input is responsible for a non-finite element: source and block (R58, R85). -/
def culprit (ws : WeightSet) (w : W128) (width i o : Nat) (ea : List Nat) (old : W32) : Nat × Nat :=
  let stat := if rDir w then (List.range width).findSome? (fun c => if scaleAt ws (o / 32) c = 0xFF then some (c * 16 + o / 32) else none)
    else (List.range 16).findSome? (fun g => if scaleAt ws g o = 0xFF then some (o * 16 + g) else none)
  match stat with
  | some b => (0, b)
  | none =>
    match (List.range (rLen w / 32)).find? (fun g => ea.getD g 0 == 0xFF) with
    | some g => (1, i * (rLen w / 32) + g)
    | none => (if rAcc w ∧ (ofFp32 old).nonFinite = true then 2 else 3, 0xFFFFFFFF)

/-- An accumulator bank. -/
def Tile.accum (t : Tile) (b : Bool) : Table W32 := if b then t.acc1 else t.acc0

/-- Write entries of an accumulator bank from an index on; their codes are fresh. -/
def Tile.putAccum (t : Tile) (b : Bool) (at_ : Nat) (vs : List W32) : Tile :=
  let t1 := { t with storeMarks := t.storeMarks.filter (fun m => match m.1 with
    | .accumulator k e => !(k == b2n b && decide (at_ / 2 ≤ e / 2) && decide (e < at_ + vs.length))
    | _ => true) }
  if b then { t1 with acc1 := tsetRun t1.acc1 at_ vs } else { t1 with acc0 := tsetRun t1.acc0 at_ vs }

/-- Outputs of a run, a row. -/
def rowOutputs (t : Tile) (w : W128) : Nat := if rDir w then 512 else tileWidth t
/-- First accumulator entry of row i (R90). -/
def rowEntry (w : W128) (i : Nat) : Nat := (rArow w + i) * (if rDir w then 512 else 256)

/-- The values of one row, and whether each lost a bit. -/
def rowValues (t : Tile) (w : W128) (i : Nat) (sl : List (List Int)) (ea : List Nat) : List (W32 × Bool) :=
  (List.range (rowOutputs t w)).map (fun o =>
    let z := combineSlices t.active (rDir w) sl ea o
    (if rAcc w then addFp32 (tget (t.accum (rBank w)) (rowEntry w i + o) 0) z.1 else z.1, z.2))

/-- The status after a row. -/
def rowStatus (t : Tile) (w : W128) (i : Nat) (ea : List Nat) (vs : List (W32 × Bool)) (x : MatrixStatus) : MatrixStatus :=
  let bad := (vs.zipIdx.filter (fun v => (ofFp32 v.1.1).nonFinite)).map (·.2)
  let lost := (vs.filter (·.2)).length
  let y := { x with
    aln := x.aln || decide (lost ≠ 0), alnCount := satInc x.alnCount lost
    nfCount := satInc x.nfCount bad.length, slots := x.slots + BitVec.ofNat 32 (rPass w) }
  match bad with
  | [] => y
  | o :: _ =>
    if x.nf then y
    else
      let c := culprit t.active w (tileWidth t) i o ea (tget (t.accum (rBank w)) (rowEntry w i + o) 0)
      { y with nf := true, nfIndex := BitVec.ofNat 32 (i * (if rDir w then 512 else 256) + o), nfSrc := BitVec.ofNat 2 c.1,
               nfBlock := BitVec.ofNat 32 c.2 }

/-- The first run that still writes rows or checks. -/
def runNow (t : Tile) : Option MatrixRun := t.mruns.find? (fun r => !runStreamed t r)

/-- Replace the first run that still streams. -/
def setRun (t : Tile) (r : MatrixRun) : List MatrixRun → List MatrixRun
  | [] => []
  | x :: l => if runStreamed t x then x :: setRun t r l else r :: l

/-- Take the first run that still streams away. -/
def dropRun (t : Tile) : List MatrixRun → List MatrixRun
  | [] => []
  | x :: l => if runStreamed t x then x :: dropRun t l else l

/-- Rows that a run must have written before check slot k: those whose last slot lies in window k or before it. -/
def rowsBefore (w : W128) (k : Nat) : Nat := min (rNvec w) (32 * (k + 1) / max (rPass w) 1)

/-- The next row may be written: its last slot lies in the window that is open. -/
def rowDue (t : Tile) (r : MatrixRun) : Bool :=
  decide (r.rows < rNvec r.word) && (t.mode != 1 || decide (r.rows < rowsBefore r.word r.checks))

/-- Cycles from the start of a run to the start of its slot q (R92). -/
def slotStart (t : Tile) (q : Nat) : Nat := (q + (if t.mode = 1 then q / 32 else 0)) * tagBits t.active.tag.toNat

/-- Cycles to the write of row i, 20 cycles after the last cycle of its last slot (R92). -/
def rowWritten (t : Tile) (w : W128) (i : Nat) : Nat :=
  slotStart t ((i + 1) * rPass w - 1) + tagBits t.active.tag.toNat + 20

/-- Cycles of a run that ends early at the cycle `stop`: the later of that and its last write, and its stalls (DEDUCED, log entry 100). -/
def failCycles (t : Tile) (r : MatrixRun) (stop : Nat) : Nat :=
  max stop (if r.rows = 0 then 0 else rowWritten t r.word (r.rows - 1)) + r.stalls

/-- The tile and the status of a run that ends early with a fault: its record, counter and counts. -/
def endRun (s : State) (tile : Nat) (r : MatrixRun) (x : MatrixStatus) (code stop : Nat) : State :=
  let t := s.tile tile
  endMatrix (s.setTile tile { t with mruns := dropRun t t.mruns }) tile r.word { x with fault := BitVec.ofNat 16 code } (failCycles t r stop)

/-- A run ends with a fault at the cycle `stop`, and the tile stops. -/
def failRun (s : State) (tile : Nat) (r : MatrixRun) (x : MatrixStatus) (code stop kind : Nat) (data : Bytes) : State :=
  engineRaise (endRun s tile r x code stop) tile code 0 kind data

/-- The next slot of a run. -/
def nextSlot (r : MatrixRun) : Nat := rPass r.word * r.rows + r.part.length

/-- Reading the bytes of a run: the run ends with FLT_BANK_ECC and its record when a granule of them cannot be
corrected, else corrected granules are logged and `go` follows. -/
def readStream (s : State) (tile : Nat) (r : MatrixRun) (reads : List (Nat × Nat)) (go : State → State) : State :=
  let t := s.tile tile
  match reads.find? (fun a => bankBad t a.1 a.2) with
  | some a => bankChecks (endRun s tile r r.status 0x0201 (slotStart t (nextSlot r))) tile a.1 a.2
  | none => go (reads.foldl (fun u a => bankChecks (u.setTile tile ((u.tile tile).touch u.clk a.1 a.2)) tile a.1 a.2) s)

/-- The accumulator entries that a row adds to. -/
def rowStores (t : Tile) (w : W128) (i : Nat) : TileStore → Bool
  | .accumulator b e => rAcc w && b == b2n (rBank w) && decide (rowEntry w i ≤ e) && decide (e < rowEntry w i + rowOutputs t w)
  | _ => false

/-- The row of a vector whose slices have all streamed: its values and its counts. -/
def putRow (s : State) (tile : Nat) (r : MatrixRun) (v : Stream) : State :=
  let t := s.tile tile
  let w := r.word
  let i := r.rows
  let vs := rowValues t w i v.slices v.scales
  let t2 := t.putAccum (rBank w) (rowEntry w i) (vs.map (·.1))
  s.setTile tile { t2 with
    ainex := satInc t2.ainex (vs.filter (·.2)).length
    mruns := setRun t { r with
      rows := i + 1, part := [], partScales := []
      sums := if t.mode = 1 then addSums r.sums (v.slices.drop r.part.length) else []
      status := rowStatus t w i v.scales vs r.status } t2.mruns }

/-- MRUN_ROW_WRITE: one vector's row, 20 cycles after its last slot, with the stalls its slots met. A pack that fails ends
the run: neither this row nor a later one is written (R78). -/
def execMrunRowWrite (tile : Nat) (s : State) (stalls : Nat := 0) : Res :=
  onTile tile <|
    let t := s.tile tile
    match runNow t with
    | none => .next s
    | some r0 =>
      if s.floored || !rowDue t r0 then .next s
      else
        let r := { r0 with stalls := r0.stalls + stalls }
        .next (readStream s tile r (streamReads r (rPass r.word)) (fun s1 =>
          let v := streamTo t r (rPass r.word)
          match v.fault with
          | some e => failRun s1 tile r r.status e.1 (slotStart t (rPass r.word * r.rows + v.slices.length)) 1 (dataPack (tileAddr tile e.2.1) e.2.2)
          | none =>
            let bad := t.storeMarks.any (fun m => rowStores t r.word r.rows m.1 && m.2 == .uncorrectable)
            if bad then storeChecks (endRun s1 tile r r.status 0x0201 (rowWritten t r.word r.rows)) tile (rowStores t r.word r.rows)
            else putRow (storeChecks s1 tile (rowStores t r.word r.rows)) tile r v))

/-! ### Check slots (R94 to R99) -/

/-- ΔP and ΔQ of a group, plane and half when each row r receives a(r): data side minus checksum side. -/
def checkDiff (ws : WeightSet) (a : List Int) (g p : Nat) (high : Bool) : Int × Int :=
  let rows := (List.range 32).map (32 * g + ·)
  let cols := (List.range 128).map (fun c => c + (if high then 128 else 0))
  let side (k : Nat) : Int :=
    (rows.map (fun r => a.getD r 0 *
      (((cols.map (fun c => if planeBit ws p r c then sumWeight k c else 0)).sum : Nat) - (tget ws.sums ((k * 8 + p) * 512 + r) 0).toNat : Int))).sum
  (side (b2n high), side (2 + b2n high))

/-- The suspect column (R96). -/
def suspectOf (high : Bool) (dp dq : Int) : Nat :=
  if dp = 0 then 0xFFFF
  else if dq = 0 then 256 + b2n high
  else if dq % dp = 0 ∧ 1 ≤ dq / dp ∧ dq / dp ≤ 128 then (dq / dp).toNat - 1 + (if high then 128 else 0)
  else 0xFFFF

/-- The first failing comparison of one kind: `CHK_WHERE` and the suspect. -/
def firstFailing (ws : WeightSet) (a : List Int) : Option (Nat × Nat) :=
  (List.range 16).findSome? fun g => (List.range (tagBits ws.tag.toNat)).findSome? fun p =>
    [false, true].findSome? fun high =>
      let d := checkDiff ws a g p high
      if d.1 = 0 ∧ d.2 = 0 then none else some (g + 16 * p + 128 * b2n high, suspectOf high d.1 d.2)

/-- Slots of a run up to the end of window k. -/
def windowEnd (w : W128) (k : Nat) : Nat := min (32 * (k + 1)) (runSlots w)

/-- A check slot of a run whose window has streamed: the window comparison of a forward run, then the verify comparison;
the sums of the next window start at zero. -/
def checkRun (s : State) (tile : Nat) (r : MatrixRun) : State :=
  let t := s.tile tile
  let window := if rDir r.word then none else firstFailing t.active r.sums
  let x := { r.status with chkd := true }
  let r1 := { r with checks := r.checks + 1, sums := [], status := x }
  match (match window with | some f => some f | none => firstFailing t.active (List.replicate 512 1)) with
  | none => s.setTile tile { t with mruns := setRun t r1 t.mruns }
  | some (at_, sus) =>
    let mis := if t.mismatch = 0xFFFF then t.mismatch else t.mismatch + 1
    let s1 := s.setTile tile { t with mismatch := mis, suspect := BitVec.ofNat 16 sus }
    failRun s1 tile r1 { x with chkWhere := BitVec.ofNat 8 at_, suspect := BitVec.ofNat 16 sus } 0x0102
      (slotStart t (windowEnd r.word r.checks - 1) + 2 * tagBits t.active.tag.toNat) 7 (dataSum at_ sus)

/-- MRUN_CHECK_SLOT: the slots of a vector that straddles the window's end stream, with the stalls they met, and the check
slot follows. -/
def execMrunCheckSlot (tile : Nat) (s : State) (stalls : Nat := 0) : Res :=
  onTile tile <|
    let t := s.tile tile
    match runNow t with
    | none => .next s
    | some r0 =>
      if s.floored = true ∨ r0.checks ≥ runChecks t r0.word ∨ r0.rows < rowsBefore r0.word r0.checks then .next s
      else
        let r := { r0 with stalls := r0.stalls + stalls }
        let j := windowEnd r.word r.checks - rPass r.word * r.rows
        .next (readStream s tile r (streamReads r j) (fun s1 =>
          let v := streamTo t r j
          match v.fault with
          | some e => failRun s1 tile r r.status e.1 (slotStart t (rPass r.word * r.rows + v.slices.length)) 1 (dataPack (tileAddr tile e.2.1) e.2.2)
          | none => checkRun s1 tile { r with
              part := v.slices, partScales := v.scales, sums := addSums r.sums (v.slices.drop r.part.length) }))

/-- Cycles that the banks need for the bytes of a stream-form run, at 256 bytes a cycle and bank (R80; DEDUCED, log entry 101). -/
def bankCycles (w : W128) : Nat :=
  if rForm w then 0
  else ((List.range 6).map (fun b => ((runAreas w).map (fun a =>
    ((piecesOf (2 ^ 21) a.1 a.2).filter (fun p => p.1 / 2 ^ 21 == b)).foldl (fun n p => n + p.2) 0)).sum)).foldl (fun m n => max m ((n + 255) / 256)) 0

/-- Cycles of a run (R92): the later of its last write and its last check slot; in pack form a pack a cycle at most. -/
def runCycles (t : Tile) (w : W128) : Nat :=
  let k := tagBits t.active.tag.toNat
  let c := runChecks t w
  let stream := max (k * (runSlots w + c)) (bankCycles w)
  let supply := if rForm w then max stream (rPass w * tensorPacks 0x8 (rNvec w * rLen w)) else stream
  max supply (supply - (if c = 0 then 0 else k) + 20)

/-- MRUN_COMPLETE: every row is written and every check slot has ended, after the given stalls. -/
def execMrunComplete (tile stalls : Nat) (s : State) : Res :=
  onTile tile <|
    let t := s.tile tile
    match t.mruns with
    | [] => .next s
    | r :: rest => ifDue (runStreamed t r) s
        (finishMatrix (s.setTile tile { t with mruns := rest }) tile r.word r.status
          (if rNvec r.word = 0 then 0 else runCycles t r.word + r.stalls + stalls) 0 [])

/-! ### TILE_CFG (R67, R68) -/

/-- The columns that a TILE_CFG marks. -/
def cfgMarks (d : Desc) : BitVec 260 := BitVec.ofNat 260 (opnd d 16 33)
/-- `MODE`. -/
def cfgMode (d : Desc) : BitVec 2 := BitVec.ofNat 2 (opnd d 10 1)
/-- `KEEP`. -/
def cfgKeep (d : Desc) : Bool := bit (opnd d 10 1) 7

/-- The tile's map after the marks. -/
def cfgMap (t : Tile) (d : Desc) : BitVec 260 := t.badMap ||| cfgMarks d

/-- What refuses a TILE_CFG: the locked job, or CHECK mode with a bad column. -/
def tileCfgRefusal (s : State) (d : Desc) : Nat :=
  let t := s.tile (opnd d 8 2)
  if s.job.locked then 0x0C01
  else if cfgKeep d = false ∧ cfgMode d = 1 ∧ cfgMap t d ≠ 0 then 0x0103
  else if cfgKeep d = true ∧ t.mode = 1 ∧ cfgMap t d ≠ t.badMap then 0x0103
  else 0

/-- TILE_CFG: the request waits on the tile; a second one waits for the first. -/
def execTileCfg (ring : Nat) (s : State) : Res :=
  startDesc 0x30 0 ring s (fun d u =>
    let tile := opnd d 8 2
    if tileCfgRefusal s d ≠ 0 then refuseDesc s ring d (tileCfgRefusal s d)
    else if (u.tile tile).config.isSome then s
    else
      let v := u.setTile tile { u.tile tile with config := some ⟨ring, cfgMode d, cfgKeep d, cfgMarks d⟩ }
      runDesc v ring d (.tileCfg tile))

/-- A tile with its new mode and marks: no tile is in NARROW with W = 0; a change makes both weight sets invalid. -/
def configured (t : Tile) (c : TileConfig) : Tile :=
  let map := t.badMap ||| c.bad
  let want := if c.keep then t.mode else c.mode
  let mode := if want = 0 ∧ widthFor 0 map = 0 then 2 else want
  let t1 := { t with badMap := map, mode := mode, config := none }
  if mode = t.mode ∧ map = t.badMap then t1
  else { t1 with active := { t1.active with valid := false }, shadow := { t1.shadow with valid := false } }

/-- TILE_CFG_TAKE_EFFECT: the matrix queue is empty and the array idle. -/
def execTileCfgTakeEffect (tile : Nat) (s : State) : Res :=
  onTile tile <|
    let t := s.tile tile
    match t.config with
    | none => .next s
    | some c =>
      if t.mqueue ≠ [] ∨ t.mload.isSome = true ∨ t.mruns ≠ [] then .next s
      else
        let s1 := rowRelease (s.setTile tile (configured t c)) tile
        match runningDesc s1 c.ring (fun r => r == .tileCfg tile) with
        | some d => .next (doneDesc s1 c.ring d 0 (zeros 16))
        | none => .next s1

end Sys2Proof.Machine
end

