-- ==== Sys2Proof/Machine/TimeSync.lean ====
section
/-! DEFINITION. The time base (R418 to R425): the choice of leader and upstream, what a time sample does to it, its lock
states, and the writes that set it. -/

namespace Sys2Proof.Machine

/-- The nominal increment, in units of 2^-32 ns (R418). -/
def nominalInc : Nat := 3579139413

/-- The time base as a sample carries it: 64-bit nanoseconds and a 16-bit fraction. -/
def stampNow (s : State) : Nat := s.time.now / 2 ^ 16 % 2 ^ 80

/-- Enter ACQUIRING: its count of good samples and its one report of distance start again. -/
def enterAcquiring (s : State) : State :=
  cardsDue { s with time := { s.time with phase := .acquiring, streak := 0, distOver := false } }

/-- Enter LOCKED. -/
def enterLocked (s : State) : State := cardsDue { s with time := { s.time with phase := .locked } }

/-- Enter FREE at a reset or a new epoch: f becomes 0 (R421). -/
def enterFree (s : State) : State :=
  cardsDue { s with time := { s.time with phase := .free, freq := 0, inc := nominalInc, streak := 0 } }

/-! ### Election (R419) -/

/-- An entry of the election. -/
structure Choice where
  leader : Nat
  dist   : Nat
  port   : Option Nat
  locked : Bool := true
  deriving DecidableEq, Repr

/-- A port's state lets its samples be used (R228). -/
def samplesUsed (p : PortPhase) : Bool :=
  match p with
  | .timeHold => true
  | .mgmt => true
  | .up => true
  | _ => false

/-- What a port offers. -/
def portChoice (s : State) (n : Nat) : Option Choice :=
  let p := s.port n
  match p.card with
  | some c =>
    if samplesUsed p.phase && c.tepoch == s.time.epoch && p.sample.valid && p.sample.leaderValid &&
        decide (s.clk ≤ p.sample.at_ + 10 * usec) && decide (p.sample.ldist.toNat < 15) then
      some { leader := p.sample.leader.toNat, dist := p.sample.ldist.toNat + 1, port := some n, locked := p.sample.locked }
    else none
  | none => none

/-- The smaller of two entries: leader number, then distance, then port. The first, being earlier, wins a tie. -/
def better (a b : Choice) : Bool := decide (b.leader < a.leader) || (b.leader == a.leader && decide (b.dist < a.dist))

/-- The chosen entry: the part itself comes before its ports. -/
def elect (s : State) : Option Choice :=
  let self : List Choice := if s.time.cand && s.fab.devValid then [{ leader := ownDev s, dist := 0, port := none }] else []
  (self ++ (List.range 16).filterMap (portChoice s)).foldl (fun m c =>
    match m with
    | none => some c
    | some x => if better x c then some c else m) none

/-- Take the choice into the registers. -/
def takeChoice (s : State) (c : Option Choice) : State :=
  match c with
  | none => { s with time := { s.time with
      leadValid := false, selfLead := false, upstream := none, dist := 0, leadNum := 0
      holdAt := if s.time.upstream.isSome then s.clk else s.time.holdAt } }
  | some x =>
    let up := match x.port with | some n => if x.locked then some n else none | none => none
    { s with time := { s.time with
      leadValid := true
      leadNum := BitVec.ofNat 12 x.leader
      dist := BitVec.ofNat 4 x.dist
      selfLead := x.port.isNone
      upstream := up
      holdAt := if s.time.upstream.isSome && up.isNone then s.clk else s.time.holdAt
      firstUp := s.time.firstUp || (up.isSome && up != s.time.upstream) } }

/-- The report of a distance above `MAXHOP`, once per entry to ACQUIRING. -/
def reportFar (s : State) : State :=
  if s.time.phase = .acquiring ∧ s.time.dist.toNat > s.time.maxHop.toNat ∧ s.time.distOver = false then
    note { s with time := { s.time with distOver := true } } 0x0901 4 unitService
  else s

/-- What the choice does to the lock state (R421). In HOLDOVER a new upstream's first sample decides (DEDUCED, log entry 25). -/
def settleTime (s : State) : State :=
  if s.time.selfLead then
    let s1 := { s with time := { s.time with freq := 0, inc := nominalInc } }
    if s.time.phase = .locked then s1 else enterLocked s1
  else
    match s.time.phase, s.time.upstream with
    | .free, some _ => reportFar (enterAcquiring s)
    | .acquiring, _ => reportFar s
    | .locked, none => { s with time := { s.time with phase := .holdover, holdAt := s.clk } }
    | .locked, some _ => if s.time.dist.toNat > s.time.maxHop.toNat then reportFar (enterAcquiring s) else s
    | _, _ => s

/-- LEADER_ELECTION. -/
def execLeaderElection (s : State) : Res := .next (settleTime (takeChoice s (elect s)))

/-- HOLDOVER_TIMEOUT: 1 ms in HOLDOVER without an upstream. The part is FREE, at the rate it has (R421). -/
def execHoldoverTimeout (s : State) : Res :=
  ifDue (s.time.phase == .holdover && s.time.upstream.isNone && s.passed s.time.holdAt 1000) s
    (note (cardsDue { s with time := { s.time with phase := .free, streak := 0 } }) 0x0901 3 unitService)

/-! ### Samples (R420) -/

/-- θ of a sample, in units of 2^-17 ns / 125: `ASYM` is in picoseconds. -/
def thetaOf (x : TimeSample) (asym : W16) : Int :=
  125 * (((x.rxAt : Int) - x.echo) - ((x.arrived : Int) - x.tx)) + 8192 * asym.toInt

/-- A number of nanoseconds in θ's units. -/
def thetaNs (n : Nat) : Int := n * 125 * 2 ^ 17

/-- Keep a number within plus and minus a bound. -/
def clampTo (b i : Int) : Int := if i > b then b else if i < -b then -b else i

/-- Nearest integer to a / b. -/
def roundDiv (a : Int) (b : Nat) : Int := (2 * a + b) / (2 * b : Nat)

/-- Step the time base by θ. -/
def stepTime (s : State) (theta : Int) : State :=
  { s with time := { s.time with
    now := wrap 96 ((s.time.now : Int) + theta * 2 ^ 15 / 125)
    steps := satInc s.time.steps } }

/-- Steer the increment by θ: f within 100 ppm, the rate within 200 ppm. -/
def steer (s : State) (theta : Int) : State :=
  let f := clampTo (2 ^ 43) (s.time.freq + 5 * theta)
  let rate := clampTo (2 ^ 44) (f + 5 * 2 ^ 14 * theta)
  { s with time := { s.time with
    freq := f
    inc := (nominalInc + roundDiv (nominalInc * rate) (625 * 2 ^ 47)).toNat } }

/-- What a sample on the upstream does. -/
def useSample (s : State) (port : Nat) (x : TimeSample) : State :=
  if s.time.upstream ≠ some port ∨ s.time.selfLead = true then s
  else
    let th := thetaOf x (tget s.time.asym port 0)
    let s0 := { s with time := { s.time with theta := th, firstUp := false } }
    let near := decide (th.natAbs ≤ (thetaNs 100).toNat)
    let far := decide (th.natAbs > (thetaNs 1000).toNat)
    match s.time.phase with
    | .free => s0
    | .acquiring =>
      let k := if near then s.time.streak + 1 else 0
      let s1 := stepTime { s0 with time := { s0.time with streak := k } } th
      if k ≥ 16 ∧ s.time.dist.toNat ≤ s.time.maxHop.toNat then enterLocked s1 else s1
    | .locked =>
      let s1 := steer s0 th
      if far then note (enterAcquiring s1) 0x0901 2 unitService else s1
    | .holdover =>
      let s1 := steer s0 th
      if far then note (enterAcquiring s1) 0x0901 2 unitService
      else if s.time.firstUp then { s1 with time := { s1.time with phase := .locked } }
      else s1

/-! ### Writes and the latching read (R423, R426) -/

/-- TEPOCH_WRITE: refused while the job is LOCKED. -/
def execTepochWrite (host : Nat) (value : W32) (s : State) : Res :=
  setupWrite host s <|
    if s.job.locked then note s 0x0C01 0 unitService
    else enterFree { s with time := { s.time with
      epoch := value, upstream := none, selfLead := false, leadValid := false, firstUp := false } }

/-- TSETHI_WRITE: the write sets the time, in FREE only. -/
def execTsethiWrite (host : Nat) (value : W32) (s : State) : Res :=
  setupWrite host s <|
    if s.time.phase ≠ .free then note s 0x0902 0 unitService
    else { s with time := { s.time with setHi := value, now := (value.toNat * 2 ^ 32 + s.time.setLo.toNat) * 2 ^ 32 } }

/-- BAR0 offset of `TNOWLO`. -/
def tnowloAt : Nat := 0x18020

/-- Read `TNOWLO`: the value, and `TNOWHI` and `TNOWF` latched from the same sample. -/
def latchNow (s : State) : W32 × State :=
  (BitVec.ofNat 32 s.ns,
    { s with time := { s.time with
      latchHi := BitVec.ofNat 32 (s.ns / 2 ^ 32)
      latchF := BitVec.ofNat 16 (s.time.now / 2 ^ 16) } })

/-- A register read reaches the part only over a link that is up. -/
def portRead (host : Nat) (s : State) (r : State) : Res :=
  onUnit 2 host <| if (s.hport host).up then .next r else .next s

/-- TNOWLO_READ. -/
def execTnowloRead (host : Nat) (s : State) : Res :=
  portRead host s ((latchNow s).2.emit (.barRead host tnowloAt (latchNow s).1))

end Sys2Proof.Machine
end

