-- ==== Sys2Proof/Machine/Links.lean ====
section
/-! DEFINITION. One link of the Rope fabric (R215 to R232): flits and their retry, credits, rope cards and port states,
and the writes of device number and routes. -/

namespace Sys2Proof.Machine

/-! ### Packets on the wire (R235) -/

/-- The 32-byte header of a packet. -/
def headerBytes (k : Packet) : Bytes :=
  layout 32 [(0, 1, k.typ.toNat), (1, 1, k.cls.toNat + 4 * k.path.toNat + 32 * b2n k.retry), (2, 1, k.payload.length / 16),
    (3, 1, k.hops.toNat), (4, 2, k.src.toNat), (6, 2, k.dst.toNat), (8, 4, k.seq.toNat), (12, 2, k.epoch.toNat),
    (14, 2, k.pitch.toNat), (16, 7, k.addr.toNat), (23, 1, k.aux.toNat), (24, 1, k.ring.toNat + 32 * b2n k.inPitch),
    (25, 3, k.tag.toNat), (28, 4, k.e2e.toNat)]

/-- Header and payload. -/
def packetBytes (k : Packet) : Bytes := headerBytes k ++ k.payload

/-- `AUX` or `INPITCH` set where R235 says zero, or an operation that R150 reserves (R247); the `AUX` of a reduction line
is R282's, and its engine discards what it does not know. -/
def fieldsMisused (t : Byte) (aux : Nat) (inp : Bool) : Bool :=
  (aux != 0 && t != tATOMIC && t != tSIGNAL && t != tRED) || (t == tATOMIC && decide (aux > 4)) ||
    (inp && (t == tSIGNAL || t == 0x20#8 || (classOfType t == some 1)))

/-- Read a packet whose bytes begin here; `reserved` notes a reserved bit, type or length, or a class that does not match
the type. -/
def parsePacket (b : Bytes) : Packet :=
  let t : Byte := BitVec.ofNat 8 (field b 0 1)
  let b1 := field b 1 1
  let n := field b 2 1 % 16
  let b24 := field b 24 1
  let odd := decide (b1 / 64 ≠ 0) || decide (field b 2 1 / 16 ≠ 0) || decide (field b 4 2 / 4096 ≠ 0) ||
    decide (field b 6 2 / 4096 ≠ 0) || decide (field b 16 7 / 2 ^ 52 ≠ 0) || decide (b24 / 64 ≠ 0)
  { typ := t, cls := BitVec.ofNat 2 b1, path := BitVec.ofNat 3 (b1 / 4), retry := bit b1 5, hops := BitVec.ofNat 8 (field b 3 1),
    src := BitVec.ofNat 12 (field b 4 2), dst := BitVec.ofNat 12 (field b 6 2), seq := BitVec.ofNat 32 (field b 8 4),
    epoch := BitVec.ofNat 16 (field b 12 2), pitch := BitVec.ofNat 16 (field b 14 2), addr := BitVec.ofNat 52 (field b 16 7),
    aux := BitVec.ofNat 8 (field b 23 1), ring := BitVec.ofNat 5 b24, inPitch := bit b24 5, tag := BitVec.ofNat 24 (field b 25 3),
    e2e := BitVec.ofNat 32 (field b 28 4), payload := slice b 32 (16 * n)
    reserved := odd || classOfType t != some (b1 % 4) || !lenOk t n || fieldsMisused t (field b 23 1) (bit b24 5) }

/-- Units of 16 bytes that a packet takes in a receive buffer (R223). -/
def packetUnits (k : Packet) : Nat := 2 + k.payload.length / 16

/-! ### Choosing a path at a transit part (R233) -/

/-- The first usable path at index `k` or after it, with wrap. -/
def nextPath (us : List (Nat × Nat)) (k : Nat) : Option (Nat × Nat) :=
  match us.find? (fun e => decide (k ≤ e.1)) with
  | some e => some e
  | none => us.head?

/-- Fabric die of a port. -/
def portDie (port : Nat) : W16 := unitFabric (port / 4)

/-- Hand a packet to the port its `PATH`, or the next usable path, names. -/
def routeOn (s : State) (k : Packet) (unit : W16) : State :=
  match nextPath (usablePaths s k.dst.toNat (k.typ == tMGMT)) k.path.toNat with
  | some e => queueAt s e.2 k
  | none => dropPacket s 3 unit

/-! ### Port states (R228) -/

/-- The link is trained: flits pass. -/
def linked (p : PortPhase) : Bool :=
  match p with
  | .off => false
  | .train => false
  | _ => true

/-- Put a port into a state; packets that waited for it and that it no longer carries take another path (R229, R233). -/
def setPhase (s : State) (n : Nat) (ph : PortPhase) : State :=
  let p := s.port n
  let stay := p.txq.filter (fun k => carries ph (k.typ == tMGMT))
  let move := p.txq.filter (fun k => !carries ph (k.typ == tMGMT))
  move.foldl (fun u k => routeOn u k (portDie n)) (s.setPort n { p with phase := ph, txq := stay })

/-- What a port forgets when its link goes: replay buffer and partial packets (R222). -/
def clearLink (p : Port) : Port := { p with kept := [], replay := [], rxBytes := [], txBytes := [], cardFresh := false, announced := 0 }

/-- The link goes down to TRAIN (R222, R226). -/
def linkDown (s : State) (n : Nat) : State :=
  let p := s.port n
  let down := if p.downs.toNat = 0xFFFF then p.downs else p.downs + 1
  note (setPhase (s.setPort n { clearLink p with downs := down }) n .train) 0x0406 0 (unitPort n)

/-- Entry to CARD: link sequences and credits start again (R223; DEDUCED, log entry 24). -/
def enterCard (s : State) (n : Nat) (narrow : Bool) : State :=
  let p := clearLink (s.port n)
  setPhase (s.setPort n { p with
    narrow := narrow, nextSeq := 0, facked := 0xFFFF, rxLast := 0xFFFF, nakOut := false, replayRun := 0
    sentUnits := [], gotCcnt := [], freed := [], stale := p.arrived.length, cardDue := true, card := none, cardAt := s.clk, rxAt := s.clk
    ackAt := s.clk }) n .card

/-- LINK_TRAINED: all eight lanes, or four of them where `DEGRADE_OK` allows (R215, R217). -/
def execLinkTrained (port : Nat) (locked : BitVec 8) (s : State) : Res :=
  onUnit 16 port <|
    let p := s.port port
    if p.phase ≠ .train then .next s
    else if locked = 0xFF then .next (enterCard s port false)
    else if p.degradeOk && (locked == 0x0F || locked == 0xF0) then .next (note (enterCard s port true) 0x0409 0 (unitPort port))
    else .next s

/-- LANE_LOCK_LOSS. -/
def execLaneLockLoss (port : Nat) (s : State) : Res :=
  onUnit 16 port <| ifDue (linked (s.port port).phase) s (linkDown s port)

/-- LINK_RX_TIMEOUT: no intact flit for 100 µs. -/
def execLinkRxTimeout (port : Nat) (s : State) : Res :=
  onUnit 16 port <| ifDue (linked (s.port port).phase && s.passed (s.port port).rxAt 100) s (linkDown s port)

/-- CARD_TIMEOUT: no card for 300 ms in HELD, TIME_HOLD, MGMT or UP (R226). -/
def execCardTimeout (port : Nat) (s : State) : Res :=
  onUnit 16 port <|
    let p := s.port port
    ifDue (linked p.phase && p.phase != .card && s.passed p.cardAt 300000) s (linkDown s port)

/-- The domain of a Rope port (R20). -/
def portDomain (port : Nat) : Nat := 132 + 5 * (port / 4) + port % 4

/-- A write of `PCTL`: `EN`, with which the port's domain goes on and off (R403), `DEGRADE_OK`, `RETRAIN`; refused while the part is unconfigured (R455). -/
def writePctl (s : State) (port : Nat) (v : W32) : State :=
  if s.sec.noCfg then note s 0x040A 0 unitHost else
  let s0 := s.setPort port { s.port port with en := bit v.toNat 0, degradeOk := bit v.toNat 1 }
  let dm := portDomain port
  let s1 := { s0 with pwr := { s0.pwr with
    domains := if bit v.toNat 0 then insertNat dm s0.pwr.domains else s0.pwr.domains.filter (· != dm) } }
  let p := s1.port port
  if !bit v.toNat 0 then setPhase (s1.setPort port (clearLink p)) port .off
  else if p.phase = .off then setPhase s1 port .train
  else if bit v.toNat 2 && linked p.phase then setPhase (s1.setPort port (clearLink p)) port .train
  else s1

/-- PCTL_EN_WRITE. -/
def execPctlEnWrite (host port : Nat) (value : W32) (s : State) : Res :=
  onUnit 16 port <| setupWrite host s (writePctl s port (value &&& ~~~4#32))

/-- PCTL_RETRAIN: the other fields are written as they stand. -/
def execPctlRetrain (host port : Nat) (s : State) : Res :=
  onUnit 16 port <| setupWrite host s
    (let p := s.port port
     writePctl s port (BitVec.ofNat 32 (b2n p.en + 2 * b2n p.degradeOk + 4)))

/-! ### Sending flits (R218 to R224) -/

/-- The controller's own pace (R321): a MATCH group does not count. -/
def ownPace (s : State) : Nat := s.pwr.own.toNat

/-- The pace a part announces in every flit (R319); in boost it announces none (R394). -/
def paceAnnounced (s : State) : Nat := if s.pwr.boost || decide (ownPace s ≥ 64) then 0 else max (ownPace s) 16

/-- The 256 bytes of a flit of a port. -/
def flitBytes (s : State) (port ftype fseq : Nat) (payload : Bytes) : Bytes :=
  let p := s.port port
  let c := p.cclass.toNat
  let h := ftype + fseq % 2 ^ 16 * 2 ^ 2 + p.rxLast.toNat * 2 ^ 18 + b2n p.nakOut * 2 ^ 34 + c * 2 ^ 35 +
    (tget p.freed c 0).toNat * 2 ^ 37 + paceAnnounced s * 2 ^ 53
  let b := leBytes 8 h ++ slice payload 0 240
  b ++ leBytes 8 (crc64 b)

/-- A flit goes out; the reported credit class rotates. -/
def putFlit (s : State) (port ftype fseq : Nat) (payload : Bytes) : State :=
  (s.setPort port { s.port port with cclass := (s.port port).cclass + 1 }).emit (.flit port (flitBytes s port ftype fseq payload))

/-- Send a data or control flit for the first time and keep it. -/
def sendKept (s0 : State) (port : Nat) (control : Bool) (payload : Bytes) : State :=
  let p := s0.port port
  let s := clearMark s0 (.replay port p.nextSeq)
  let s1 := putFlit s port (if control then 2 else 0) p.nextSeq.toNat payload
  s1.setPort port { s1.port port with
    nextSeq := p.nextSeq + 1
    kept := p.kept ++ [{ fseq := p.nextSeq, control := control, payload := payload }]
    ackAt := if p.kept.isEmpty then s.clk else p.ackAt }

/-- The payload of a time sample (R224). -/
def samplePayload (s : State) (port : Nat) : Bytes :=
  let x := (s.port port).sample
  layout 240 [(0, 8, stampNow s / 2 ^ 16), (8, 2, stampNow s % 2 ^ 16), (10, 8, x.tx / 2 ^ 16), (18, 2, x.tx % 2 ^ 16),
    (20, 8, x.arrived / 2 ^ 16), (28, 2, x.arrived % 2 ^ 16), (30, 2, s.time.leadNum.toNat + 2 ^ 15 * b2n s.time.leadValid),
    (32, 1, s.time.dist.toNat), (33, 1, b2n (timeLocked s))]

/-- The next sequence the port will use (R218): in a replay that of the next flit to be sent again. -/
def comingSeq (p : Port) : W16 :=
  match p.replay with
  | f :: _ => f.fseq
  | [] => p.nextSeq

/-- Send an idle flit: it carries a time sample and the sequence the next flit will take. -/
def sendIdle (s : State) (port : Nat) : State := putFlit s port 1 (comingSeq (s.port port)).toNat (samplePayload s port)

/-- Credit units free for a class (R223). -/
def creditFree (p : Port) (c : Nat) : Nat := 4096 - ((tget p.sentUnits c 0) - (tget p.gotCcnt c 0)).toNat

/-- The first waiting packet of a class that has credit for its first one. -/
def nextPacket (p : Port) : List Packet → List Nat → Option Packet
  | [], _ => none
  | k :: rest, blocked =>
    if blocked.contains k.cls.toNat then nextPacket p rest blocked
    else if packetUnits k ≤ creditFree p k.cls.toNat then some k
    else nextPacket p rest (k.cls.toNat :: blocked)

/-- Take a packet out of a queue, once. -/
def removeOnce (k : Packet) : List Packet → List Packet
  | [] => []
  | x :: r => if x = k then r else x :: removeOnce k r

/-- Lay packets end to end until a payload is full or none may start. -/
def layPackets : Nat → Port → Port
  | 0, p => p
  | n + 1, p =>
    if p.txBytes.length ≥ 240 then p
    else
      match nextPacket p p.txq [] with
      | none => p
      | some k => layPackets n { p with
          txq := removeOnce k p.txq
          txBytes := p.txBytes ++ packetBytes k
          sentUnits := tset p.sentUnits k.cls.toNat (tget p.sentUnits k.cls.toNat 0 + BitVec.ofNat 16 (packetUnits k)) }

/-- One flit slot passes; every 64 slots the count of those that carried packets starts again (R392). -/
def slotPasses (p : Port) : Port :=
  { p with slots := (p.slots + 1) % 64, started := if p.slots + 1 ≥ 64 then 0 else p.started }

/-- The link share lets the slot carry packets (R392; DEDUCED, log entry 119): no share is set before RUN. -/
def shareLets (s : State) (p : Port) : Bool := s.pwr.link == 0 || decide (p.started < s.pwr.link.toNat)

/-- FLIT_SEND: a replayed flit first, which is discarded when its buffer has lost it (R434); then a data flit while fewer than 4,096 are unacknowledged and the link share lets it; else an
idle flit. -/
def execFlitSend (port : Nat) (s0 : State) : Res :=
  onUnit 16 port <|
    if !linked (s0.port port).phase then .next s0
    else
      let mayStart := shareLets s0 (s0.port port)
      let s := s0.setPort port (slotPasses (s0.port port))
      let p := s.port port
      match p.replay with
      | f :: rest =>
        let c := bufferRead (s.setPort port { p with replay := rest }) (.replay port f.fseq) (portDie port)
        if c.1 then .next (sendIdle c.2 port)
        else .next (putFlit c.2 port (if f.control then 2 else 0) f.fseq.toNat f.payload)
      | [] =>
        if p.kept.length ≥ 4096 || !mayStart then .next (sendIdle s port)
        else
          let q := layPackets 8 p
          if q.txBytes.isEmpty then .next (sendIdle s port)
          else .next (sendKept (s.setPort port { q with
            txBytes := q.txBytes.drop 240, started := if p.slots = 0 then 0 else p.started + 1 }) port false (q.txBytes.take 240))

/-- TIME_SAMPLE_SEND: after each microsecond of the time base. -/
def execTimeSampleSend (port : Nat) (s : State) : Res :=
  onUnit 16 port <|
    let p := s.port port
    ifDue (linked p.phase && decide (s.ns / 1000 > p.sampleUs)) s
      (sendIdle (s.setPort port { p with sampleUs := s.ns / 1000 }) port)

/-! ### Rope cards (R225 to R227) -/

/-- Version of an image: `ITYPE` 1 to 6. -/
def imageVersion (s : State) (itype : Nat) : Byte × Byte × W16 := s.sec.versions.getD (itype - 1) (0, 0, 0)

/-- The card of a port. -/
def cardBytes (s : State) (port : Nat) : Bytes :=
  let v := imageVersion s 5
  layout 64 [(0, 1, 1), (1, 1, port), (2, 2, s.fab.devNum.toNat + 2 ^ 15 * b2n s.fab.devValid), (4, 1, v.1.toNat),
    (5, 1, v.2.1.toNat), (6, 2, v.2.2.toNat), (8, 4, s.fab.domain.toNat), (12, 4, s.sec.feed.toNat), (16, 4, s.sec.rack.toNat),
    (20, 4, s.time.epoch.toNat), (24, 8, s.job.jepoch.toNat), (32, 16, s.job.digest.toNat), (48, 1, b2n (timeLocked s))]

/-- Read a received card. -/
def parseCard (b : Bytes) : Card :=
  { cver := BitVec.ofNat 8 (field b 0 1), port := BitVec.ofNat 4 (field b 1 1), devNum := BitVec.ofNat 12 (field b 2 2),
    valid := bit (field b 2 2) 15, fwMajor := BitVec.ofNat 8 (field b 4 1), fwMinor := BitVec.ofNat 8 (field b 5 1),
    fwPatch := BitVec.ofNat 16 (field b 6 2), domain := BitVec.ofNat 32 (field b 8 4), feed := BitVec.ofNat 32 (field b 12 4),
    rack := BitVec.ofNat 32 (field b 16 4), tepoch := BitVec.ofNat 32 (field b 20 4), jepoch := BitVec.ofNat 64 (field b 24 8),
    digest := BitVec.ofNat 128 (field b 32 16), tlock := bit (field b 48 1) 0
    reserved := decide (field b 1 1 / 16 ≠ 0) || decide (bits (field b 2 2) 14 12 ≠ 0) || decide (field b 48 1 / 2 ≠ 0) || !allZero b 49 15 }

/-- ROPE_CARD_SEND: on entry to CARD, after a change, and every 100 ms. -/
def execRopeCardSend (port : Nat) (s : State) : Res :=
  onUnit 16 port <|
    let p := s.port port
    ifDue (linked p.phase && decide (p.kept.length < 4096) && p.replay.isEmpty && (p.cardDue || s.passed p.cardSentAt 100000)) s
      (sendKept (s.setPort port { p with cardDue := false, cardSentAt := s.clk }) port true (slice (cardBytes s port) 0 240))

/-- The first check of R227 that a card fails, 7 when all pass. -/
def cardCheck (s : State) (c : Card) : Nat :=
  if c.cver ≠ 1 ∨ c.reserved = true then 1
  else if !(c.domain == s.fab.domain || (s.fab.partner != 0 && c.domain == s.fab.partner)) then 2
  else if c.fwMajor ≠ (imageVersion s 5).1 then 3
  else if !(c.valid && c.devNum != s.fab.devNum && s.fab.devValid) then 4
  else if !(c.tepoch == s.time.epoch && c.tlock && timeLocked s) then 5
  else if !(c.jepoch == s.job.jepoch && c.digest == s.job.digest) then 6
  else 7

/-- ROPE_CARD_EVALUATE. -/
def execRopeCardEvaluate (port : Nat) (s : State) : Res :=
  onUnit 16 port <|
    let p := s.port port
    match p.card with
    | none => .next s
    | some c =>
      if !p.cardFresh || !linked p.phase then .next s
      else
        let p1 := { p with
          cardFresh := false, peer := c.devNum, pport := c.port
          pair := s.fab.partner != 0 && c.domain == s.fab.partner && c.domain != s.fab.domain }
        let k := cardCheck s c
        let s1 := s.setPort port p1
        let held (d : Nat) (ph : PortPhase) : State :=
          note (setPhase (s1.setPort port { p1 with why := BitVec.ofNat 3 d }) port ph) 0x0405 d (unitPort port)
        if k ≤ 4 then .next (held k .held)
        else if k = 5 then
          (if p.phase = .timeHold then .next s1 else .next (note (setPhase s1 port .timeHold) 0x0901 1 (unitPort port)))
        else if k = 6 then .next (held 5 .mgmt)
        else .next (setPhase s1 port .up)

/-! ### Receiving flits -/

/-- Start sending again from the flit after `FACK`; the eighth start in a row at one `FSEQ` takes the link down (R221,
R222). -/
def startReplay (s : State) (port : Nat) : State :=
  let p := s.port port
  match p.kept with
  | [] => s
  | f :: _ =>
    let run := if p.replayRun ≠ 0 ∧ p.replayAt = f.fseq then p.replayRun + 1 else 1
    if run ≥ 8 then linkDown s port
    else s.setPort port { p with replay := p.kept, replayAt := f.fseq, replayRun := run, replays := satInc p.replays, ackAt := s.clk }

/-- LINK_REPLAY_TIMEOUT. -/
def execLinkReplayTimeout (port : Nat) (s : State) : Res :=
  onUnit 16 port <|
    let p := s.port port
    ifDue (linked p.phase && !p.kept.isEmpty && s.passed p.ackAt 10) s (startReplay s port)

/-- `FACK` covers a link sequence. -/
def ackCovers (fack f : W16) : Bool := decide ((fack - f).toNat < 2 ^ 15)

/-- Take `FACK` and `NAK`. -/
def takeAck (s : State) (port : Nat) (fack : W16) (nak : Bool) : State :=
  let p := s.port port
  let kept := p.kept.filter (fun f => !ackCovers fack f.fseq)
  let moved := decide (kept.length < p.kept.length)
  let p1 := { p with
    kept := kept
    replay := p.replay.filter (fun f => !ackCovers fack f.fseq)
    facked := if moved then fack else p.facked
    ackAt := if moved then s.clk else p.ackAt }
  let s1 := s.setPort port p1
  let again := match kept with | f :: _ => !(p1.replay.isEmpty) && p1.replayAt == f.fseq | [] => true
  if nak && !again then startReplay s1 port else s1

/-- What drops a packet as a port receives it: a reserved field, a job packet on a port that is not UP, a job epoch that
is not the part's (R230, R234). -/
def admitDetail (s : State) (port : Nat) (k : Packet) : Nat :=
  let job := k.typ != tMGMT
  if k.reserved then 6
  else if !carries (s.port port).phase (!job) then 5
  else if job && k.typ != tACK && k.epoch != BitVec.ofNat 16 s.job.jepoch.toNat then 4
  else 0

/-- Home fabric die of a stream at its destination (R238). -/
def homeDie (src cls : Nat) : W16 := unitFabric ((src + cls) % 4)

/-- Count units of a class as freed. -/
def freeUnits (s : State) (port : Nat) (k : Packet) : State :=
  let p := s.port port
  s.setPort port { p with freed := tset p.freed k.cls.toNat (tget p.freed k.cls.toNat 0 + BitVec.ofNat 16 (packetUnits k)) }

/-- Take whole packets from the bytes received; a zero type where a packet would start ends the payload (DEDUCED, log entry 23). -/
def takePackets : Nat → Nat → State → State
  | 0, _, s => s
  | n + 1, port, s =>
    let p := s.port port
    let b := p.rxBytes
    if b.isEmpty then s
    else if field b 0 1 = 0 then s.setPort port { p with rxBytes := [] }
    else
      let len := 32 + 16 * (field b 2 1 % 16)
      if b.length < len then s
      else
        let k := parsePacket b
        let s1 := s.setPort port { p with rxBytes := b.drop len }
        let d := admitDetail s port k
        takePackets n port (
          if d = 0 then s1.setPort port { s1.port port with arrived := p.arrived ++ [k] }
          else dropPacket (freeUnits s1 port k) d (if d = 4 then homeDie k.src.toNat k.cls.toNat else portDie port))

/-- Take an accepted payload. -/
def takePayload (s : State) (port : Nat) (control : Bool) (payload : Bytes) : State :=
  let p := s.port port
  if control then s.setPort port { p with card := some (parseCard payload), cardFresh := true, cardAt := s.clk }
  else takePackets 16 port (s.setPort port { p with rxBytes := p.rxBytes ++ payload })

/-- Keep and use a time sample. -/
def takeSample (s : State) (port : Nat) (b : Bytes) : State :=
  let x : TimeSample := {
    valid := true
    tx := field b 0 8 * 2 ^ 16 + field b 8 2
    echo := field b 10 8 * 2 ^ 16 + field b 18 2
    rxAt := field b 20 8 * 2 ^ 16 + field b 28 2
    arrived := stampNow s
    leader := BitVec.ofNat 12 (field b 30 2)
    leaderValid := bit (field b 30 2) 15
    ldist := BitVec.ofNat 8 (field b 32 1)
    locked := bit (field b 33 1) 0
    at_ := s.clk }
  let s1 := s.setPort port { s.port port with sample := x }
  if samplesUsed (s.port port).phase then useSample s1 port x else s1

/-- The header and check of a flit are intact (R219). -/
def flitIntact (b : Bytes) : Bool :=
  b.length == 256 && crc64 (slice b 0 248) == field b 248 8 && field b 0 1 % 4 != 3 && decide (field b 7 1 / 16 = 0)

/-- Take the fields every intact flit carries. -/
def takeHeader (s : State) (port h : Nat) : State :=
  let p := s.port port
  let pace := bits h 59 53
  let good := pace == 0 || (decide (16 ≤ pace) && decide (pace ≤ 64))
  let s1 := s.setPort port { p with
    rxAt := s.clk
    gotCcnt := tset p.gotCcnt (bits h 36 35) (BitVec.ofNat 16 (bits h 52 37))
    announced := if good then BitVec.ofNat 7 pace else p.announced }
  let s2 := if good then s1 else dropPacket s1 6 (portDie port)
  takeAck s2 port (BitVec.ofNat 16 (bits h 33 18)) (bit h 34)

/-- Count the codewords of a result that begin in a flit. -/
def countFec (fec : List Codeword) (r : FecResult) (n : W32) : W32 :=
  (fec.filter (fun c => c.first && c.result == r)).foldl (fun m _ => satInc m) n

/-- FLIT_RECEIVE: each codeword is counted once, at the first flit it touches; one that cannot be corrected discards every
flit it touches (R216). -/
def execFlitReceive (port : Nat) (flit : Bytes) (fec : List Codeword) (s : State) : Res :=
  onUnit 16 port <|
    let p := s.port port
    if !linked p.phase then .next s
    else
      let s1 := s.setPort port { p with fecc := countFec fec .corrected p.fecc, fecu := countFec fec .uncorrectable p.fecu }
      let nak (u : State) : State := u.setPort port { u.port port with nakOut := true }
      if fec.any (fun c => c.result == .uncorrectable) ∨ flitIntact flit = false then .next (nak s1)
      else
        let h := field flit 0 8
        let s2 := takeHeader s1 port h
        let q := s2.port port
        let fseq : W16 := BitVec.ofNat 16 (bits h 17 2)
        let body := slice flit 8 240
        if !linked q.phase then .next s2
        else if h % 4 = 1 then
          let s3 := takeSample s2 port body
          .next (if fseq = q.rxLast + 1 then s3 else nak s3)
        else if fseq = q.rxLast + 1 then
          .next (takePayload (s2.setPort port { q with rxLast := fseq, nakOut := false }) port (h % 4 == 2) body)
        else .next (nak s2)

/-! ### Device number and routes (R231, R232) -/

/-- FDEV_WRITE. -/
def execFdevWrite (host : Nat) (value : W32) (s : State) : Res :=
  setupWrite host s <|
    let v := bit value.toNat 15
    let n := BitVec.ofNat 12 value.toNat
    if s.job.locked then note s 0x0C01 0 unitHost
    else if s.fab.ports.any (fun p => p.2.phase != .off) || (v && n == 0xFFF) then note s 0x040A 0 unitHost
    else cardsDue { s with fab := { s.fab with devNum := n, devValid := v } }

/-- RHI_WRITE: the entry takes effect whole. -/
def execRhiWrite (host device : Nat) (value : W32) (s : State) : Res :=
  onUnit 4095 device <| setupWrite host s
    (let e : Route := {
       paths := BitVec.ofNat 40 ((tget s.fab.rlo device 0).toNat + bits value.toNat 9 0 * 2 ^ 30)
       valid := bit value.toNat 10 }
     { s with fab := { s.fab with routes := tset s.fab.routes device e } })

end Sys2Proof.Machine
end

