-- ==== Sys2Proof/Machine/Transport.lean ====
section
/-! DEFINITION. The transport layer (R233, R234, R237 to R242): forwarding, reordering at the home die, acknowledgements
and retransmission. Each arrival command takes, at its port, the first packet of a class. -/

namespace Sys2Proof.Machine

/-! ### The first packet of a port -/

/-- The packet is for this part. -/
def forHere (s : State) (k : Packet) : Bool := s.fab.devValid && k.dst == s.fab.devNum

/-- Take an arrived packet away: its units of the receive buffer are freed, unless it arrived before the counts were
last reset (R223). -/
def takeArrived (s : State) (port : Nat) (k : Packet) : State :=
  let p := s.port port
  let old := decide (p.arrived.idxOf k < p.stale)
  let s1 := s.setPort port { p with arrived := removeOnce k p.arrived, stale := if old then p.stale - 1 else p.stale }
  if old then s1 else freeUnits s1 port k

/-- The first packet of each class in a receive buffer: no class waits behind another (R223). -/
def classHeads (seen : List (BitVec 2)) : List Packet → List Packet
  | [] => []
  | k :: r => if seen.contains k.cls then classHeads seen r else k :: classHeads (k.cls :: seen) r

/-- The packet that an arrival command takes: the first of a class that is of its kind. -/
def arrivedFor (s : State) (port : Nat) (isMine : Packet → Bool) : Option Packet :=
  (classHeads [] (s.port port).arrived).find? isMine

/-- Take the packet of an arrival command; none when its buffer has lost it, and it is discarded (R434). -/
def takeIntact (s : State) (port : Nat) (k : Packet) : Bool × State :=
  let c := bufferRead s (.receive port k.cls) (portDie port)
  (!c.1, if c.1 then takeArrived (clearMark c.2 (.receive port k.cls)) port k else takeArrived c.2 port k)

/-- Serve the first arrived packet of a class when it is of the kind. -/
def onArrived (port : Nat) (s : State) (isMine : Packet → Bool) (body : Packet → State → State) : Res :=
  onUnit 16 port <|
    match arrivedFor s port isMine with
    | none => .next s
    | some k =>
      let c := takeIntact s port k
      .next (if c.1 then body k c.2 else c.2)

/-- Serve the first arrived packet of a type for this part. -/
def onType (typ : Byte) (port : Nat) (s : State) (body : Packet → State → State) : Res :=
  onArrived port s (fun k => forHere s k && k.typ == typ) body

/-! ### Transit (R233, R234) -/

/-- Forward a packet, or drop it: no entry, no hops left, no usable path. -/
def forward (s : State) (port : Nat) (k : Packet) : State :=
  if !routed s k.dst.toNat then dropPacket s 1 (portDie port)
  else if k.hops = 0 then dropPacket s 2 (portDie port)
  else routeOn s { k with hops := k.hops - 1 } (portDie port)

/-- PACKET_FORWARD. -/
def execPacketForward (port : Nat) (s : State) : Res :=
  onArrived port s (fun k => !forHere s k) (fun k u => forward u port k)

/-! ### The receiving side of a stream (R237 to R239) -/

/-- The receiving side of a stream; one not yet used expects sequence 0. -/
def rxOf (s : State) (src cls : Nat) : RxStream :=
  (s.fab.rx.find? (fun x => x.src == src && x.cls == cls)).getD { src := src, cls := cls }

/-- Replace a stream's receiving side. -/
def setRx (s : State) (x : RxStream) : State :=
  { s with fab := { s.fab with rx := x :: s.fab.rx.filter (fun y => !(y.src == x.src && y.cls == x.cls)) } }

/-- Packets in the reorder buffer of a home die. -/
def reorderUsed (s : State) (die : Nat) : Nat :=
  ((s.fab.rx.filter (fun x => (x.src + x.cls) % 4 == die)).map (fun x => x.held.length)).sum

/-- Deliver every held packet that follows in order. -/
def deliverHeld : Nat → RxStream → RxStream
  | 0, x => x
  | n + 1, x =>
    match x.held.find? (fun k => k.seq == x.expected) with
    | none => x
    | some k => deliverHeld n { x with
        expected := x.expected + 1
        held := x.held.filter (fun q => q.seq != k.seq)
        delivered := x.delivered ++ [(k, false)] }

/-- A duplicate READ or ATOMIC goes on to the memory layer; an ATOMIC whose original waits to be applied does not
(R238, R256). -/
def takeDuplicate (x : RxStream) (k : Packet) : RxStream :=
  let waits := x.delivered.any (fun d => d.1.seq == k.seq && !d.2)
  if k.typ = tREAD ∨ (k.typ = tATOMIC ∧ waits = false) then { x with delivered := x.delivered ++ [(k, true)] } else x

/-- The held packets of a stream are read; one that its buffer has lost is discarded (R434). -/
def readHeld (s : State) (src cls : Nat) : State :=
  (rxOf s src cls).held.foldl (fun u k =>
    let c := bufferRead u (.reorder src cls k.seq) (homeDie src cls)
    if c.1 then
      let x := rxOf c.2 src cls
      setRx (clearMark c.2 (.reorder src cls k.seq)) { x with held := x.held.filter (fun q => q.seq != k.seq) }
    else c.2) s

/-- A packet of a stream reaches its home die (R238). -/
def reorder (s0 : State) (k : Packet) : State :=
  let src := k.src.toNat
  let cls := k.cls.toNat
  let s := if (k.seq - (rxOf s0 src cls).expected).toNat = 0 then readHeld s0 src cls else s0
  let x := rxOf s src cls
  let ahead := (k.seq - x.expected).toNat
  if ahead = 0 then
    setRx s (deliverHeld (x.held.length) { x with expected := x.expected + 1, delivered := x.delivered ++ [(k, false)] })
  else if ahead < 2 ^ 31 then
    (if x.held.any (fun q => q.seq == k.seq) then s
     else if reorderUsed s ((src + cls) % 4) ≥ 4096 then dropPacket s 7 (homeDie src cls)
     else setRx s { x with held := x.held ++ [k] })
  else setRx s (takeDuplicate x k)

/-- PACKET_REORDER. -/
def execPacketReorder (port : Nat) (s : State) : Res :=
  onArrived port s (fun k => forHere s k && k.cls != 1) (fun k u => reorder u k)

/-- The point an ACK carries: the next expected sequence, but no request that is not yet applied is covered (R239,
R249 step 3). -/
def ackPoint (x : RxStream) : W32 :=
  match x.delivered.find? (fun d => !d.2) with
  | some d => d.1.seq
  | none => x.expected

/-- ACK_SEND: at any time within the bounds of R239. The stream's class stands in the two low bits of the tag (DEDUCED, log entry 26). -/
def execAckSend (src cls : Nat) (s : State) : Res :=
  match s.fab.rx.find? (fun x => x.src == src && x.cls == cls) with
  | none => .next s
  | some x => .next (sendReply s src
      { typ := tACK, cls := 1, src := 0, dst := 0, seq := ackPoint x, tag := BitVec.ofNat 24 (cls % 4) })

/-! ### The source side (R239 to R242) -/

/-- A stream that has been used. -/
def txFind (s : State) (dst cls : Nat) : Option TxStream := s.fab.tx.find? (fun x => x.dst == dst && x.cls == cls)

/-- Note the last sending of a tagged request and its retransmission count. -/
def noteSending (s : State) (k : Packet) (again : Nat) : State :=
  { s with fab := { s.fab with outstanding := s.fab.outstanding.map fun o =>
    if o.tag == k.tag.toNat && o.packet.dst == k.dst && k.cls == 0 then { o with sentAt := s.clk, again := again } else o } }

/-- Send packets that waited for room in the window (R240). -/
def sendWaiting : Nat → State → Nat → Nat → State
  | 0, s, _, _ => s
  | n + 1, s, dst, cls =>
    let x := txOf s dst cls
    match x.unacked.find? (fun e => !e.sent) with
    | none => s
    | some e =>
      if !windowOpen x then s
      else
        let put (q : SentPacket) : SentPacket := if q.packet.seq == e.packet.seq then { q with sent := true, at_ := s.clk } else q
        let s1 := setTx s { x with unacked := x.unacked.map put }
        sendWaiting n (noteSending (dispatchPacket s1 e.packet 0) e.packet 0) dst cls

/-- Packets that a resend queued and that still wait at their ports are skipped once an ACK covers them (R240). -/
def skipResends (s : State) (x : TxStream) (point : W32) : State :=
  let gone := x.rerun.filter (fun q => reached point (q + 1))
  let skip (k : Packet) : Bool :=
    k.retry && k.src == s.fab.devNum && k.dst.toNat == x.dst && k.cls.toNat == x.cls && gone.contains k.seq
  if gone.isEmpty then s
  else { s with fab := { s.fab with ports := s.fab.ports.map (fun p => (p.1, { p.2 with txq := p.2.txq.filter (fun k => !skip k) })) } }

/-- Advance a stream's acknowledged point. -/
def advanceTx (s : State) (x : TxStream) (point : W32) : State :=
  let rest := x.unacked.filter (fun e => !(reached point (e.packet.seq + 1)))
  let s1 := setTx (skipResends s x point) { x with
    acked := point, unacked := rest, rerun := x.rerun.filter (fun q => !reached point (q + 1)), retries := 0, broken := false
    advance := s.clk }
  sendWaiting rest.length s1 x.dst x.cls

/-- Note at a stream the last sending of one of its unacknowledged packets and its retransmission count. -/
def noteResent (s : State) (dst cls : Nat) (seq : W32) (again : Nat) : State :=
  let x := txOf s dst cls
  setTx s { x with unacked := x.unacked.map (fun q => if q.packet.seq == seq then { q with again := again, at_ := s.clk } else q) }

/-- Send again one packet of a stream. -/
def resend (s : State) (dst cls : Nat) (e : SentPacket) : State :=
  let s1 := noteResent s dst cls e.packet.seq (e.again + 1)
  noteSending (dispatchPacket s1 { e.packet with retry := true } (e.again + 1)) e.packet (e.again + 1)

/-- The instant from which a stream's retry timer runs. -/
def retryFrom (x : TxStream) : Option Nat := (x.unacked.find? (·.sent)).map (fun e => max e.at_ x.advance)

/-- The stream breaks (R242). -/
def breakStream (s : State) (x : TxStream) : State :=
  note (setTx s { x with broken := true, resentAt := s.clk }) 0x0407 0 (sourceUnit x.dst x.cls)

/-- STREAM_RETRY_EXPIRE: every unacknowledged packet that was sent is queued again in order, an ACK that comes before one
has left its port takes it back; the expiry after the eighth breaks the stream (R240; DEDUCED, log entry 121). -/
def execStreamRetryExpire (dst cls : Nat) (s : State) : Res :=
  match txFind s dst cls with
  | none => .next s
  | some x =>
    match retryFrom x with
    | none => .next s
    | some t =>
      if x.broken ∨ s.passed t 200 = false then .next s
      else if x.retries ≥ 8 then .next (breakStream s x)
      else .next ((x.unacked.filter (·.sent)).foldl (fun u e => resend u dst cls e) (setTx s { x with retries := x.retries + 1, rerun := (x.unacked.filter (·.sent)).map (·.packet.seq) }))

/-- BROKEN_STREAM_RESEND: the oldest unacknowledged packet, once per millisecond. -/
def execBrokenStreamResend (dst cls : Nat) (s : State) : Res :=
  match txFind s dst cls with
  | none => .next s
  | some x =>
    match x.unacked.find? (·.sent) with
    | none => .next s
    | some e =>
      ifDue (x.broken && s.passed x.resentAt 1000) s (resend (setTx s { x with resentAt := s.clk }) dst cls e)

/-- A request of this tag has left the part at least once. -/
def wasSent (s : State) (o : Outstanding) : Bool :=
  (txOf s o.packet.dst.toNat 0).unacked.all (fun e => e.packet.seq != o.packet.seq || e.packet.tag != o.packet.tag || e.sent)

/-- REQUEST_RETRY_EXPIRE: a READ or ATOMIC without its reply is sent again alone, whether acknowledged or not, and counts
as a retry of its stream (R241; DEDUCED, log entry 27). -/
def execRequestRetryExpire (tag : Nat) (s : State) : Res :=
  match outstandingOf s tag with
  | none => .next s
  | some o =>
    let x := txOf s o.packet.dst.toNat 0
    let due := (o.packet.typ == tREAD || o.packet.typ == tATOMIC) && o.reply == .none && wasSent s o && s.passed o.sentAt 200
    if !due || x.broken then .next s
    else if x.retries ≥ 8 then .next (breakStream s x)
    else
      let put (q : Outstanding) : Outstanding := if q.tag == tag then { q with again := q.again + 1, sentAt := s.clk } else q
      let s1 := noteResent (setTx s { x with retries := x.retries + 1 }) o.packet.dst.toNat 0 o.packet.seq (o.again + 1)
      let s2 := { s1 with fab := { s1.fab with outstanding := s1.fab.outstanding.map put } }
      .next (dispatchPacket s2 { o.packet with retry := true } (o.again + 1))

end Sys2Proof.Machine
end

