-- ==== Sys2Proof/Machine/Remote.lean ====
section
/-! DEFINITION. What this part does with the requests of other parts (R245 to R249, R255, R256, R261 to R263, R271) and
the register writes of the remote line cache (R270, R272). Each request command takes the first delivered packet of the
source's request stream, so requests are applied in stream order. -/

namespace Sys2Proof.Machine

/-! ### Serving the request stream of a source (R249) -/

/-- The first delivered packet of a stream, and whether it is a duplicate. -/
def firstDelivered (s : State) (src cls : Nat) : Option (Packet × Bool) := (rxOf s src cls).delivered.head?

/-- Take the first delivered packet of a stream away: it has been applied. -/
def takeDelivered (s : State) (src cls : Nat) : State :=
  let x := rxOf s src cls
  setRx s { x with delivered := x.delivered.tail }

/-- Serve the first delivered packet of a stream when it is of the type. The body gets the packet, whether it is a
duplicate, the state in which it still waits and the state without it. -/
def onDelivered (typ : Byte) (cls src : Nat) (s : State) (body : Packet → Bool → State → State → State) : Res :=
  match firstDelivered s src cls with
  | none => .next s
  | some (k, dup) => .next (if k.typ = typ then body k dup s (takeDelivered s src cls) else s)

/-! ### The target of a request -/

/-- `SPACE` of a packet's address. -/
def packetSpace (k : Packet) : Nat := bits k.addr.toNat 51 48
/-- `OFFSET` of a packet's address. -/
def packetOff (k : Packet) : Nat := bits k.addr.toNat 47 0
/-- The aligned line that a request names (R244). -/
def lineOff (k : Packet) : Nat := packetOff k / 128 * 128

/-- The address as this part names it. -/
def homeAddr (k : Packet) : W64 := mkAddr 0xFFF (packetSpace k) (packetOff k)

/-- The stage that a request with `INPITCH` belongs to (R271). -/
def packetKey (k : Packet) : Option StageKey := if k.inPitch then some (k.src.toNat, k.ring.toNat, k.pitch) else none

/-- The unit that judges an access: the tile, or the compute die of the memory controller (R496). -/
def memoryUnit (s : State) (space off : Nat) : W16 :=
  if space = 1 then unitTile (off / 2 ^ 24) else unitCompute ((placeOf s off).1 / 64)

/-- What refuses a request of another part, in the order of R497: the address, then the checks of its memory unit. -/
def remoteRefusal (s : State) (k : Packet) (acc : Acc) (off len : Nat) : Nat :=
  if !(decide (packetSpace k ≤ 1) && rangeOk (packetSpace k) off len) then 0x0105
  else refusal s (.remote k.src.toNat) acc (packetKey k) (packetSpace k) off len

/-- A request is refused: it moves nothing, is logged and counted here, and is answered with a STATUS (R263, R344). -/
def refuseRemote (s : State) (k : Packet) (code detail : Nat) : State :=
  let s1 := if code = 0x0404 then { s with fab := { s.fab with ownViol := satInc s.fab.ownViol } } else s
  let s2 := match packetKey k with
    | some key => if code = 0x0604 then modStage s1 key (fun g => { g with refused := true }) else s1
    | none => s1
  let s3 := record s2 {
    code := code, detail := detail, unit := memoryUnit s (packetSpace k) (packetOff k), kind := 1
    data := dataAddr (homeAddr k) k.src.toNat, remote := true }
  answerStatus s3 k code

/-- A participant creates its stage when the first request of it arrives (R346). -/
def openStage (s : State) (k : Packet) : State :=
  match packetKey k with
  | some key => modStage s key id
  | none => s

/-! ### READ, WRITE, WRITEM (R245) -/

/-- READ: the whole line, staged bytes over committed ones for the stage's own part; a duplicate is answered afresh
(R257). -/
def execRead (src : Nat) (s : State) : Res :=
  onDelivered tREAD 0 src s (fun k _ w u =>
    let off := lineOff k
    let code := remoteRefusal u k .read off 128
    if code ≠ 0 then refuseRemote u k code 0
    else if !unitReady u (packetSpace k) off 128 then wakeUnit w (packetSpace k) off 128
    else
      let m := memRead' u (packetKey k) (packetSpace k) off 128 true
      answerData m.2.2 k m.1 m.2.1)

/-- Write runs of a line's bytes. -/
def writeRuns (s : State) (key : Option StageKey) (space off : Nat) (line : Bytes) (bad : Bool) : List (Nat × Nat) → State
  | [] => s
  | r :: rest => writeRuns (memWrite' s key space (off + r.1) (slice line r.1 r.2) bad) key space off line bad rest

/-- Apply a line write under a mask. Its check is verified first: one that fails moves no byte (R430); a bad line stops
at the port of a tile it would enter (R432), and marks what it becomes part of elsewhere. -/
def applyWrite (k : Packet) (line : Bytes) (mask : Nat) (w u : State) : State :=
  let sp := packetSpace k
  let off := lineOff k
  let st := verify line k.e2e
  let v := openStage u k
  let code := remoteRefusal v k .write off 128
  if mask = 0 then v
  else if code ≠ 0 then refuseRemote v k code 0
  else if sp = 1 ∧ k.inPitch = false ∧ st ≠ .good then
    engineRaise v (off / 2 ^ 24) 0x0205 (if st = .markedBad then 2 else 1) 1 (dataAddr (homeAddr k) k.src.toNat)
  else if st = .mismatch then refuseRemote v k 0x0205 3
  else if !unitReady v sp off 128 then wakeUnit w sp off 128
  else writeRuns v (packetKey k) sp off line (st == .markedBad) (maskRuns 128 0 mask)

/-- WRITE. -/
def execWrite (src : Nat) (s : State) : Res :=
  onDelivered tWRITE 0 src s (fun k _ w u => applyWrite k k.payload (2 ^ 128 - 1) w u)

/-- WRITEM. -/
def execWritem (src : Nat) (s : State) : Res :=
  onDelivered tWRITEM 0 src s (fun k _ w u => applyWrite k (slice k.payload 16 128) (field k.payload 0 16) w u)

/-! ### ATOMIC and the reply cache (R247, R255, R256) -/

/-- Entries of a die that have not expired. -/
def liveReplies (s : State) (die : Nat) : List ReplyEntry :=
  s.fab.replyCache.filter (fun e => e.die == die && !s.passed e.at_ 4000)

/-- A new entry. -/
def addReply (s0 : State) (k : Packet) (old : W64) : State :=
  let s := clearMark s0 (.reply k.src.toNat k.seq)
  { s with fab := { s.fab with replyCache := ⟨k.src.toNat % 4, k.src.toNat, k.seq, old, s.clk⟩ :: s.fab.replyCache } }

/-- An atomic that finds its die's entries all in use waits, and is counted once. -/
def countWait (s : State) (k : Packet) : State :=
  if s.fab.rcWaiting.contains (k.src.toNat, k.seq) then s
  else { s with fab := { s.fab with rcWait := satInc s.fab.rcWait, rcWaiting := (k.src.toNat, k.seq) :: s.fab.rcWaiting } }

/-- Answer a duplicate atomic from the reply cache; an entry that it has lost counts as absent (R434). -/
def answerDuplicate (s : State) (k : Packet) : State :=
  match (liveReplies s (k.src.toNat % 4)).find? (fun e => e.src == k.src.toNat && e.seq == k.seq) with
  | some e =>
    let c := bufferRead s (.reply e.src e.seq) (homeDie e.src 0)
    if c.1 then answerStatus c.2 k 0x0402 else answerAtomic c.2 k e.old
  | none => answerStatus s k 0x0402

/-- Perform an atomic at the target: one read-modify-write of the stage's view or of committed memory. A word whose code
cannot be corrected, or whose check is bad, is answered with FLT_E2E (DEDUCED, log entry 29). -/
def performAtomic (s : State) (k : Packet) : State :=
  let sp := packetSpace k
  let off := packetOff k / 8 * 8
  let m := memRead' s (packetKey k) sp off 8 true
  let old := BitVec.ofNat 64 (leNat m.1)
  match atomicNew k.aux.toNat old (BitVec.ofNat 64 (field k.payload 0 8)) (BitVec.ofNat 64 (field k.payload 8 8)) with
  | none => m.2.2
  | some new =>
    let s1 := addReply (memWrite' m.2.2 (packetKey k) sp off (leBytes 8 new.toNat)) k old
    if m.2.1 = .good then answerAtomic s1 k old else answerStatus s1 k 0x0205

/-- ATOMIC. -/
def execAtomic (src : Nat) (s : State) : Res :=
  onDelivered tATOMIC 0 src s (fun k dup w u =>
    if dup then answerDuplicate u k
    else
      let sp := packetSpace k
      let off := packetOff k / 8 * 8
      let v := openStage u k
      let code := remoteRefusal v k .atomic off 8
      if code ≠ 0 then refuseRemote v k code 0
      else if (liveReplies w (src % 4)).length ≥ 2048 then countWait w k
      else if !unitReady v sp off 8 then wakeUnit w sp off 8
      else performAtomic { v with fab := { v.fab with rcWaiting := v.fab.rcWaiting.filter (· != (src, k.seq)) } } k)

/-- The fabric die of a buffer's place. -/
def placeDie (p : BufferPlace) : Nat :=
  match p with
  | .replay port _ => port / 4
  | .receive port _ => port / 4
  | .reorder src cls _ => (src + cls) % 4
  | .reply src _ => src % 4

/-- A flip in a buffer of the die; a second one cannot be corrected. -/
def markBuffer (die : Nat) (s : State) (u : BufferUpset) : State :=
  if placeDie u.place = die then
    let m : EccMark := if u.many || (bufferMark s u.place).isSome then .uncorrectable else .correctable
    { s with fab := { s.fab with bufMarks := (u.place, m) :: s.fab.bufMarks.filter (fun x => x.1 != u.place) } }
  else s

/-- REPLY_CACHE_EXPIRE: entries of a die that are 4 ms old go; the command tells what the die's buffers have lost meanwhile
(DESIGN CHOICE, log entry 110). -/
def execReplyCacheExpire (die : Nat) (s : State) (upsets : List BufferUpset := []) : Res :=
  onUnit 4 die <|
    .next (upsets.foldl (markBuffer die) { s with fab := { s.fab with
      replyCache := s.fab.replyCache.filter (fun e => e.die != die || !s.passed e.at_ 4000) } })

/-! ### SIGNAL (R248) -/

/-- SIGNAL_PACKET: never refused for ownership; a tile the part does not have is refused by R25. -/
def execSignalPacket (src : Nat) (s : State) : Res :=
  onDelivered tSIGNAL 0 src s (fun k _ _ u =>
    let tile := bits k.addr.toNat 34 24
    if packetSpace k ≠ 1 ∨ tile ≥ 1152 ∨ bits k.addr.toNat 47 35 ≠ 0 then refuseRemote u k 0x0105 0
    else addCounter u tile k.aux.toNat (BitVec.ofNat 32 (field k.payload 0 4)))

/-! ### CREAD at the target (R262, R266) -/

/-- CREAD: served from committed memory in a SHARED-READ region, which becomes `CACHED`; answered busy in a write window
or during a recall; refused elsewhere. -/
def execCread (src : Nat) (s : State) : Res :=
  onDelivered 0x20 0 src s (fun k _ w u =>
    let off := lineOff k
    let i := off / 2 ^ 21
    let e := ownEntry u i
    let code := if packetSpace k = 0 then remoteRefusal u k .cread off 128 else 0x0404
    if code ≠ 0 then refuseRemote u k code 0
    else if ownAllows e (isOwner u (.remote src) (ownOwner e)) .cread = some false ∨ recalling u i = true then
      answerStatus (note { u with fab := { u.fab with busy := satInc u.fab.busy } } 0x040C 0 (memoryUnit u 0 off)) k 0x040C
    else if !unitReady u 0 off 128 then wakeUnit w 0 off 128
    else
      let m := memRead' u none 0 off 128 true
      let v := { m.2.2 with fab := { m.2.2.fab with
        owners := tset m.2.2.fab.owners i (mkOwn (ownState e) (ownOwner e) true (ownOpen e)) } }
      answerData v k m.1 m.2.1)

/-! ### Register writes of the cache (R270, R272) -/

/-- A launch is running. -/
def launchRunning (s : State) : Bool := s.cmd.launches.any (fun l => !l.finished)

/-- A write of `FRLC`: refused while a launch runs or for a region the part does not have; it empties the cache. -/
def writeFrlc (s : State) (v : W32) : State :=
  if launchRunning s || decide (bits v.toNat 10 0 > 1535) then note s 0x040A 0 unitHost
  else emptyRlc { s with fab := { s.fab with rlcRegion := BitVec.ofNat 11 v.toNat, rlcSize := BitVec.ofNat 2 (bits v.toNat 12 11) } }

/-- FRLC_WRITE. -/
def execFrlcWrite (host : Nat) (value : W32) (s : State) : Res := setupWrite host s (writeFrlc s value)

/-- FRLC_FLUSH: the fields are written as they stand. -/
def execFrlcFlush (host : Nat) (s : State) : Res :=
  setupWrite host s (writeFrlc s (BitVec.ofNat 32 (s.fab.rlcRegion.toNat + s.fab.rlcSize.toNat * 2 ^ 11)))

/-- FCWHI_WRITE: commits a window from the buffered low word; one that reaches past the last region is refused. -/
def execFcwhiWrite (host window : Nat) (value : W32) (s : State) : Res :=
  onUnit 64 window <| setupWrite host s <|
    let lo := (tget s.fab.cwLo window 0).toNat
    let n := bits value.toNat 19 0
    if bits lo 19 0 + n > 786432 then note s 0x040A 0 unitHost
    else
      let x : CacheWindow := ⟨BitVec.ofNat 20 lo, BitVec.ofNat 12 (bits lo 31 20), BitVec.ofNat 20 n, bit value.toNat 31⟩
      { s with fab := { s.fab with windows := tset s.fab.windows window x } }

end Sys2Proof.Machine
end

