-- ==== Sys2Proof/Machine/Ownership.lean ====
section
/-! DEFINITION. Regions and their windows (R260, R264, R268, R269): the REGION and INVALIDATE descriptors, recalls at the
home part and at a recipient, and the closing of a write window. -/

namespace Sys2Proof.Machine

/-! ### Entries -/

/-- Number of ownership regions (R260). -/
def regionCount : Nat := 793344

/-- Set an entry. -/
def setOwn (s : State) (i : Nat) (e : W16) : State := { s with fab := { s.fab with owners := tset s.fab.owners i e } }

/-- A stage held at this part holds a write to the region (R269). -/
def stagedIn (s : State) (i : Nat) : Bool :=
  s.cmd.stages.any (fun g => g.pieces.any (fun p =>
    i == (if p.1 < 2 ^ 40 then ownIndex 0 (p.1 * 256) else ownIndex 1 ((p.1 - 2 ^ 40) * 256))))

/-- This part is the owner of an entry. -/
def ownedHere (s : State) (e : W16) : Bool := isOwner s .engine (ownOwner e)

/-! ### Answers -/

/-- A packet that carries a 32-bit region index (R268, R269). -/
def regionPacket (typ : Byte) (i : Nat) : Packet :=
  { typ := typ, cls := 0, src := 0, dst := 0, payload := layout 16 [(0, 4, i)] }

/-- A region of a REGION or INVALIDATE descriptor has ended; the last one completes it. -/
def regionEnded (s : State) (ring i code : Nat) (bytes : Bytes) : State :=
  match runningDesc s ring (fun r => match r with | .recall l => l.contains i | _ => false) with
  | none => s
  | some d =>
    match d.run with
    | .recall l =>
      let first := code != 0 && d.fault == 0
      let f := if first then code else d.fault.toNat
      let b := if first then bytes else d.detail
      let rest := l.filter (· != i)
      if rest.isEmpty then doneDesc s ring d f (slice b 0 16)
      else modDesc s ring d.index fun x => { x with run := .recall rest, fault := BitVec.ofNat 16 f, detail := b }
    | _ => s

/-- Answer whoever asked for a region. -/
def answerAsker (s : State) (a : Asker) (i code : Nat) (bytes : Bytes) : State :=
  match a with
  | .ring r => regionEnded s r i code bytes
  | .part src tag => answerStatus s { typ := 0, cls := 0, src := BitVec.ofNat 12 src, dst := 0, tag := tag } code

/-! ### Recalls at the home part (R268) -/

/-- Devices with a valid route entry, other than this part. -/
def routedDevices (s : State) : List Nat :=
  (s.fab.routes.filter (fun e => e.2.valid && !(s.fab.devValid && e.1 == ownDev s))).map (·.1)

/-- Begin the recall of a `CACHED` region: INV to every routed device, once for all who ask at the same time. -/
def startRecall (s : State) (a : Asker) (i : Nat) (next : Option W16) : State :=
  match s.fab.recalls.find? (fun r => r.region == i) with
  | some r => { s with fab := { s.fab with recalls := s.fab.recalls ++ [⟨i, a, r.waiting, s.clk, next⟩] } }
  | none =>
    let ds := routedDevices s
    let s1 := { s with fab := { s.fab with recalls := s.fab.recalls ++ [⟨i, a, ds, s.clk, next⟩] } }
    ds.foldl (fun u d => openRequest u d (.inval i d) (regionPacket tINV i)) s1

/-- A recipient has answered. -/
def invalAnswered (s : State) (i dev : Nat) : State :=
  { s with fab := { s.fab with recalls := s.fab.recalls.map fun r =>
    if r.region == i then { r with waiting := r.waiting.filter (· != dev) } else r } }

/-- The end of a recall: `CACHED` clears, and either the write window opens or the change that waited is made. -/
def finishRecall (s : State) (r : Recall) : State :=
  let e := ownEntry s r.region
  let new := match r.then_ with
    | some x => x
    | none => if ownState e = 1 then mkOwn 1 (ownOwner e) false true else e
  answerAsker (setOwn s r.region new) r.asker r.region 0 (zeros 16)

/-- RECALL_COMPLETE. -/
def execRecallComplete (region : Nat) (s : State) : Res :=
  let ended := s.fab.recalls.filter (fun r => r.region == region)
  ifDue (!ended.isEmpty && ended.all (·.waiting.isEmpty)) s
    (ended.foldl finishRecall { s with fab := { s.fab with recalls := s.fab.recalls.filter (fun r => r.region != region) } })

/-- RECALL_TIMEOUT: the window stays closed and the silent devices are listed. -/
def execRecallTimeout (region : Nat) (s : State) : Res :=
  let late := s.fab.recalls.filter (fun r => r.region == region && !r.waiting.isEmpty && s.passed r.start s.fab.fenceTo.toNat)
  if late.isEmpty then .next s
  else
    let rest := s.fab.recalls.filter (fun r => !late.contains r)
    let s1 := { s with fab := { s.fab with
      recalls := rest
      outstanding := if rest.any (fun r => r.region == region) then s.fab.outstanding
        else s.fab.outstanding.filter (fun o => match o.use_ with | .inval i _ => i != region | _ => true) } }
    .next (late.foldl (fun u r =>
      answerAsker (record u { code := 0x040B, unit := unitHost, kind := 2, data := dataDevs r.waiting }) r.asker region 0x040B
        (detailDevs r.waiting)) s1)

/-- Send an outstanding packet afresh: the same tag, a new `SEQ`. -/
def sendAfresh (s : State) (o : Outstanding) : State :=
  let dst := o.packet.dst.toNat
  let p := stampPacket s o.packet dst 0 (nextSeqOf s dst 0)
  let put (q : Outstanding) : Outstanding := if q.tag == o.tag then { q with packet := p, sentAt := s.clk } else q
  sendStream { s with fab := { s.fab with outstanding := s.fab.outstanding.map put } } dst 0 p

/-- INV_RESEND: a recipient silent for 200 µs gets a fresh INV. -/
def execInvResend (region device : Nat) (s : State) : Res :=
  match s.fab.outstanding.find? (fun o => o.use_ == .inval region device) with
  | some o => ifDue (o.reply == .none && s.passed o.sentAt 200) s (sendAfresh s o)
  | none => .next s

/-- RECALL: the packet of an owner on another part. -/
def execRecall (src : Nat) (s : State) : Res :=
  onDelivered tRECALL 0 src s (fun k _ _ u =>
    let i := field k.payload 0 4
    let e := ownEntry u i
    if i ≥ regionCount ∨ ownState e ≠ 1 ∨ ownOwner e ≠ src then
      answerStatus (record u { code := 0x0404, unit := unitHost, kind := 1, data := dataAddr 0 src, remote := true }) k 0x0404
    else if ownOpen e then answerStatus u k 0
    else if ownCached e then startRecall u (.part src k.tag) i none
    else answerStatus (setOwn u i (mkOwn 1 src false true)) k 0)

/-! ### A recall at a recipient -/

/-- The sets of the cache take traffic now. -/
def setsReady (s : State) : Bool := (rlcListed s).all (fun k => unitReady s 0 (rlcBase s k) 4096)

/-- INV: outstanding CREADs to the region are marked, then its cached lines are dropped, once the sets take traffic. -/
def execInv (src : Nat) (s : State) : Res :=
  onDelivered tINV 0 src s (fun k _ w u =>
    let i := field k.payload 0 4
    let hit (o : Outstanding) : Bool := o.packet.typ == tCREAD && o.packet.dst.toNat == src && packetOff o.packet / 2 ^ 21 == i
    let v := { u with fab := { u.fab with
      outstanding := u.fab.outstanding.map fun o => if hit o then { o with noInstall := true } else o } }
    if !setsReady u then (rlcListed u).foldl (fun x j => wakeUnit x 0 (rlcBase x j) 4096) w
    else answerStatus (dropRegion v i src) k 0)

/-! ### The REGION descriptor (R264) -/

/-- Change one region: the state after it, and whether the region still waits for a recall or a closing. -/
def changeRegion (s : State) (ring i st owner : Nat) : State × Bool :=
  let e := ownEntry s i
  let new := mkOwn st owner (ownCached e && st == 1) false
  if ownState e = 1 ∧ st ≠ 1 ∧ ownCached e = true then (startRecall s (.ring ring) i (some new), true)
  else if ownState e = 1 ∧ st = 1 ∧ stagedIn s i = true then
    ({ s with fab := { s.fab with closings := s.fab.closings ++ [⟨i, .ring ring, some (BitVec.ofNat 12 owner)⟩] } }, true)
  else (setOwn s i new, false)

/-- Change a range of regions; the ones that wait are collected. -/
def changeRange (ring st owner : Nat) : Nat → Nat → State → State × List Nat
  | 0, _, s => (s, [])
  | n + 1, i, s =>
    let a := changeRegion s ring i st owner
    let b := changeRange ring st owner n (i + 1) a.1
    (b.1, if a.2 then i :: b.2 else b.2)

/-- REGION. -/
def execRegion (ring : Nat) (s : State) : Res :=
  startDesc 0x28 0 ring s (fun d u =>
    let first := opnd d 8 4
    let n := opnd d 12 4
    let st := opnd d 16 1
    if st = 3 ∨ first + n > regionCount then refuseDesc s ring d 0x040A
    else
      let a := changeRange ring st (opnd d 18 2) n first u
      if a.2.isEmpty then doneDesc a.1 ring d 0 (zeros 16) else runDesc a.1 ring d (.recall a.2))

/-! ### The INVALIDATE descriptor (R268) -/

/-- One region of an INVALIDATE at its home part: the code, the state, and whether a recall runs. -/
def invalidateHere (s : State) (ring i : Nat) : Nat × State × Bool :=
  let e := ownEntry s i
  if i ≥ regionCount ∨ ownState e ≠ 1 ∨ ownedHere s e = false then (0x0404, s, false)
  else if ownOpen e then (0, s, false)
  else if ownCached e then (0, startRecall s (.ring ring) i none, true)
  else (0, setOwn s i (mkOwn 1 (ownOwner e) false true), false)

/-- A range at its home part: the first code, the state, the regions that wait. -/
def invalidateRange (ring : Nat) : Nat → Nat → State → Nat × State × List Nat
  | 0, _, s => (0, s, [])
  | n + 1, i, s =>
    let a := invalidateHere s ring i
    let b := invalidateRange ring n (i + 1) a.2.1
    (if a.1 = 0 then b.1 else a.1, b.2.1, if a.2.2 then i :: b.2.2 else b.2.2)

/-- INVALIDATE: recalls here, or one RECALL to the home part for each region. -/
def execInvalidate (ring : Nat) (s : State) : Res :=
  startDesc 0x29 0 ring s (fun d u =>
    let first := opnd d 8 4
    let n := opnd d 12 4
    let home := opnd d 16 2
    if home = 0xFFF ∨ (u.fab.devValid = true ∧ home = ownDev u) then
      let a := invalidateRange ring n first u
      let v := if a.1 = 0 then a.2.1 else ringRaise a.2.1 ring a.1 0 1 (dataAddr 0 (ownDev u))
      if a.2.2.isEmpty then doneDesc v ring d a.1 (zeros 16)
      else modDesc (runDesc v ring d (.recall a.2.2)) ring d.index fun x => { x with fault := BitVec.ofNat 16 a.1, detail := zeros 16 }
    else if n = 0 then doneDesc u ring d 0 (zeros 16)
    else
      let l := (List.range n).map (first + ·)
      runDesc (l.foldl (fun v i => openRequest v home (.recall ring i) (regionPacket tRECALL i)) u) ring d (.recall l))

/-- RECALL_RESEND: an owner without an answer by the fence timeout and 200 µs asks again. -/
def execRecallResend (ring : Nat) (s : State) : Res :=
  onUnit 32 ring <|
    match s.fab.outstanding.find? (fun o => (match o.use_ with | .recall r _ => r == ring | _ => false) &&
        o.reply == .none && s.passed o.sentAt (s.fab.fenceTo.toNat + 200)) with
    | some o => .next (sendAfresh s o)
    | none => .next s

/-! ### Closing a write window (R269) -/

/-- PUBLISH: from the owner of a SHARED-READ region; another's is answered FLT_OWNERSHIP, as its RECALL would be (DEDUCED, log entry 31). -/
def execPublish (src : Nat) (s : State) : Res :=
  onDelivered tPUBLISH 0 src s (fun k _ _ u =>
    let i := field k.payload 0 4
    let e := ownEntry u i
    if i ≥ regionCount ∨ ownState e ≠ 1 ∨ ownOwner e ≠ src then
      answerStatus (record u { code := 0x0404, unit := unitHost, kind := 1, data := dataAddr 0 src, remote := true }) k 0x0404
    else { u with fab := { u.fab with closings := u.fab.closings ++ [⟨i, .part src k.tag, none⟩] } })

/-- WRITE_WINDOW_CLOSE: no open stage here holds a write to the region. -/
def execWriteWindowClose (region : Nat) (s : State) : Res :=
  let due := s.fab.closings.filter (fun c => c.region == region)
  ifDue (!due.isEmpty && !stagedIn s region) s
    (due.foldl (fun u c =>
      let e := ownEntry u region
      let owner := match c.owner with | some o => o.toNat | none => ownOwner e
      answerAsker (if ownState e = 1 then setOwn u region (mkOwn 1 owner (ownCached e) false) else u) c.asker region 0 (zeros 16))
      { s with fab := { s.fab with closings := s.fab.closings.filter (fun c => c.region != region) } })

end Sys2Proof.Machine
end

