-- ==== Sys2Proof/Machine/Reduction.lean ====
section
/-! DEFINITION. The gradient reduction engine (chapter 10): buckets and their BUCKET descriptor, SCATTER with its Sweep,
RING, the result record, pushes, replay, and the Cairn digests. -/

namespace Sys2Proof.Machine

/-! ### The record and the member list (R275, R276) -/

/-- Shard owners in list order. -/
def BucketRecord.owners (r : BucketRecord) : List Nat := (r.members.filter (fun m => !m.2)).map (·.1)
/-- PUSHED members. -/
def BucketRecord.pushedMembers (r : BucketRecord) : List Nat := (r.members.filter (·.2)).map (·.1)
/-- `Q_s`. -/
def BucketRecord.share (r : BucketRecord) : Nat := r.qpacks / max r.owners.length 1
/-- S, in bytes. -/
def BucketRecord.size (r : BucketRecord) : Nat := r.qpacks * 256
/-- Elements of a shard. -/
def BucketRecord.elements (r : BucketRecord) : Nat := r.share * 1792
/-- This part's owner index. -/
def ownShard (s : State) (r : BucketRecord) : Option Nat := r.owners.findIdx? (· == ownDev s)
/-- This part's role is PUSHED. -/
def ownPushed (s : State) (r : BucketRecord) : Bool := r.pushedMembers.contains (ownDev s)
/-- Place of a device in the member list. -/
def memberIndex (r : BucketRecord) (dev : Nat) : Nat := (r.members.findIdx? (fun m => m.1 == dev)).getD 0

/-- Decode the record; the member list is read apart. -/
def readBucket (b : Bytes) : BucketRecord :=
  let w (o : Nat) : W64 := BitVec.ofNat 64 (field b o 8)
  { ring_ := bit (field b 1 1) 0, mean := bit (field b 1 1) 1, nmem := field b 2 2, qpacks := field b 4 4, mlist := w 8
    send := w 16, recv := w 24, result := w 32, sweepA := w 40, digA := w 48, rrec := w 56, pushSrc := w 64, pushRx := w 72
    pushLen := field b 80 4, wtile := field b 84 2 % 2048, wctr := BitVec.ofNat 8 (field b 86 1)
    pctr := BitVec.ofNat 8 (field b 87 1), dctr := BitVec.ofNat 8 (field b 88 1), sctr := BitVec.ofNat 8 (field b 89 1)
    ascale := BitVec.ofNat 8 (field b 90 1), hostRing := field b 91 1 % 32
    deadline := (if field b 92 4 = 0 then 500 else field b 92 4), ckey := BitVec.ofNat 128 (beNat (slice b 96 16)) }

/-- The fields of a record that need no member list (R278). -/
def bucketFieldsOk (b : Bytes) : Bool :=
  let r := readBucket b
  field b 0 1 == 1 && decide (field b 1 1 < 4) && decide (1 ≤ r.nmem) && decide (r.nmem ≤ 1024) &&
    decide (4096 ≤ r.qpacks) && decide (r.qpacks ≤ 262144) && r.pushLen % 256 == 0 && decide (r.pushLen ≤ 2 ^ 26) &&
    decide (field b 84 2 < 1152) && (if r.ring_ then r.ascale != 0 && r.ascale != 255 else r.ascale == 0) &&
    decide (field b 91 1 < 32) && decide (r.deadline ≤ 100000) && allZero b 112 144

/-- The members of a list; none where an entry has a reserved role or bit. -/
def readMembers (b : Bytes) (n : Nat) : Option (List (Nat × Bool)) :=
  (List.range n).mapM fun i =>
    let e := field b (2 * i) 2
    if e / 2 ^ 12 = 0 then some (e % 4096, false) else if e / 2 ^ 12 = 1 then some (e % 4096, true) else none

/-- The areas that this part's role uses (R277). -/
def bucketAreas (s : State) (r : BucketRecord) : List (W64 × Nat) :=
  let q := r.share
  let shard := (ownShard s r).isSome
  let any : List (W64 × Nat) := [(r.digA, 2 * r.nmem * 32), (r.rrec, 1024)]
  let owner : List (W64 × Nat) := [(r.send, r.size), (r.recv, if r.ring_ then 2 * 8 * q * 256 else 2 * r.size), (r.result, 2 * r.elements * 4)] ++
    (if r.ring_ then [] else [(r.sweepA, r.elements * 4)]) ++ (if r.pushLen = 0 then [] else [(r.pushSrc, r.pushLen)])
  any ++ (if shard then owner else if r.pushLen = 0 then [] else [(r.pushRx, r.owners.length * r.pushLen)])

/-- Aligned areas within this part's HBM, no two overlapping. -/
def areasApart (s : State) : List (W64 × Nat) → Bool
  | [] => true
  | a :: rest => isOwn s a.1 && addrSpace a.1 == 0 && addrOff a.1 % 256 == 0 && rangeOk 0 (addrOff a.1) a.2 &&
      rest.all (fun b => !overlaps (addrOff a.1) a.2 (addrOff b.1) b.2) && areasApart s rest

/-- The checks that need the member list (R278). -/
def bucketOk (s : State) (r : BucketRecord) : Bool :=
  let ds := r.members.map (·.1)
  !r.owners.isEmpty && r.qpacks % r.owners.length == 0 && decide (ds.eraseDups.length = ds.length) &&
    s.fab.devValid && ds.contains (ownDev s) && areasApart s (bucketAreas s r)

/-! ### The engine's memory (R281, R296) -/

/-- Unit of the bucket's engine (R273). -/
def bucketUnit (b : Nat) : W16 := unitFabric (b % 4)

/-- A fault met by the engine, which works for the bucket's ring pair (R285, R341). -/
def bucketRaise (s : State) (b code detail kind : Nat) (data : Bytes) : State :=
  memberFault s (some (s.bucket b).record.hostRing) { code := code, detail := detail, unit := bucketUnit b, kind := kind, data := data }

/-- Read HBM; `view` takes the ring pair's stage into account. The fault found is 0 for good data and poison (R432). -/
def bucketRead (s : State) (b off len : Nat) (view : Bool) : Bytes × LineState × Nat × Nat × State :=
  let ring := (s.bucket b).record.hostRing
  let code := refusal s .engine .read none 0 off len
  if code ≠ 0 then (zeros len, .markedBad, code, 0, s)
  else
    let m := memRead' s (if view then (ringView s ring).map (localKey s) else none) 0 off len false
    match m.2.1 with
    | .markedBad => (m.1, .markedBad, 0x0205, 2, m.2.2)
    | .mismatch => (m.1, .mismatch, 0x0205, 1, m.2.2)
    | st => (m.1, st, 0, 0, m.2.2)

/-- Write bucket memory directly, outside every stage. -/
def bucketWrite (s : State) (b off : Nat) (data : Bytes) (bad : Bool := false) : State :=
  let code := refusal s .engine .write none 0 off data.length
  if code ≠ 0 then bucketRaise s b code 0 1 (dataAddr (mkAddr 0xFFF 0 off)) else hbmWrite s off data bad

/-! ### Digests (R297, R298) -/

/-- Exclusive or of 16-byte blocks. -/
def xorBytes (a b : Bytes) : Bytes := a.zipWith (· ^^^ ·) b

/-- One chaining step under the bucket's key. -/
def cairn (r : BucketRecord) (d x : Bytes) : Bytes := sm4Encrypt (beBytes 16 r.ckey.toNat) (xorBytes d x)

/-- A digest after a line. -/
def hashLine (r : BucketRecord) (b aux i : Nat) (step : W32) (line d : Bytes) : Bytes :=
  (List.range 8).foldl (fun d k => cairn r d (slice line (16 * k) 16))
    (cairn r d (layout 16 [(0, 4, step.toNat), (4, 1, b), (5, 1, aux), (8, 4, i)]))

/-- Place of a member's digest: `SENT` at 0, `RCVD` at 16. -/
def digestAt (r : BucketRecord) (step : W32) (member : Nat) (rcvd : Bool) : Nat :=
  addrOff r.digA + step.toNat % 2 * r.nmem * 32 + member * 32 + (if rcvd then 16 else 0)

/-- Read bucket memory that the engine goes on with: a read that finds a fault is reported at the engine (R432). -/
def bucketFetch (s : State) (b off len : Nat) : Bytes × Bool × State :=
  let m := bucketRead s b off len false
  if m.2.2.1 = 0 then (m.1, true, m.2.2.2.2)
  else (m.1, false, bucketRaise m.2.2.2.2 b m.2.2.1 m.2.2.2.1 1 (dataAddr (mkAddr 0xFFF 0 off)))

/-- Hash a line into a member's digest; `fresh` starts it at zero. -/
def hashInto (s : State) (b dev : Nat) (rcvd fresh : Bool) (aux i : Nat) (step : W32) (line : Bytes) : State :=
  let r := (s.bucket b).record
  let at_ := digestAt r step (memberIndex r dev) rcvd
  let m := if fresh then (zeros 16, true, s) else bucketFetch s b at_ 16
  bucketWrite m.2.2 b at_ (hashLine r b aux i step line m.1)

/-- The step's Cairn digest. -/
def cairnOf (s : State) (b : Nat) (step : W32) : Bytes × State :=
  let r := (s.bucket b).record
  (List.range r.nmem).foldl (fun (c : Bytes × State) j =>
    let sent := bucketFetch c.2 b (digestAt r step j false) 16
    let rcvd := bucketFetch sent.2.2 b (digestAt r step j true) 16
    (cairn r (cairn r c.1 sent.1) rcvd.1, rcvd.2.2)) (zeros 16, s)

/-! ### Runs of HBM that the engine waits for (R203, R210) -/

/-- The digests of a step. -/
def digestRun (r : BucketRecord) (step : W32) : Nat × Nat := (digestAt r step 0 false, r.nmem * 32)
/-- A member's digest of a step. -/
def memberRun (r : BucketRecord) (step : W32) (dev : Nat) : Nat × Nat := (digestAt r step (memberIndex r dev) false, 32)
/-- The Sweep accumulator. -/
def sweepRun (r : BucketRecord) : Nat × Nat := (addrOff r.sweepA, r.elements * 4)
/-- A shard of the send area. -/
def sendRunOf (r : BucketRecord) (k : Nat) : Nat × Nat := (addrOff r.send + k * r.share * 256, r.share * 256)
/-- What the end of a step writes and reads. -/
def endRuns (x : Bucket) : List (Nat × Nat) :=
  [(addrOff x.record.rrec + x.step.toNat % 2 * 512, 512), digestRun x.record x.step] ++ (if x.heldArm then [digestRun x.record (x.step + 1)] else [])
/-- What writing a result takes. -/
def resultRun (x : Bucket) : Nat × Nat := (addrOff x.record.result + x.step.toNat % 2 * x.record.elements * 4, x.record.elements * 4)

/-! ### The BUCKET descriptor (R274, R278, R279) -/

/-- `BNUM`. -/
def bucketNum (d : Desc) : Nat := opnd d 9 1

/-- Lines of a step that landed before its arm from an owner: its `RCVD` digest has begun. -/
def landedOf (x : Bucket) (step : W32) (who : Nat) : Nat :=
  ((x.landed.find? (fun l => l.1 == step && l.2.1 == who)).map (·.2.2)).getD 0

/-- The bucket goes to ARMED for a step: its digests start at zero, but for a `RCVD` that lines of the step have begun
(DEDUCED, log entry 33). -/
def armBucket (s : State) (b : Nat) (step : W32) : State :=
  let x := s.bucket b
  let r := x.record
  let s1 := (List.range r.nmem).foldl (fun u j =>
    let dev := (r.members.getD j (0, false)).1
    let begun := x.landed.any (fun l => l.1 == step && l.2.2 != 0 &&
      (if r.ring_ then some dev == (ownShard s r).bind (fun m => r.owners[(m + r.owners.length - 1) % r.owners.length]?)
       else r.owners[l.2.1]? == some dev))
    bucketWrite u b (digestAt r step j false) (zeros (if begun then 16 else 32))) s
  s1.setBucket b { s1.bucket b with
    phase := .armed, step := step, heldArm := false, sweepOpen := x.phase == .closed, acc := [], onTime := [], hops := [],
    rescaled := false, sat := false, pushed := [] }

/-- BUCKET DECLARE. -/
def execBucketDeclare (ring : Nat) (s : State) : Res :=
  startDesc 0x10 0 ring s (fun d u =>
    let b := bucketNum d
    let ph := (u.bucket b).phase
    if s.job.locked then refuseDesc s ring d 0x0C01
    else withRecord s u ring d (opndAddr d 16) 256 256 0x0505 (fun raw v =>
      let r := readBucket raw
      let a := r.mlist
      if !bucketFieldsOk raw || ph == .armed || ph == .fired || !(isOwn s a && addrSpace a == 0 && rangeOk 0 (addrOff a) (2 * r.nmem)) then
        refuseDesc s ring d 0x0505
      else match ringRead v ring (addrOff a) (2 * r.nmem) with
        | .wait => wakeUnit s 0 (addrOff a) (2 * r.nmem)
        | .bad c det w => failDesc w ring d c det 1 (dataAddr a)
        | .ok l w =>
          match readMembers l r.nmem with
          | none => refuseDesc s ring d 0x0505
          | some ms =>
            if bucketOk s { r with members := ms } then
              doneDesc (w.setBucket b { phase := .declared, record := { r with members := ms } }) ring d 0 (zeros 16)
            else refuseDesc s ring d 0x0505))

/-- BUCKET ARM. -/
def execBucketArm (ring : Nat) (s : State) : Res :=
  startDesc 0x10 1 ring s (fun d u =>
    let b := bucketNum d
    let x := u.bucket b
    let st := BitVec.ofNat 32 (opnd d 12 4)
    let done (v : State) : State := doneDesc v ring d 0 (zeros 16)
    let arm : State := if runsReady u [digestRun x.record st] then done (armBucket u b st) else wakeRuns s [digestRun x.record st]
    match x.phase with
    | .declared => arm
    | .closed => if st = x.step + 1 then arm else if st = x.step then done u else refuseDesc s ring d 0x0505
    | .fired => if st = x.step then done u else if st = x.step + 1 then done (u.setBucket b { x with heldArm := true }) else refuseDesc s ring d 0x0505
    | .armed => if st = x.step then done u else refuseDesc s ring d 0x0505
    | .free => refuseDesc s ring d 0x0505)

/-- BUCKET RELEASE. Lines that were sent are still counted when they are acknowledged (R282). -/
def execBucketRelease (ring : Nat) (s : State) : Res :=
  startDesc 0x10 2 ring s (fun d u =>
    let b := bucketNum d
    if s.job.locked then refuseDesc s ring d 0x0C01
    else if (u.bucket b).phase = .fired then refuseDesc s ring d 0x0505
    else doneDesc (u.setBucket b { (u.bucket b) with phase := .free, record := {}, heldArm := false, pushFired := false }) ring d 0 (zeros 16))

/-! ### Sending lines (R282) -/

/-- Send a line; a push line carries its ring pair's pitch, whose participant its member becomes (R294, R346). -/
def sendLine (s : State) (b dst aux i : Nat) (step : W32) (line : Bytes) (st : LineState) : State :=
  let ring := (s.bucket b).record.hostRing
  let k0 : Packet := { typ := tRED, cls := 2, src := 0, dst := 0, addr := BitVec.ofNat 52 (b + i % 2 ^ 24 * 2 ^ 8 + step.toNat % 2 ^ 20 * 2 ^ 32), aux := BitVec.ofNat 8 aux, payload := line, e2e := checkFor line st }
  let staged := aux == 3 && inPitch s ring
  let k := if staged then { k0 with ring := BitVec.ofNat 5 ring, pitch := (s.ring ring).pitch.id, inPitch := true } else k0
  let s1 := sendStream s dst 2 k
  let s2 := if staged then
      s1.setRing ring { s1.ring ring with pitch := { (s1.ring ring).pitch with
        participants := insertNat dst (s1.ring ring).pitch.participants
        sent := addCover (coverOf s1 dst 2) (s1.ring ring).pitch.sent } }
    else s1
  hashInto s2 b dst false false aux i step line

/-- Read and send the lines of an area in the ring pair's view: `n` lines from `off`, line indexes from 0. A line that
R432 finds bad is reported, and goes on marked. -/
def sendArea (s : State) (b dst aux : Nat) (step : W32) (off n : Nat) : State :=
  (List.range n).foldl (fun u i =>
    let m := bucketRead u b (off + 128 * i) 128 true
    let v := if m.2.2.1 = 0 then m.2.2.2.2 else bucketRaise m.2.2.2.2 b m.2.2.1 m.2.2.2.1 1 (dataAddr (mkAddr 0xFFF 0 (off + 128 * i)))
    sendLine v b dst aux i step m.1 m.2.1) s

/-- Change the list of sends. -/
def setSends (s : State) (l : List SendSet) : State := { s with red := { s.red with sends := l } }

/-- A firing begins to send. -/
def beginSends (s : State) (b : Nat) : State :=
  let x := s.bucket b
  setSends s (s.red.sends ++ [{ bucket := b, step := x.step, tile := x.record.wtile, ctr := x.record.sctr.toNat }])

/-- Change what the bucket's present step sends. -/
def modSends (s : State) (b : Nat) (f : SendSet → SendSet) : State :=
  setSends s (s.red.sends.map fun e => if e.bucket == b && e.step == (s.bucket b).step then f e else e)

/-- Record the streams a bucket's lines went out on. -/
def coverBucket (s : State) (b : Nat) (dsts : List Nat) : State :=
  modSends s b (fun e => { e with cover := dsts.foldl (fun l d => addCover (coverOf s d 2) l) e.cover })

/-- Every line of the bucket's present step has been sent. -/
def sendsDone (s : State) (b : Nat) : State := modSends s b (fun e => { e with done := true })

/-- Every line of a send is acknowledged. -/
def sendSettled (s : State) (e : SendSet) : Bool := e.done && covered s e.cover

/-- `SCTR` counts each step once, when every line sent for it is acknowledged (R282). -/
def settleBuckets (s : State) : State :=
  let out := s.red.sends.filter (sendSettled s)
  out.foldl (fun u e => addCounter u e.tile e.ctr 1) (setSends s (s.red.sends.filter (fun e => !sendSettled s e)))

/-! ### Folding (R285) -/

/-- The values of n SG1 packs from an HBM offset, pack after pack, with each pack's SAT; or the fault and its place. -/
def sgValues (s : State) (b : Nat) (view : Bool) : (n off : Nat) → Except (Nat × Nat × Nat × Nat) (List FpNum × Bool) × State
  | 0, _ => (.ok ([], false), s)
  | n + 1, off =>
    let m := bucketRead s b off 256 view
    if m.2.2.1 ≠ 0 then (.error (m.2.2.1, m.2.2.2.1, off, 0), m.2.2.2.2)
    else match decodePack 0xD m.1 with
      | .error e => (.error (e.1, 0, off, e.2), m.2.2.2.2)
      | .ok p =>
        let r := sgValues m.2.2.2.2 b view n (off + 256)
        match r.1 with
        | .error e => (.error e, r.2)
        | .ok l => (.ok ((List.range 1792).map (packNum p) ++ l.1, p.sat || l.2), r.2)

/-- Add values to a table of FP32 sums, from element p on. -/
def foldSums (t : Table W32) (p : Nat) : List FpNum → Table W32
  | [] => t
  | v :: r => foldSums (tset t p (toFp32 (addNum (ofFp32 (tget t p 0)) v).1)) (p + 1) r

/-- A contribution is excluded: counted and reported with the code and class of R50. -/
def excludeContribution (s : State) (b : Nat) (step : W32) (owner : Nat) (e : Nat × Nat × Nat × Nat) : State :=
  let s1 := { s with red := { s.red with badPk := satInc s.red.badPk } }
  let x := s1.bucket b
  bucketRaise (s1.setBucket b { x with taken := (step, owner) :: x.taken }) b e.1 e.2.1 1 (dataPack (mkAddr 0xFFF 0 e.2.2.1) e.2.2.2)

/-- Fold a contribution into the step's sum. -/
def foldOnTime (s : State) (b owner : Nat) (v : List FpNum × Bool) : State :=
  let x := s.bucket b
  s.setBucket b { x with
    acc := foldSums x.acc 0 v.1, onTime := insertNat owner x.onTime, taken := (x.step, owner) :: x.taken, sat := x.sat || v.2 }

/-- Read the Sweep accumulator: elements that cannot be verified are reported and count as canonical NaN (DESIGN CHOICE, log entry 114). -/
def readSweep (s : State) (b : Nat) : List W32 × State :=
  let r := sweepRun (s.bucket b).record
  (piecesOf 256 r.1 r.2).foldl (fun (a : List W32 × State) p =>
    let m := bucketFetch a.2 b p.1 p.2
    (a.1 ++ (List.range (p.2 / 4)).map (fun i => if m.2.1 then BitVec.ofNat 32 (field m.1 (4 * i) 4) else 0x7FC00000), m.2.2)) ([], s)

/-- Fold a late contribution into the Sweep accumulator (R287). -/
def foldSweep (s : State) (b owner : Nat) (step : W32) (v : List FpNum × Bool) : State :=
  let r := (s.bucket b).record
  let w := readSweep s b
  let s1 := bucketWrite w.2 b (addrOff r.sweepA) ((w.1.zip v.1).flatMap (fun e => leBytes 4 (toFp32 (addNum (ofFp32 e.1) e.2).1).toNat))
  let x := s1.bucket b
  { s1.setBucket b { x with sweepBits := insertNat owner x.sweepBits, taken := (step, owner) :: x.taken } with
    red := { (s1.setBucket b { x with sweepBits := insertNat owner x.sweepBits, taken := (step, owner) :: x.taken }).red with
      late := satInc s1.red.late } }

/-- Where the contribution of an owner lies. -/
def contributionAt (r : BucketRecord) (step : W32) (owner : Nat) : Nat :=
  addrOff r.recv + step.toNat % 2 * r.size + owner * r.share * 256

/-- A complete contribution may be folded now: into the step's sum, or late into the Sweep. -/
def foldable (x : Bucket) (step : W32) : Bool :=
  match x.phase with
  | .fired => step == x.step || (x.sweepOpen && step == x.step - 1)
  | .armed => x.sweepOpen && step == x.step - 1
  | .closed => step == x.step
  | _ => false

/-- Fold one complete contribution. -/
def foldOne (s : State) (b : Nat) (c : W32 × Nat × Nat) : State :=
  let x := s.bucket b
  let r := sgValues (s.setBucket b { x with complete := x.complete.filter (· != c) }) b false x.record.share (contributionAt x.record c.1 c.2.1)
  match r.1 with
  | .error e => excludeContribution r.2 b c.1 c.2.1 e
  | .ok v => if x.phase = .fired ∧ c.1 = x.step then foldOnTime r.2 b c.2.1 v else foldSweep r.2 b c.2.1 c.1 v

/-- The memory that folding a contribution takes. -/
def foldRuns (x : Bucket) (c : W32 × Nat × Nat) : List (Nat × Nat) :=
  (contributionAt x.record c.1 c.2.1, x.record.share * 256) :: (if x.phase = .fired ∧ c.1 = x.step then [] else [sweepRun x.record])

/-- CONTRIBUTION_FOLD: the contribution that completed first of those that may be folded. -/
def execContributionFold (bucket owner : Nat) (s : State) : Res :=
  onUnit 256 bucket <|
    let x := s.bucket bucket
    match x.complete.find? (fun c => foldable x c.1) with
    | none => .next s
    | some c => ifDue (c.2.1 == owner) s (onReady s (foldRuns x c) (foldOne s bucket c))

/-! ### Closing (R286, R290, R292, R293) -/

/-- A number divided by a count, rounded once to FP32; by zero it is no number. -/
def divideBy (n : Nat) (x : FpNum) : W32 :=
  match x with
  | .fin neg m e _ => if n = 0 then 0x7FC00000 else toFp32 (.fin neg (m * 2 ^ 64 / n) (e - 64) (decide (m * 2 ^ 64 % n ≠ 0)))
  | y => toFp32 y

/-- Result elements from the sums: the mean over `n`, or the sums. -/
def finishResult (r : BucketRecord) (n : Nat) (acc : List W32) : List W32 :=
  if r.mean then acc.map (fun a => divideBy n (ofFp32 a)) else acc.map (fun a => toFp32 (ofFp32 a))

/-- The result record (R292). -/
def resultRecord (x : Bucket) (b flags nfIndex nfCount rs w close : Nat) (cairn_ : Bytes) (bitmap : List Nat) (sweep : List Nat) : Bytes :=
  let mapOf (l : List Nat) : Nat := (l.map (fun j => 2 ^ j)).sum
  splice (layout 512 [(0, 4, x.step.toNat), (4, 1, b), (5, 1, flags), (6, 2, x.onTime.length), (8, 2, w), (12, 4, nfIndex), (16, 4, nfCount),
    (20, 4, rs), (24, 8, x.ready), (32, 8, close), (64, 128, mapOf bitmap), (192, 128, mapOf sweep)]) 40 cairn_

/-- The step ends: the chain, the record, then `DCTR`; a held arm takes effect. -/
def endStep (s : State) (b flags nfIndex nfCount rs w : Nat) (bitmap sweep : List Nat) : State :=
  let x := s.bucket b
  let r := x.record
  let c := cairnOf s b x.step
  let chain := cairn r (beBytes 16 x.chain.toNat) c.1
  let s1 := bucketWrite c.2 b (addrOff r.rrec + x.step.toNat % 2 * 512) (resultRecord x b flags nfIndex nfCount rs w s.ns c.1 bitmap sweep)
  let s2 := addCounter s1 r.wtile r.dctr.toNat 1
  let s3 := s2.setBucket b { s2.bucket b with phase := .closed, chain := BitVec.ofNat 128 (beNat chain), sweepOpen := false }
  if x.heldArm then armBucket s3 b (x.step + 1) else s3

/-- A result element as it is written: canonical NaN where it is NaN or ±Inf (R293). -/
def resultWord (v : W32) : W32 := if (ofFp32 v).nonFinite then 0x7FC00000 else v

/-- Write a result and report a non-finite one (R293), the bucket's number in the detail (DESIGN CHOICE, log entry 113); its
count joins the pitch of the bucket's ring pair (R61). -/
def writeResult (s : State) (b : Nat) (vs : List W32) : State × Nat × Nat :=
  let x := s.bucket b
  let r := x.record
  let s1 := bucketWrite s b (resultRun x).1 (vs.flatMap (fun v => leBytes 4 (resultWord v).toNat))
  let bad := (vs.zipIdx.filter (fun v => (ofFp32 v.1).nonFinite)).map (·.2)
  match bad with
  | [] => (s1, 0xFFFFFFFF, 0)
  | p :: _ =>
    let s2 := { s1 with red := { s1.red with nf := satInc s1.red.nf } }
    let s3 := record s2 (withRing s2 (some r.hostRing) { code := 0x0502, detail := b, unit := bucketUnit b, kind := 6, data := dataSeq x.step.toNat p })
    (if inPitch s3 r.hostRing then
       s3.setRing r.hostRing { s3.ring r.hostRing with pitch := { (s3.ring r.hostRing).pitch with nfCount := satInc (s3.ring r.hostRing).pitch.nfCount bad.length } }
     else s3, p, bad.length)

/-- Late contributions of the step before that are still incomplete are dropped (R287). -/
def dropLate (s : State) (b : Nat) : State :=
  let x := s.bucket b
  if x.sweepOpen then
    ((List.range x.record.owners.length).filter (fun j => !x.taken.contains (x.step - 1, j))).foldl (fun u _ =>
      record { u with red := { u.red with drop := satInc u.red.drop } }
        (withRing u (some x.record.hostRing) { code := 0x0503, unit := bucketUnit b })) s
  else s

/-- The close of a step is due (R286). -/
def closeDue (s : State) (x : Bucket) : Bool :=
  x.phase == .fired && !x.record.ring_ && decide (s.ns ≥ x.ready + x.record.deadline * 1000)

/-- Close a SCATTER step: contributions that completed in time are folded, late ones that never completed are dropped,
the Sweep joins, and result, record and `DCTR` follow in that order. -/
def closeScatter (s : State) (b : Nat) : State :=
  let x0 := s.bucket b
  let s1 := (x0.complete.filter (fun c => foldable x0 c.1)).foldl (fun u c => foldOne u b c) s
  let s2 := dropLate s1 b
  let x := s2.bucket b
  let r := x.record
  let w := x.sweepBits.length
  let sw := if w > 0 then readSweep s2 b else ([], s2)
  let acc := (List.range r.elements).map (fun p => if w > 0 then addFp32 (tget x.acc p 0) (sw.1.getD p 0) else tget x.acc p 0)
  let q := writeResult sw.2 b (finishResult r (x.onTime.length + w) acc)
  let s3 := bucketWrite q.1 b (addrOff r.sweepA) (zeros (r.elements * 4))
  let s4 := s3.setBucket b { s3.bucket b with
    sweepBits := []
    landed := (s3.bucket b).landed.filter (fun l => l.1 != x.step - 1)
    taken := (s3.bucket b).taken.filter (fun t => t.1 != x.step - 1) }
  endStep s4 b (b2n (q.2.2 != 0) + 4 * b2n (decide (w > 0)) + 16 * b2n x.sat) q.2.1 q.2.2 0 w x.onTime x.sweepBits

/-- The memory that closing a SCATTER step takes. -/
def scatterRuns (x : Bucket) : List (Nat × Nat) :=
  (x.complete.filter (fun c => foldable x c.1)).flatMap (foldRuns x) ++ sweepRun x.record :: resultRun x :: endRuns x

/-- SCATTER_CLOSE. -/
def execScatterClose (bucket : Nat) (s : State) : Res :=
  onUnit 256 bucket <| ifDue (closeDue s (s.bucket bucket)) s (onReady s (scatterRuns (s.bucket bucket)) (closeScatter s bucket))

/-! ### RING (R288 to R291) -/

/-- This part's index; 0 where it is no owner. -/
def ownOr (s : State) (r : BucketRecord) : Nat := (ownShard s r).getD 0
/-- The successor's device number. -/
def successor (s : State) (r : BucketRecord) : Nat := r.owners.getD ((ownOr s r + 1) % max r.owners.length 1) 0
/-- The shard whose partial arrives at hop h. -/
def hopShard (s : State) (r : BucketRecord) (h : Nat) : Nat :=
  let n := max r.owners.length 1
  (ownOr s r + 2 * n - 1 - h % n) % n
/-- The hop at which a shard's partial arrives. -/
def shardHop (s : State) (r : BucketRecord) (k : Nat) : Nat :=
  let n := max r.owners.length 1
  (ownOr s r + 2 * n - 1 - k % n) % n
/-- Lines of a partial. -/
def partialLines (r : BucketRecord) : Nat := 16 * r.share
/-- Where the partial of a hop lies. -/
def partialAt (r : BucketRecord) (h : Nat) : Nat := addrOff r.recv + h % 2 * (8 * r.share * 256)

/-- A block as a hop re-encodes it (R289): the block, and whether it was raised. -/
def hopBlock (ascale : Nat) (inScale : Nat) (vs : List FpNum) : BlockOut × Bool :=
  let e0 := if inScale = 0 then ascale else inScale
  if inScale = 0xFF ∨ vs.any (·.nonFinite) = true then (⟨0xFF, vs.map (fun _ => 0), 0⟩, false)
  else
    let e := max e0 ascale
    let a := largestOf vs
    let e2 := ((List.range (255 - e)).find? (fun k => magLe a.1 a.2 127 ((e + k : Nat) - 133))).elim 254 (e + ·)
    let qs := vs.map (fun v => quantElem 0x8 1 e2 0 0 v)
    let sat := (qs.filter (·.2)).length
    if qs.all (fun q => q.1 == 0) then (⟨0, qs.map (·.1), sat⟩, decide (e2 > e)) else (⟨e2, qs.map (·.1), sat⟩, decide (e2 > e))

/-- A partial after this part's contribution, pack by pack: the packs, the blocks raised, and whether one was clamped. -/
def hopPacks (ascale : Nat) : List (Option Pack) → List FpNum → List Pack × Nat × Bool
  | [], _ => ([], 0, false)
  | p :: rest, own =>
    let vs := (List.range 224).map (fun i =>
      ofFp32 (toFp32 (addNum (p.elim (zeroNum false) (packNum · i)) (own.getD i (zeroNum false))).1))
    let bs := (List.range 7).map (fun k => hopBlock ascale (p.elim 0 (·.scales.getD k 0)) ((vs.drop (32 * k)).take 32))
    let raised := ((bs.zipIdx.filter (·.1.2)).map (fun b => 2 ^ b.2)).sum
    let sat := bs.any (fun b => b.1.sat != 0)
    let out : Pack := { tag := 0x8, count := 224, scales := bs.map (·.1.scale), codes := bs.flatMap (fun b => producedCodes 0x8 b.1)
                        sat := p.elim false (·.sat) || sat, rsmask := p.elim 0 (·.rsmask) ||| raised }
    let r := hopPacks ascale rest (own.drop 224)
    (out :: r.1, (bs.filter (·.2)).length + r.2.1, sat || r.2.2)

/-- Read the packs of an incoming partial. -/
def readPartial (s : State) (b : Nat) : (n off : Nat) → Except (Nat × Nat × Nat × Nat) (List Pack) × State
  | 0, _ => (.ok [], s)
  | n + 1, off =>
    let m := bucketRead s b off 256 false
    if m.2.2.1 ≠ 0 then (.error (m.2.2.1, m.2.2.2.1, off, 0), m.2.2.2.2)
    else match decodePack 0x8 m.1 with
      | .error e => (.error (e.1, 0, off, e.2), m.2.2.2.2)
      | .ok p =>
        let r := readPartial m.2.2.2.2 b n (off + 256)
        match r.1 with
        | .error e => (.error e, r.2)
        | .ok l => (.ok (p :: l), r.2)

/-- This part's own contribution to a shard, from `SEND` in the ring pair's view. -/
def ownValues (s : State) (b k : Nat) : Except (Nat × Nat × Nat × Nat) (List FpNum × Bool) × State :=
  let r := (s.bucket b).record
  sgValues s b true r.share (addrOff r.send + k * r.share * 256)

/-- Note raised blocks: counted, and reported once per bucket and step. -/
def noteRescale (s : State) (b n : Nat) : State :=
  let x := s.bucket b
  if n = 0 then s
  else
    let s1 := { s.setBucket b { x with rescaled := true } with red := { (s.setBucket b { x with rescaled := true }).red with rescale := satInc s.red.rescale n } }
    if x.rescaled then s1 else record s1 (withRing s1 (some x.record.hostRing) { code := 0x0501, unit := bucketUnit b })

/-- Send a partial to the successor. -/
def sendPartial (s : State) (b : Nat) (ps : List Pack) : State :=
  let dst := successor s (s.bucket b).record
  let step := (s.bucket b).step
  let bytes := ps.flatMap encodePack
  coverBucket ((List.range (2 * ps.length)).foldl (fun u i => sendLine u b dst 2 i step (slice bytes (128 * i) 128) .good) s) b [dst]

/-- All partials of the step that this part sends have gone: its own start and every hop but the last. -/
def noteSends (s : State) (b : Nat) : State :=
  settleBuckets (if (s.bucket b).hops.length + 1 ≥ (s.bucket b).record.owners.length then sendsDone s b else s)

/-- An element was clamped as this part formed a partial (R13). -/
def noteClamp (s : State) (b : Nat) (sat : Bool) : State := s.setBucket b { s.bucket b with sat := (s.bucket b).sat || sat }

/-- Start the partial of the shard before this part's own. -/
def startPartial (s : State) (b : Nat) : State :=
  let x := s.bucket b
  let r := x.record
  let own := ownValues s b (hopShard s r 0)
  match own.1 with
  | .error e => bucketRaise (own.2.setBucket b { own.2.bucket b with hops := [0] }) b e.1 e.2.1 1 (dataPack (mkAddr 0xFFF 0 e.2.2.1) e.2.2.2)
  | .ok v =>
    let h := hopPacks r.ascale.toNat (List.replicate (8 * r.share) none) v.1
    noteRescale (sendPartial (noteClamp (own.2.setBucket b { own.2.bucket b with hops := [0] }) b h.2.2) b h.1) b h.2.1

/-- A hop's partial has landed whole, those before it are dealt with, and it is not. -/
def hopReady (x : Bucket) (h : Nat) : Bool :=
  x.phase == .fired && x.record.ring_ && decide (1 ≤ h) && (List.range h).all x.hops.contains && !x.hops.contains h &&
    decide (landedOf x x.step h = partialLines x.record)

/-- The memory that a hop takes: the partial, this part's own shard, and the digests. -/
def hopRuns (s : State) (x : Bucket) (h : Nat) : List (Nat × Nat) :=
  [(partialAt x.record h, 8 * x.record.share * 256), sendRunOf x.record (hopShard s x.record h), digestRun x.record x.step]

/-- The packs of a hop's partial and this part's own values for its shard, with the landed lines taken away. -/
def takeHop (s : State) (b h : Nat) : Except (Nat × Nat × Nat × Nat) (List Pack × List FpNum) × State :=
  let x := s.bucket b
  let s1 := s.setBucket b { x with landed := x.landed.filter (fun l => !(l.1 == x.step && l.2.1 == h)) }
  let p := readPartial s1 b (8 * x.record.share) (partialAt x.record h)
  match p.1 with
  | .error e => (.error e, p.2)
  | .ok ps =>
    let own := ownValues p.2 b (hopShard s x.record h)
    match own.1 with
    | .error e => (.error e, own.2)
    | .ok v => (.ok (ps, v.1), own.2)

/-- A hop whose pack failed decode is over: the fault is reported, and nothing is forwarded or closed for its shard (R50). -/
def failHop (s : State) (b h : Nat) (e : Nat × Nat × Nat × Nat) : State :=
  bucketRaise (s.setBucket b { s.bucket b with hops := h :: (s.bucket b).hops }) b e.1 e.2.1 1 (dataPack (mkAddr 0xFFF 0 e.2.2.1) e.2.2.2)

/-- RING_HOP: a pack that fails is reported, and nothing is forwarded (R50). -/
def execRingHop (bucket shard : Nat) (s : State) : Res :=
  onUnit 256 bucket <|
    let x := s.bucket bucket
    let h := shardHop s x.record shard
    if hopReady x h = false ∨ h + 1 ≥ x.record.owners.length then .next s
    else if !runsReady s (hopRuns s x h) then .next (wakeRuns s (hopRuns s x h))
    else
      let t := takeHop s bucket h
      match t.1 with
      | .error e => .next (noteSends (failHop t.2 bucket h e) bucket)
      | .ok v =>
        let out := hopPacks x.record.ascale.toNat (v.1.map some) v.2
        let s1 := sendPartial (noteClamp (t.2.setBucket bucket { t.2.bucket bucket with hops := h :: (t.2.bucket bucket).hops }) bucket out.2.2) bucket out.1
        .next (noteSends (noteRescale s1 bucket out.2.1) bucket)

/-- Close a RING step with a result. -/
def closeRing (s : State) (b : Nat) (sums : List W32) (rs : Nat) (sat : Bool) : State :=
  let r := (s.bucket b).record
  let all := List.range r.owners.length
  let s0 := s.setBucket b { s.bucket b with onTime := all }
  let q := writeResult s0 b (finishResult r r.owners.length sums)
  endStep q.1 b (b2n (q.2.2 != 0) + 8 * b2n (decide (rs ≠ 0)) + 16 * b2n (sat || (s.bucket b).sat)) q.2.1 q.2.2 rs 0 all []

/-- The memory that closing a RING step takes. -/
def ringRuns (s : State) (x : Bucket) : List (Nat × Nat) :=
  resultRun x :: endRuns x ++ (if x.record.owners.length = 1 then [sendRunOf x.record 0] else hopRuns s x (x.record.owners.length - 1))

/-- RING_CLOSE: the final partial plus this part's contribution, not re-encoded; of one owner, its own contribution. -/
def execRingClose (bucket : Nat) (s : State) : Res :=
  onUnit 256 bucket <|
    let x := s.bucket bucket
    let n := x.record.owners.length
    if n = 1 then
      (if x.phase ≠ .fired ∨ x.record.ring_ = false ∨ x.hops.contains 0 = true then .next s
       else if !runsReady s (ringRuns s x) then .next (wakeRuns s (ringRuns s x))
       else
        let own := ownValues s bucket 0
        match own.1 with
        | .error e => .next (failHop own.2 bucket 0 e)
        | .ok v => .next (closeRing own.2 bucket (v.1.map toFp32) 0 v.2))
    else if hopReady x (n - 1) = false then .next s
    else if !runsReady s (ringRuns s x) then .next (wakeRuns s (ringRuns s x))
    else
      let t := takeHop s bucket (n - 1)
      match t.1 with
      | .error e => .next (failHop t.2 bucket (n - 1) e)
      | .ok v =>
        let ins := v.1.flatMap (fun p => (List.range 224).map (packNum p))
        let rs := (v.1.map (fun p => (bitList p.rsmask 7).length)).sum
        .next (closeRing t.2 bucket (ins.zipWith (fun a o => toFp32 (addNum a o).1) v.2) rs (v.1.any (·.sat)))

/-- A partial that this part must forward or finish is missing: not received, or lost with the pack that failed in it. -/
def partialMissing (x : Bucket) : Bool :=
  let n := x.record.owners.length
  x.hops.contains (n - 1) || (List.range n).any (fun h =>
    decide (1 ≤ h) && !x.hops.contains h && decide (landedOf x x.step h < partialLines x.record))

/-- RING_TIMEOUT: a partial is missing `RRINGTO` after the firing. Nothing further is sent, and the owner closes the step
STALLED with its result unwritten. -/
def execRingTimeout (bucket : Nat) (s : State) : Res :=
  onUnit 256 bucket <|
    let x := s.bucket bucket
    if x.phase ≠ .fired ∨ x.record.ring_ = false ∨ partialMissing x = false ∨ s.passed x.firedAt s.red.ringTo.toNat = false then .next s
    else if !runsReady s (endRuns x) then .next (wakeRuns s (endRuns x))
    else
      let s1 := record s (withRing s (some x.record.hostRing) { code := 0x0504, unit := bucketUnit bucket })
      let s2 := settleBuckets (sendsDone (s1.setBucket bucket { x with landed := x.landed.filter (fun l => l.1 != x.step) }) bucket)
      .next (endStep s2 bucket 2 0xFFFFFFFF 0 0 0 [] [])

/-! ### Firing (R280, R281, R284, R296) -/

/-- The watch counter has reached `QPACKS`. -/
def watchReached (s : State) (r : BucketRecord) : Bool := reached (s.counter r.wtile r.wctr.toNat) (BitVec.ofNat 32 r.qpacks)

/-- Send this part's contributions, and fold its own. -/
def fireScatter (s : State) (b k : Nat) : State :=
  let x := s.bucket b
  let r := x.record
  let others := (r.owners.zipIdx).filter (fun o => o.2 != k)
  let s1 := others.foldl (fun u o => sendArea u b o.1 1 x.step (addrOff r.send + o.2 * r.share * 256) (2 * r.share)) s
  let s2 := coverBucket (sendsDone s1 b) b (others.map (·.1))
  let own := ownValues s2 b k
  settleBuckets (match own.1 with
    | .error e => excludeContribution own.2 b x.step k e
    | .ok v => foldOnTime own.2 b k v)

/-- The memory that a firing takes. -/
def fireRuns (s : State) (x : Bucket) : List (Nat × Nat) :=
  let r := x.record
  digestRun r x.step :: (if r.ring_ then [sendRunOf r (hopShard s r 0)] else [(addrOff r.send, r.size)])

/-- BUCKET_FIRE. A firing that a replay repeats only takes its packs off the counter. -/
def execBucketFire (bucket : Nat) (s : State) : Res :=
  onUnit 256 bucket <|
    let x := s.bucket bucket
    let r := x.record
    if x.phase = .free ∨ watchReached s r = false then .next s
    else
      let s1 := addCounter s r.wtile r.wctr.toNat (0 - BitVec.ofNat 32 r.qpacks)
      if x.again > 0 then .next (s1.setBucket bucket { x with again := x.again - 1 })
      else match ownShard s r with
        | none => .next s
        | some k =>
          if x.phase ≠ .armed then .next s
          else if !runsReady s (fireRuns s x) then .next (wakeRuns s (fireRuns s x))
          else
            let s2 := beginSends (s1.setBucket bucket { x with
              phase := .fired, ready := s.ns, firedAt := s.clk, fires := (if inPitch s r.hostRing then x.fires + 1 else x.fires) }) bucket
            if r.ring_ then
              .next (if r.owners.length = 1 then noteSends s2 bucket else noteSends (startPartial s2 bucket) bucket)
            else .next (fireScatter s2 bucket k)

/-! ### Lines arriving (R284, R287, R288, R295) -/

/-- A stray line: discarded and counted. -/
def strayLine (s : State) : State := { s with red := { s.red with stray := satInc s.red.stray } }

/-- The step near the current one that a packet's 20 bits name. -/
def lineStep (x : Bucket) (bits20 : Nat) : Option W32 :=
  [x.step, x.step + 1, x.step - 1].find? (fun t => t.toNat % 2 ^ 20 == bits20)

/-- Count a landed line. -/
def addLanded (l : List (W32 × Nat × Nat)) (t : W32) (who : Nat) : List (W32 × Nat × Nat) :=
  if l.any (fun e => e.1 == t && e.2.1 == who) then l.map (fun e => if e.1 == t && e.2.1 == who then (e.1, e.2.1, e.2.2 + 1) else e)
  else l ++ [(t, who, 1)]

/-- A contribution joins those that are complete: after the ones of earlier cycles, in ascending owner index within one
cycle. -/
def addComplete (l : List (W32 × Nat × Nat)) (c : W32 × Nat × Nat) : List (W32 × Nat × Nat) :=
  l.takeWhile (fun e => decide (e.2.2 < c.2.2) || decide (e.2.1 < c.2.1)) ++
    c :: l.dropWhile (fun e => decide (e.2.2 < c.2.2) || decide (e.2.1 < c.2.1))

/-- A line whose check fails moves no byte and is reported (R430). -/
def badLine (s : State) (b : Nat) (k : Packet) : State :=
  record s { code := 0x0205, detail := 3, unit := bucketUnit b, kind := 1, data := dataAddr 0 k.src.toNat, remote := true }

/-- A step in which contributions are accepted (R284). -/
def stepOpen (x : Bucket) (t : W32) : Bool :=
  (x.phase == .armed || x.phase == .fired || x.phase == .closed) &&
    (t == x.step || t == x.step + 1 || (t == x.step - 1 && x.sweepOpen && x.phase != .closed))

/-- A contribution line. -/
def landContribution (s : State) (b j i : Nat) (t : W32) (k : Packet) : State :=
  let x := s.bucket b
  let n := 2 * x.record.share
  if !stepOpen x t || decide (i ≥ n) || x.taken.contains (t, j) then strayLine s
  else
    let s1 := bucketWrite s b (contributionAt x.record t j + 128 * i) k.payload (verify k.payload k.e2e == .markedBad)
    let s2 := hashInto s1 b k.src.toNat true (landedOf x t j == 0 && t == x.step + 1) 1 i t k.payload
    let y := s2.bucket b
    let landed := addLanded y.landed t j
    s2.setBucket b { y with
      landed := landed
      complete := if landedOf { y with landed := landed } t j = n then addComplete y.complete (t, j, s.clk) else y.complete }

/-- The hop that a partial line of a step belongs to: partials arrive in order on their stream, and line 0 begins one. -/
def nextHop (x : Bucket) (t : W32) (i : Nat) : Nat :=
  match (x.landed.filter (fun l => l.1 == t)).getLast? with
  | some l => if i = 0 ∨ l.2.2 = partialLines x.record then l.2.1 + 1 else l.2.1
  | none => if t = x.step then (x.hops.foldl max 0) + 1 else 1

/-- The half of `RECV` that a hop uses still holds another partial: the line waits (DEDUCED, log entry 34). -/
def halfTaken (x : Bucket) (t : W32) (h : Nat) : Bool := x.landed.any (fun l => l.2.1 % 2 == h % 2 && !(l.1 == t && l.2.1 == h))

/-- A ring partial line. -/
def landPartial (s : State) (b i h : Nat) (t : W32) (k : Packet) : State :=
  let x := s.bucket b
  let s1 := bucketWrite s b (partialAt x.record h + 128 * i) k.payload (verify k.payload k.e2e == .markedBad)
  let s2 := hashInto s1 b k.src.toNat true (landedOf x t h == 0 && h == 1 && t == x.step + 1) 2 i t k.payload
  s2.setBucket b { s2.bucket b with landed := addLanded (s2.bucket b).landed t h }

/-- Where a push line of an owner lands. -/
def pushAt (r : BucketRecord) (j i : Nat) : Nat := addrOff r.pushRx + j * r.pushLen + 128 * i

/-- A push line at its member: staged with its pitch like a request-class write, after the checks of R497, else written at once
(R271, R294, R295). A line that finds no space makes the member refuse the pitch's SPREP (R344). -/
def landPush (s : State) (b j i : Nat) (t : W32) (k : Packet) : State :=
  let x := s.bucket b
  let off := pushAt x.record j i
  let bad := verify k.payload k.e2e == .markedBad
  let counted (u : State) : State :=
    let y := u.bucket b
    let ps := if y.pushed.any (fun p => p.1 == j) then y.pushed.map (fun p => if p.1 == j then (j, p.2 + 1) else p) else y.pushed ++ [(j, 1)]
    hashInto (u.setBucket b { y with pushed := ps }) b k.src.toNat true false 3 i t k.payload
  match packetKey k with
  | none => counted (bucketWrite s b off k.payload bad)
  | some key =>
    let u := modStage s key id
    let code := refusal u .engine .write (some key) 0 off 128
    if code = 0 then counted (modStage (stageWrite u key 0 off k.payload bad) key (fun g => { g with pushes := (b, j, t) :: g.pushes }))
    else record (if code = 0x0604 then modStage u key (fun g => { g with refused := true }) else u)
      { code := code, unit := bucketUnit b, kind := 1, data := dataAddr (mkAddr 0xFFF 0 off) k.src.toNat, remote := true }

/-- Where a reduction line of another part goes: a state without its packet, or none while it must wait. -/
def acceptLine (s u : State) (k : Packet) : State :=
  let b := k.addr.toNat % 256
  let i := bits k.addr.toNat 31 8
  let x := u.bucket b
  let r := x.record
  let src := k.src.toNat
  match lineStep x (bits k.addr.toNat 51 32), r.owners.findIdx? (· == src) with
  | some t, some j =>
    if x.phase = .free ∨ x.phase = .declared then strayLine u
    else if verify k.payload k.e2e = .mismatch then badLine u b k
    else match k.aux.toNat with
      | 1 =>
        if r.ring_ ∨ (ownShard u r).isNone = true then strayLine u
        else if closeDue u x then s
        else if !runsReady s [(contributionAt r t j + 128 * i, 128), memberRun r t src] then wakeRuns s [(contributionAt r t j + 128 * i, 128), memberRun r t src]
        else landContribution u b j i t k
      | 2 =>
        let n := r.owners.length
        let h := nextHop x t i
        let fromPredecessor := (ownShard u r).any (fun m => j == (m + n - 1) % n)
        if !r.ring_ || !fromPredecessor || decide (i ≥ partialLines r) || decide (h ≥ n) || !(t == x.step + 1 || (t == x.step && x.phase != .closed)) then strayLine u
        else if halfTaken x t h then s
        else if !runsReady s [(partialAt r h + 128 * i, 128), memberRun r t src] then wakeRuns s [(partialAt r h + 128 * i, 128), memberRun r t src]
        else landPartial u b i h t k
      | 3 =>
        if !ownPushed u r || x.phase != .armed || t != x.step || decide (i ≥ r.pushLen / 128) then strayLine u
        else if !runsReady s [(pushAt r j i, 128), memberRun r t src] then wakeRuns s [(pushAt r j i, 128), memberRun r t src]
        else landPush u b j i t k
      | _ => strayLine u
  | _, _ => strayLine u

/-- RED: a reduction line reaches its engine. -/
def execRed (src : Nat) (s : State) : Res := onDelivered tRED 2 src s (fun k _ w u => acceptLine w u k)

/-! ### Push (R294, R295) -/

/-- The push counter has reached `PUSHLEN` / 256. -/
def pushReached (s : State) (r : BucketRecord) : Bool := reached (s.counter r.wtile r.pctr.toNat) (BitVec.ofNat 32 (r.pushLen / 256))

/-- PUSH_FIRE: once in each attempt of a pitch. -/
def execPushFire (bucket : Nat) (s : State) : Res :=
  onUnit 256 bucket <|
    let x := s.bucket bucket
    let r := x.record
    if x.phase ≠ .closed ∨ (ownShard s r).isNone = true ∨ r.pushLen = 0 ∨ pushReached s r = false ∨ (inPitch s r.hostRing = true ∧ x.pushFired = true) then .next s
    else if !runsReady s [(addrOff r.pushSrc, r.pushLen), digestRun r x.step] then .next (wakeRuns s [(addrOff r.pushSrc, r.pushLen), digestRun r x.step])
    else
      let s1 := addCounter s r.wtile r.pctr.toNat (0 - BitVec.ofNat 32 (r.pushLen / 256))
      let s2 := s1.setBucket bucket { x with pushFired := inPitch s r.hostRing }
      .next (r.pushedMembers.foldl (fun u d => sendArea u bucket d 3 x.step (addrOff r.pushSrc) (r.pushLen / 128)) s2)

/-- Lines of an owner's push that have landed. -/
def pushLines (x : Bucket) (j : Nat) : Nat := ((x.pushed.find? (fun p => p.1 == j)).map (·.2)).getD 0

/-- PUSHED_CLOSE: every owner's push has landed, and no stage holds its lines. -/
def execPushedClose (bucket : Nat) (s : State) : Res :=
  onUnit 256 bucket <|
    let x := s.bucket bucket
    let all := List.range x.record.owners.length
    ifDue (x.phase == .armed && ownPushed s x.record && all.all (fun j => pushLines x j == x.record.pushLen / 128) &&
        !s.cmd.stages.any (fun g => g.pushes.any (fun p => p.1 == bucket))) s
      (onReady s (endRuns x) (endStep s bucket 0 0xFFFFFFFF 0 0 0 all []))

/-! ### Pitches (R296) -/

/-- Change every declared bucket of a ring pair. -/
def modBuckets (s : State) (ring : Nat) (f : Bucket → Bucket) : State :=
  { s with red := { s.red with buckets := s.red.buckets.map fun b =>
      (b.1, if b.2.phase != .free && b.2.record.hostRing == ring then f b.2 else b.2) } }

/-- PITCH_OPEN: the counters of every bucket of the ring pair are recorded. -/
def bucketsOpen (s : State) (ring : Nat) : State :=
  modBuckets s ring (fun x => { x with
    watchRec := s.counter x.record.wtile x.record.wctr.toNat, pushRec := s.counter x.record.wtile x.record.pctr.toNat
    fires := 0, again := 0, pushFired := false })

/-- An attempt is discarded for replay: the counters go back, and firings of the pitch are not repeated. -/
def bucketsReplay (s : State) (ring : Nat) : State :=
  let s1 := (s.red.buckets.filter (fun b => b.2.phase != .free && b.2.record.hostRing == ring)).foldl (fun u b =>
    setCounter (setCounter u b.2.record.wtile b.2.record.wctr.toNat b.2.watchRec) b.2.record.wtile b.2.record.pctr.toNat b.2.pushRec) s
  modBuckets s1 ring (fun x => { x with again := x.fires, pushFired := false })

end Sys2Proof.Machine
end

