-- ==== Sys2Proof/Machine/Job.lean ====
section
/-! DEFINITION. The job (chapter 11): the job lock, pipes between stages, parameter gathers and pace groups. -/

namespace Sys2Proof.Machine

/-! ### The job lock (R304 to R306) -/

/-- A stage of another part is PREPARED here (R347). -/
def holdsPrepared (s : State) : Bool := s.cmd.stages.any (fun g => g.prepared && g.src != 0xFFF)

/-- The fields of a job record are in range (R304). -/
def jobRecordOk (b : Bytes) : Bool :=
  let n := field b 2 2
  let v := field b 4 1
  let p := field b 8 2
  field b 0 1 == 1 && field b 1 1 == 0 && decide (1 ≤ n) && decide (n ≤ 256) && decide (1 ≤ v) && decide (v ≤ 8) &&
    decide (field b 5 1 ≤ 1) && decide (1 ≤ p) && decide (p ≤ 256) && decide (field b 6 2 < p) && allZero b 10 6 &&
    field b 16 8 != 0 && field b 24 8 % 256 == 0 && decide (256 ≤ field b 32 4) && decide (field b 32 4 ≤ 16777216) &&
    allZero b 36 220 && n == p * v

/-- Enter LOCKED with a record and the bytes of the configuration: the digest is the first 128 bits of their SM3, MR8 is
extended with the epoch and the digest (R457), and Bivouac's pair role follows (R381). -/
def lockJob (s : State) (b cfg : Bytes) : State :=
  let role : PairRole := if field b 5 1 = 0 then .running else if s.snap.role = .running then .standby else s.snap.role
  let s1 := extendMr s 8 (sm3 (leBytes 8 (field b 16 8) ++ (sm3 cfg).take 16))
  epochChange { s1 with
    pwr := { s.pwr with lmap := [] }
    snap := { s.snap with role := role }
    job := { s.job with
      locked := true, jepoch := BitVec.ofNat 64 (field b 16 8), digest := BitVec.ofNat 128 (leNat ((sm3 cfg).take 16))
      role := BitVec.ofNat 8 (field b 5 1), nstage := BitVec.ofNat 16 (field b 2 2), vstages := BitVec.ofNat 8 (field b 4 1)
      pidx := BitVec.ofNat 16 (field b 6 2), pcount := BitVec.ofNat 16 (field b 8 2) } }

/-- JOB_LOCK LOCK. -/
def execJobLockLock (ring : Nat) (s : State) : Res :=
  startDesc 0x38 0 ring s (fun d u =>
    if s.job.locked then refuseDesc s ring d 0x0C01
    else withRecord s u ring d (opndAddr d 16) 256 256 0x0C02 (fun b v =>
      let a := BitVec.ofNat 64 (field b 24 8)
      let n := field b 32 4
      if jobRecordOk b = false ∨ s.fab.devValid = false ∨ holdsPrepared s = true ∨ hbmRun s a 256 n = false then
        refuseDesc s ring d 0x0C02
      else match ringRead v ring (addrOff a) n with
        | .wait => wakeUnit s 0 (addrOff a) n
        | .bad c det w => failDesc w ring d c det 1 (dataAddr a)
        | .ok cfg w => doneDesc (lockJob w b cfg) ring d 0 (zeros 16)))

/-- A pitch is open on some ring pair. -/
def anyPitch (s : State) : Bool := s.cmd.rings.any (fun r => r.2.pitch.phase != .none)

/-- Return to UNLOCKED; MR8 is extended with the digest of 24 zero bytes (R457). -/
def unlockJob (s : State) : State :=
  epochChange { extendMr s 8 (sm3 (zeros 24)) with
    pwr := { s.pwr with lmap := [] }
    job := { s.job with locked := false, jepoch := 0, digest := 0 } }

/-- JOB_LOCK UNLOCK. -/
def execJobLockUnlock (ring : Nat) (s : State) : Res :=
  startDesc 0x38 1 ring s (fun d u =>
    if !s.job.locked then doneDesc u ring d 0 (zeros 16)
    else if launchRunning s || anyPitch s || holdsPrepared s then refuseDesc s ring d 0x0C02
    else doneDesc (unlockJob u) ring d 0 (zeros 16))

/-! ### Pipes: declaring (R308) -/

/-- `PNUM` of the descriptor. -/
def pipeNum (d : Desc) : Nat := opnd d 9 1

/-- The side that a record describes. -/
def readPipe (b : Bytes) : Pipe :=
  { receiving := bit (field b 1 1) 0, peer := field b 2 2, pnum := field b 4 1, ring := field b 5 1, ctile := field b 6 2,
    c1 := BitVec.ofNat 8 (field b 8 1), c2 := BitVec.ofNat 8 (field b 9 1), peerTile := field b 10 2,
    peerCtr := BitVec.ofNat 8 (field b 12 1), area := BitVec.ofNat 64 (field b 16 8), slots := field b 24 4 }

/-- A pipe record that R308 accepts. -/
def pipeOk (s : State) (b : Bytes) : Bool :=
  let p := readPipe b
  field b 0 1 == 1 && decide (field b 1 1 < 2) && decide (p.peer < 4096) && decide (p.ring < 32) && decide (p.ctile < 1152) &&
    (if p.receiving then p.pnum == 0 && decide (p.peerTile < 1152) else p.peerTile == 0 && p.peerCtr == 0) &&
    allZero b 13 3 && p.area.toNat % 256 == 0 && decide (addrSpace p.area ≤ 1) && isOwn s p.area && decide (p.slots ≤ 2 ^ 28) &&
    rangeOk (addrSpace p.area) (addrOff p.area) (p.slots * 256) && allZero b 28 228 && p.c1 != p.c2

/-- Replace a pipe. -/
def setPipe (s : State) (n : Nat) (p : Pipe) : State := { s with job := { s.job with pipes := tset s.job.pipes n p } }

/-- PIPE DECLARE. -/
def execPipeDeclare (ring : Nat) (s : State) : Res :=
  startDesc 0x11 0 ring s (fun d u =>
    if s.job.locked then refuseDesc s ring d 0x0C01
    else withRecord s u ring d (opndAddr d 16) 256 256 0x0C03 (fun b v =>
      let p := readPipe b
      if pipeOk v b = false ∨ (tget? v.job.pipes (pipeNum d)).isSome = true then refuseDesc s ring d 0x0C03
      else if p.slots = 0 then doneDesc v ring d 0 (zeros 16)
      else doneDesc (setCounter (setCounter (setPipe v (pipeNum d) p) p.ctile p.c1.toNat 0) p.ctile p.c2.toNat 0) ring d 0 (zeros 16)))

/-- PIPE REMOVE. -/
def execPipeRemove (ring : Nat) (s : State) : Res :=
  startDesc 0x11 1 ring s (fun d u =>
    if s.job.locked then refuseDesc s ring d 0x0C01
    else doneDesc { u with job := { u.job with pipes := tdel u.job.pipes (pipeNum d) } } ring d 0 (zeros 16))

/-! ### Pipes: the sending side (R309, R311) -/

/-- Byte offset of the slot of pack k. -/
def pipeSlot (p : Pipe) (k : W32) : Nat := addrOff p.area + k.toNat % max p.slots 1 * 256

/-- The unit of a pipe side: the fabric agent of its counters' die. -/
def pipeUnit (p : Pipe) : W16 := unitCompute (p.ctile / 96)

/-- A fault of a pipe's agent, which works for the pipe's ring pair. -/
def pipeRaise (s : State) (p : Pipe) (code detail : Nat) (data : Bytes) : State :=
  memberFault s (some p.ring) { code := code, detail := detail, unit := pipeUnit p, kind := 1, data := data }

/-- What the agent does next with pack k, once it is produced: the bytes and their state, or the pack cannot be used. -/
def withPack (s : State) (p : Pipe) (k : W32) (go : Bytes → LineState → State → State) : State :=
  let sp := addrSpace p.area
  let off := pipeSlot p k
  let at_ := dataAddr (mkAddr 0xFFF sp off)
  let code := refusal s .agent .read none sp off 256
  if code ≠ 0 then pipeRaise s p code 0 at_
  else if !unitReady s sp off 256 then wakeUnit s sp off 256
  else
    let m := memRead' s ((ringView s p.ring).map (localKey s)) sp off 256 false
    match m.2.1 with
    | .markedBad => pipeRaise m.2.2 p 0x0205 2 at_
    | .mismatch => pipeRaise m.2.2 p 0x0205 1 at_
    | st => go m.1 st m.2.2

/-- One step of a fold: rotate left by 1, then exclusive or with the pack's check. -/
def foldPack (f : W32) (pack : Bytes) : W32 := f.rotateLeft 1 ^^^ e2eOf pack

/-- A half of pack k as a packet. -/
def pipePacket (p : Pipe) (k : W32) (half : Bool) (line : Bytes) (st : LineState) : Packet :=
  { typ := tPIPE, cls := 3, src := 0, dst := 0, addr := BitVec.ofNat 52 (p.pnum + b2n half * 2 ^ 8 + k.toNat * 2 ^ 9)
    payload := line, e2e := checkFor line st }

/-- The produced counter has reached k + 1. -/
def produced (s : State) (p : Pipe) (k : W32) : Bool := reached (s.counter p.ctile p.c1.toNat) (k + 1)

/-- Send pack k. -/
def sendPack (s : State) (n : Nat) (p : Pipe) : State :=
  withPack s p p.k (fun b st u =>
    let u1 := sendStream u p.peer 3 (pipePacket p p.k false (slice b 0 128) st)
    let u2 := sendStream u1 p.peer 3 (pipePacket p p.k true (slice b 128 128) st)
    setPipe u2 n { p with k := p.k + 1, fold := if inPitch u p.ring then foldPack p.fold b else p.fold })

/-- A replay has produced again a pack that was sent: it is folded, and at the last one the folds are compared. -/
def foldAgain (s : State) (n : Nat) (p : Pipe) (f : W32) : State :=
  withPack s p (p.base + p.again) (fun b _ u =>
    let g := foldPack f b
    if p.base + p.again + 1 ≠ p.k then setPipe u n { p with fold2 := some g, again := p.again + 1 }
    else
      let v := setPipe u n { p with fold2 := none, again := 0 }
      if g = p.fold then v else pipeRaise v p 0x0C04 0 (dataAddr p.area))

/-- PIPE_PACK_SEND. -/
def execPipePackSend (pipe : Nat) (s : State) : Res :=
  onUnit 256 pipe <|
    match tget? s.job.pipes pipe with
    | none => .next s
    | some p =>
      if p.receiving then .next s
      else match p.fold2 with
        | some f => ifDue (produced s p (p.base + p.again)) s (foldAgain s pipe p f)
        | none =>
          ifDue (produced s p p.k && decide ((p.k - s.counter p.ctile p.c2.toNat).toNat < p.slots)) s (sendPack s pipe p)

/-! ### Pipes: the receiving side (R310) -/

/-- Count a landed half; the second one raises the arrival counter. -/
def countHalf (s : State) (n : Nat) (p : Pipe) (k : W32) (half : Bool) : State :=
  if p.halves.contains (k, !half) then
    addCounter (setPipe s n { p with k := k + 1, halves := p.halves.filter (· != (k, !half)) }) p.ctile p.c1.toNat 1
  else setPipe s n { p with halves := (k, half) :: p.halves.filter (· != (k, half)) }

/-- Land a pipe line; `w` is the state in which it still waits. -/
def landPipe (w s : State) (n : Nat) (p : Pipe) (q : Packet) : State :=
  let k : W32 := BitVec.ofNat 32 (bits q.addr.toNat 40 9)
  let half := bit q.addr.toNat 8
  let sp := addrSpace p.area
  let off := pipeSlot p k + 128 * b2n half
  let st := verify q.payload q.e2e
  let at_ := dataAddr (mkAddr 0xFFF sp off) q.src.toNat
  let code := refusal s (.remote q.src.toNat) .write none sp off 128
  let s0 := if code = 0x0404 then { s with fab := { s.fab with ownViol := satInc s.fab.ownViol } } else s
  if code ≠ 0 then record s0 { code := code, unit := memoryUnit s sp off, kind := 1, data := at_, remote := true }
  else if !unitReady s sp off 128 then wakeUnit w sp off 128
  else if sp = 1 ∧ st ≠ .good then engineRaise s (off / 2 ^ 24) 0x0205 (if st = .markedBad then 2 else 1) 1 at_
  else if st = .mismatch then record s { code := 0x0205, detail := 3, unit := memoryUnit s sp off, kind := 1, data := at_, remote := true }
  else countHalf (memWrite' s none sp off q.payload (st == .markedBad)) n p k half

/-- PIPE: a line for a pipe number that no receiving side has is dropped (R234, detail 6). -/
def execPipe (src : Nat) (s : State) : Res :=
  onDelivered tPIPE 3 src s (fun q _ w u =>
    let n := q.addr.toNat % 256
    match tget? u.job.pipes n with
    | none => dropPacket u 6 (homeDie src 3)
    | some p => if p.receiving then landPipe w u n p q else dropPacket u 6 (homeDie src 3))

/-- Return credits up to a release count as one SIGNAL. -/
def returnCredit (s : State) (n : Nat) (p : Pipe) (upTo : W32) : State :=
  if upTo = p.credited then s
  else
    setPipe (sendSignal s none (mkAddr p.peer 1 (p.peerTile * 2 ^ 24)) p.peerCtr.toNat (upTo - p.credited).toNat) n
      { p with credited := upTo }

/-- Releases that may be credited now: all of them, or those made before the open pitch. -/
def creditable (s : State) (p : Pipe) : W32 :=
  if (s.ring p.ring).pitch.phase = .none then s.counter p.ctile p.c2.toNat else p.recorded

/-- PIPE_CREDIT_RETURN. -/
def execPipeCreditReturn (pipe : Nat) (s : State) : Res :=
  onUnit 256 pipe <|
    match tget? s.job.pipes pipe with
    | none => .next s
    | some p => ifDue p.receiving s (returnCredit s pipe p (creditable s p))

/-! ### Pipes and pitches (R311) -/

/-- Change every pipe side of a ring pair. -/
def modPipes (s : State) (ring : Nat) (f : Nat → Pipe → Pipe) : State :=
  { s with job := { s.job with pipes := s.job.pipes.map fun e => (e.1, if e.2.ring == ring then f e.1 e.2 else e.2) } }

/-- PITCH_OPEN: the counters are recorded and the folds start. -/
def pipesOpen (s : State) (ring : Nat) : State :=
  modPipes s ring (fun _ p =>
    { p with recorded := s.counter p.ctile (if p.receiving then p.c2 else p.c1).toNat, fold := 0, fold2 := none, base := p.k, again := 0 })

/-- An attempt is discarded: counters go back to their records; what was sent stays sent, and is folded a second time. -/
def pipesReplay (s : State) (ring : Nat) : State :=
  let s1 := (s.job.pipes.filter (fun e => e.2.ring == ring)).foldl (fun u e =>
    setCounter u e.2.ctile (if e.2.receiving then e.2.c2 else e.2.c1).toNat e.2.recorded) s
  modPipes s1 ring (fun _ p =>
    if p.receiving then p else { p with again := 0, fold2 := if p.k = p.base then none else some 0 })

/-- BELAY: the receiving sides send their credits. -/
def pipesBelay (s : State) (ring : Nat) : State :=
  (s.job.pipes.filter (fun e => e.2.ring == ring)).foldl (fun u e =>
    if e.2.receiving then returnCredit u e.1 e.2 (u.counter e.2.ctile e.2.c2.toNat) else u) s

/-! ### Gathers (R314, R315) -/

/-- An entry of a gather table. -/
structure GatherEntry where
  src   : W64
  dst   : W64
  npack : Nat
  dctr  : Byte
  wctr  : Byte
  dcen  : Bool
  wen   : Bool
  wval  : W32

/-- Entries of a table. -/
def gatherCount (b : Bytes) : Nat := field b 0 4

/-- Entry i. -/
def gatherEntry (b : Bytes) (i : Nat) : GatherEntry :=
  let o := 32 + 32 * i
  { src := BitVec.ofNat 64 (field b o 8), dst := BitVec.ofNat 64 (field b (o + 8) 8), npack := field b (o + 16) 4,
    dctr := BitVec.ofNat 8 (field b (o + 20) 1), wctr := BitVec.ofNat 8 (field b (o + 21) 1),
    dcen := bit (field b (o + 22) 2) 0, wen := bit (field b (o + 22) 2) 1, wval := BitVec.ofNat 32 (field b (o + 24) 4) }

/-- The form of entry i: reserved bits zero, aligned addresses, counters only in tile SRAM (R314). -/
def gatherFormOk (b : Bytes) (i : Nat) : Bool :=
  let e := gatherEntry b i
  let o := 32 + 32 * i
  decide (field b (o + 22) 2 < 4) && allZero b (o + 28) 4 && e.src.toNat % 256 == 0 && e.dst.toNat % 256 == 0 &&
    (!(e.dcen || e.wen) || addrSpace e.dst == 1)

/-- Entry i fetches from HBM to tile SRAM or HBM of this part; R25, which refuses a reserved `SPACE`, goes before. -/
def gatherSpaceOk (s : State) (b : Bytes) (i : Nat) : Bool :=
  let e := gatherEntry b i
  e.npack == 0 || (addrSpace e.src == 0 && decide (addrSpace e.dst ≤ 1) && isOwn s e.dst)

/-- R25 for entry i. -/
def gatherAddrOk (s : State) (b : Bytes) (i : Nat) : Bool :=
  let e := gatherEntry b i
  e.npack == 0 || (addrOk s e.src (e.npack * 256) && addrOk s e.dst (e.npack * 256))

/-- The die whose fabric agent fetches for a destination. -/
def gatherDie (s : State) (dst : W64) : Nat :=
  if addrSpace dst = 1 then addrTile dst / 96 else (placeOf s (addrOff dst)).1 / 64

/-- A GATHER of a ring pair that is under way. -/
def runningGather (s : State) (ring : Nat) : Option Desc := runningDesc s ring (fun r => match r with | .gather _ _ _ _ _ => true | _ => false)

/-- A gather ends: reads still outstanding are forgotten. -/
def endGather (s : State) (ring : Nat) (d : Desc) (code : Nat) : State :=
  let s1 := { s with fab := { s.fab with outstanding := s.fab.outstanding.filter (fun o =>
    match o.use_ with | .gatherLine _ r _ _ => r != ring | _ => true) } }
  doneDesc s1 ring d code (zeros 16)

/-- A gather meets a CONTAINED fault: it ends with it, and an open pitch stops. -/
def faultGather (s : State) (ring : Nat) (d : Desc) (code detail : Nat) (unit : W16) (a : W64) : State :=
  endGather (memberFault s (some ring) { code := code, detail := detail, unit := unit, kind := 1, data := dataAddr a }) ring d code

/-- Complete a gather whose lines have all landed. -/
def settleGather (s : State) (ring : Nat) : State :=
  match runningGather s ring with
  | some d =>
    match d.run with
    | .gather b next _ left f => if next ≥ gatherCount b ∧ left = 0 then endGather s ring d f.toNat else s
    | _ => s
  | none => s

/-- Write a line of a gather where it goes and count it; none while the unit is not ready. -/
def gatherSink (s : State) (ring : Nat) (d : Desc) (e : GatherEntry) (line : Nat) (data : Bytes) (st : LineState) : Option State :=
  let a := e.dst + BitVec.ofNat 64 (128 * line)
  let sp := addrSpace e.dst
  let off := addrOff a
  let key := if sp = 0 then (ringView s ring).map (localKey s) else none
  let code := refusal s (.ring ring) .write key sp off 128
  if sp = 1 ∧ st = .markedBad then some (faultGather s ring d 0x0205 2 (unitTile (off / 2 ^ 24)) a)
  else if sp = 1 ∧ st = .mismatch then some (faultGather s ring d 0x0205 1 (unitTile (off / 2 ^ 24)) a)
  else if st = .mismatch then some (faultGather s ring d 0x0205 3 (memoryUnit s sp off) a)
  else if code ≠ 0 then some (faultGather s ring d code 0 (memoryUnit s sp off) a)
  else if !unitReady s sp off 128 then none
  else
    let s1 := memWrite' s key sp off data (st == .markedBad)
    some (if e.dcen then addCounter s1 (addrTile e.dst) e.dctr.toNat 1 else s1)

/-- A line that was fetched lands: poison is written as it is and names the gather's fault; none while it must wait. -/
def gatherLanded (s : State) (ring entry line : Nat) (data : Bytes) (st : LineState) : Option State :=
  match runningGather s ring with
  | none => some s
  | some d =>
    match d.run with
    | .gather b next ln left f =>
      (gatherSink s ring d (gatherEntry b entry) line data st).map fun s1 =>
        match descOf s1 ring d.index with
        | some x =>
          if x.phase = .running then
            settleGather (runDesc s1 ring x (.gather b next ln (left - 1) (if st = .poison ∧ f = 0 then 0x0401 else f))) ring
          else s1
        | none => s1
    | _ => some s

/-- A line was refused by its owner. -/
def gatherRefused (s : State) (ring entry line code : Nat) : State :=
  match runningGather s ring with
  | none => s
  | some d =>
    match d.run with
    | .gather b _ _ _ _ => faultGather s ring d code 0 unitHost ((gatherEntry b entry).src + BitVec.ofNat 64 (128 * line))
    | _ => s

/-- Fetch line `line` of entry `i`: a READ toward another part, at once from this part's own memory in the ring pair's
view, with what its checks show, which is judged where it lands (R430, R432). None when it cannot be issued now. -/
def fetchLine (s : State) (ring : Nat) (d : Desc) (i line : Nat) (e : GatherEntry) : Option State :=
  let a := e.src + BitVec.ofNat 64 (128 * line)
  let die := gatherDie s e.dst
  if isOwn s e.src then
    let code := refusal s (.ring ring) .read none 0 (addrOff a) 128
    if code ≠ 0 then some (faultGather s ring d code 0 unitHost a)
    else if !unitReady s 0 (addrOff a) 128 then none
    else
      let m := memRead' s ((ringView s ring).map (localKey s)) 0 (addrOff a) 128 false
      gatherLanded m.2.2 ring i line m.1 m.2.1
  else if agentCount s die ≥ 4096 then none
  else some (noteMember (openRequest s (addrDev a) (.gatherLine die ring i line)
    (memberFields s (some ring) true (requestPacket tREAD a []))) (some ring) (addrDev a) false)

/-- Wake the memory that a line of a gather waits for. -/
def wakeGather (s : State) (e : GatherEntry) (line : Nat) : State :=
  let off := BitVec.ofNat 64 (128 * line)
  let s1 := wakeUnit s (addrSpace e.dst) (addrOff (e.dst + off)) 128
  if isOwn s e.src then wakeUnit s1 0 (addrOff (e.src + off)) 128 else s1

/-- Issue up to `n` lines of the current entry; the first that cannot be issued ends the run. -/
def issueLines : (n ring : Nat) → State → State
  | 0, _, s => s
  | n + 1, ring, s =>
    match runningGather s ring with
    | none => s
    | some d =>
      match d.run with
      | .gather b next line left f =>
        let e := gatherEntry b next
        if next ≥ gatherCount b ∨ line ≥ 2 * e.npack then s
        else
          match fetchLine (runDesc s ring d (.gather b next (line + 1) (left + 1) f)) ring d next line e with
          | none => wakeGather s e line
          | some u => issueLines n ring u
      | _ => s

/-- Step over an entry whose lines are all issued. -/
def nextEntry (s : State) (ring : Nat) : State :=
  match runningGather s ring with
  | none => s
  | some d =>
    match d.run with
    | .gather b next line left f =>
      if next < gatherCount b ∧ line ≥ 2 * (gatherEntry b next).npack then
        settleGather (runDesc s ring d (.gather b (next + 1) 0 left f)) ring
      else s
    | _ => s

/-- The entry may be issued: it waits for no counter, or its counter has reached the value, an empty entry like any other (R8,
R315). -/
def entryReady (s : State) (e : GatherEntry) : Bool :=
  !e.wen || reached (s.counter (addrTile e.dst) e.wctr.toNat) e.wval

/-- GATHER: the table is read and checked whole before anything is fetched. -/
def execGather (ring : Nat) (s : State) : Res :=
  startDesc 0x12 0 ring s (fun d u =>
    let a := opndAddr d 16
    withRecord s u ring d a 32 256 0x0C02 (fun h v =>
      let n := gatherCount h
      if n > 65536 ∨ allZero h 4 28 = false then refuseDesc s ring d 0x0C02
      else withRecord s v ring d a (32 + 32 * n) 256 0x0C02 (fun b w =>
        let is := List.range n
        if !is.all (gatherFormOk b) then refuseDesc s ring d 0x0C02
        else if !is.all (gatherAddrOk w b) then refuseDesc s ring d 0x0105
        else if !is.all (gatherSpaceOk w b) then refuseDesc s ring d 0x0C02
        else settleGather (runDesc w ring d (.gather b 0 0 0 0)) ring)))

/-- GATHER_ENTRY_ISSUE: the current entry's lines, as far as the die's agent has room. -/
def execGatherEntryIssue (ring : Nat) (s : State) : Res :=
  onUnit 32 ring <|
    match runningGather s ring with
    | none => .next s
    | some d =>
      match d.run with
      | .gather b next line _ _ =>
        let e := gatherEntry b next
        if next ≥ gatherCount b then .next (settleGather s ring)
        else if entryReady s e = false ∨ (s.ring ring).pitch.phase = .stopping then .next s
        else .next (nextEntry (issueLines (2 * e.npack - line) ring s) ring)
      | _ => .next s

/-! ### Pace groups (R319 to R323) -/

/-- The fields of a pace record are in range (R320). -/
def paceRecordOk (b : Bytes) : Bool :=
  field b 0 1 == 1 && decide (field b 1 1 < 3) && decide (field b 2 2 < 4096) && allZero b 10 6 && allZero b 24 232

/-- The group that a record names. -/
def readGroup (s : State) (b : Bytes) (ms : List Nat) : PaceGroup :=
  { mode := BitVec.ofNat 2 (field b 1 1), collector := field b 2 2, group := BitVec.ofNat 32 (field b 4 4), members := ms
    reportAt := s.clk, sentAt := s.clk, lastBelow := s.clk, lastAny := s.clk }

/-- This part collects its group. -/
def collects (s : State) (g : PaceGroup) : Bool := g.mode != 0 && s.fab.devValid && g.collector == ownDev s

/-- PACE: a record with `MODE` 0 leaves the group; a collector also reads its member list. -/
def execPace (ring : Nat) (s : State) : Res :=
  startDesc 0x22 0 ring s (fun d u =>
    withRecord s u ring d (opndAddr d 16) 256 256 0x0C02 (fun b v =>
      let n := field b 8 2
      let a := BitVec.ofNat 64 (field b 16 8)
      let put (w : State) (g : PaceGroup) : State := doneDesc { w with job := { w.job with pace := g } } ring d 0 (zeros 16)
      if !paceRecordOk b then refuseDesc s ring d 0x0C02
      else if field b 1 1 = 0 then put v {}
      else if !collects v (readGroup v b []) then put v (readGroup v b [])
      else if n = 0 ∨ n > 1024 ∨ hbmRun s a 1 (2 * n) = false then refuseDesc s ring d 0x0C02
      else match ringRead v ring (addrOff a) (2 * n) with
        | .wait => wakeUnit s 0 (addrOff a) (2 * n)
        | .bad c det w => failDesc w ring d c det 1 (dataAddr a)
        | .ok l w =>
          let ms := (List.range n).map (fun i => field l (2 * i) 2)
          if ms.any (fun m => decide (m ≥ 4096)) then refuseDesc s ring d 0x0C02 else put w (readGroup w b ms)))

/-- The payload of the exchange. -/
def pacePayload (s : State) (kind pace : Nat) (group : W32) : Bytes :=
  layout 16 [(0, 1, kind), (1, 1, pace), (2, 4, group.toNat), (6, 8, s.ns)]

/-- Send a MGMT packet. -/
def sendMgmt (s : State) (dst : Nat) (payload : Bytes) : State :=
  sendReply s dst { typ := tMGMT, cls := 1, src := 0, dst := 0, payload := payload }

/-- The pace that a part reports: 16 to 64. -/
def reportedPace (s : State) : Nat := min 64 (max 16 (ownPace s))

/-- The smallest pace reported in the last 300 µs; 64 when none was (R321). -/
def groupPaceOf (s : State) (g : PaceGroup) : Nat :=
  (g.reports.filter (fun r => !s.passed r.2.2 300)).foldl (fun m r => min m r.2.1) 64

/-- Change the pace group. -/
def modGroup (s : State) (f : PaceGroup → PaceGroup) : State := { s with job := { s.job with pace := f s.job.pace } }

/-- Reports with a further one; those that are 300 µs old go. -/
def addReport (s : State) (rs : List (Nat × Nat × Nat)) (dev pace : Nat) : List (Nat × Nat × Nat) :=
  rs.filter (fun r => !s.passed r.2.2 300) ++ [(dev, pace, s.clk)]

/-- A member's report reaches the collector. -/
def takeReport (s : State) (dev pace : Nat) : State :=
  modGroup s (fun g => if g.members.contains dev then { g with reports := addReport s g.reports dev pace } else g)

/-- The group pace reaches a member. -/
def takeGroupPace (s : State) (pace : Nat) : State :=
  modGroup s (fun g => { g with groupPace := pace, lastAny := s.clk, lastBelow := (if pace < 64 then s.clk else g.lastBelow), lost := false })

/-- PACE_REPORT_SEND: after a change, and every 100 µs while below 64. The collector's own report stays on the part. -/
def execPaceReportSend (s : State) : Res :=
  let g := s.job.pace
  let p := reportedPace s
  let due := g.mode != 0 && (p != g.reported || (decide (p < 64) && s.passed g.reportAt 100))
  ifDue due s <|
    let s1 := modGroup s (fun g => { g with reported := p, reportAt := s.clk })
    if collects s g then takeReport s1 (ownDev s) p else sendMgmt s1 g.collector (pacePayload s 1 p g.group)

/-- GROUP_PACE_SEND: after a change, every 100 µs below 64, every 1 ms otherwise. -/
def execGroupPaceSend (s : State) : Res :=
  let g := s.job.pace
  let p := groupPaceOf s g
  ifDue (collects s g && (p != g.sentPace || s.passed g.sentAt (if p < 64 then 100 else 1000))) s <|
    let s1 := modGroup s (fun g => { g with sentPace := p, sentAt := s.clk })
    g.members.foldl (fun u m => if m = ownDev s then takeGroupPace u p else sendMgmt u m (pacePayload s 2 p g.group)) s1

/-- A pace message of this group. -/
def paceMessage (s : State) (k : Packet) : Bool :=
  s.job.pace.mode != 0 && field k.payload 2 4 == s.job.pace.group.toNat && decide (16 ≤ field k.payload 1 1) && decide (field k.payload 1 1 ≤ 64)

/-- An MGMT packet for this part that is of the kind, or of no kind the manual gives. -/
def mgmtMine (kind : Nat) (s : State) (k : Packet) : Bool :=
  forHere s k && k.typ == tMGMT && (field k.payload 0 1 == kind || field k.payload 0 1 == 0 || decide (field k.payload 0 1 > 4))

/-- Serve the first arrived MGMT packet of a port when it is of the kind, or of no kind the manual gives, which is
discarded. -/
def onMgmt (kind port : Nat) (s : State) (body : Packet → State → State) : Res :=
  onArrived port s (mgmtMine kind s)
    (fun k u => if field k.payload 0 1 = kind then body k u else u)

/-- MGMT_PACE_REPORT. -/
def execMgmtPaceReport (port : Nat) (s : State) : Res :=
  onMgmt 1 port s (fun k u =>
    if paceMessage u k && collects u u.job.pace then takeReport u k.src.toNat (field k.payload 1 1) else u)

/-- MGMT_GROUP_PACE: from the group's collector. -/
def execMgmtGroupPace (port : Nat) (s : State) : Res :=
  onMgmt 2 port s (fun k u =>
    if paceMessage u k && k.src.toNat == u.job.pace.collector then takeGroupPace u (field k.payload 1 1) else u)

/-- GROUP_PACE_TIMEOUT. -/
def execGroupPaceTimeout (s : State) : Res :=
  ifDue (s.job.pace.mode != 0 && decide (s.job.pace.groupPace < 64) && s.passed s.job.pace.lastBelow 300) s
    (modGroup s (fun g => { g with groupPace := 64 }))

/-- PACE_LOST_TIMEOUT: raised once until a message comes again. -/
def execPaceLostTimeout (s : State) : Res :=
  ifDue (s.job.pace.mode != 0 && !s.job.pace.lost && s.passed s.job.pace.lastAny 3000) s
    (note (modGroup s (fun g => { g with groupPace := 64, lost := true })) 0x0C05 0 unitService)

end Sys2Proof.Machine
end

