-- ==== Sys2Proof/Machine/Power.lean ====
section
/-! DEFINITION. Power, ramp and heat (chapter 14): measurement, the control tick with its ranked limits, shares, boost,
hold load, hints, envelopes, lead swap, sensors, throttles, coolant, FLOOR and the trip. Ceilings and floors are kept in
microwatts. -/

namespace Sys2Proof.Machine

/-! ### Measurement (R384, R391) -/

/-- The sum of the newest `n` samples: the energy of that many microseconds. -/
def energyOf (s : State) (n : Nat) : Nat := (s.pwr.samples.take n).sum

/-- Samples of the window. -/
def windowLen (w : BitVec 5) : Nat := w.toNat * 1000000

/-- The window mean in watts. -/
def windowMean (s : State) (w : BitVec 5) : Nat := energyOf s (windowLen w) / max (windowLen w) 1

/-- Count and report a FLT_RAMP_CLAMP (R388, R397). -/
def rampClamp (s : State) (detail : Nat) : State :=
  note { s with pwr := { s.pwr with clamps := satInc s.pwr.clamps } } 0x0804 detail unitService

/-- Do a thing at most once in a time for a key. -/
def onceIn (s : State) (key us : Nat) (f : State → State) : State :=
  if (match tget? s.pwr.clampAt key with | some t => s.passed t us | none => true) then
    f { s with pwr := { s.pwr with clampAt := tset s.pwr.clampAt key s.clk } }
  else s

/-- The fast shed: every share at its floor and the compute pace at 16. -/
def startShed (s : State) : State :=
  rampClamp { s with pwr := { s.pwr with
    shed := true, own := 16, comp := 16, mem := s.pwr.floorMem, link := s.pwr.floorLink, boost := false, boostPace := 0 } } 3

/-- POWER_SAMPLE: the means, the ramp lines through every earlier level, and the fast shed. -/
def execPowerSample (watts : Nat) (s : State) : Res :=
  ifDue (s.pins.vaux && s.passed s.pwr.sampleAt 1) s <|
    let p := s.pwr
    let s1 := { s with pwr := { p with samples := (watts :: p.samples).take 30000000, sampleAt := s.clk } }
    let lv := energyOf s1 1000
    let s2 := { s1 with pwr := { s1.pwr with
      level := lv
      avg := windowMean s1 p.win
      upCeil := min (p.upCeil + p.rup.toNat) (lv * 1000)
      downFloor := max (p.downFloor - p.rdown.toNat) (lv * 1000) } }
    if s2.pwr.shed then { s2 with pwr := { s2.pwr with shed := decide (lv > 2800000) } }
    else if energyOf s2 100 > 300000 ∧ (p.phase = .run ∨ p.phase = .throttle) then startShed s2 else s2

/-! ### Shares (R392, R393) -/

/-- Share i: 0 link, 1 memory, 2 compute. -/
def shareOf (p : Power) (i : Nat) : Nat := match i with | 0 => p.link.toNat | 1 => p.mem.toNat | _ => p.own.toNat

/-- The floor of share i. -/
def shareFloor (p : Power) (i : Nat) : Nat := match i with | 0 => p.floorLink.toNat | 1 => p.floorMem.toNat | _ => p.floorComp.toNat

/-- Set share i. -/
def setShare (p : Power) (i v : Nat) : Power :=
  match i with
  | 0 => { p with link := BitVec.ofNat 7 v }
  | 1 => { p with mem := BitVec.ofNat 7 v }
  | _ => { p with own := BitVec.ofNat 7 v }

/-- The ceiling that a throttle puts on share i. -/
def Throttle.ceil (t : Throttle) (i : Nat) : Nat := match i with | 0 => t.link | 1 => t.mem | _ => t.comp

/-- Put a throttle's ceiling on share i. -/
def Throttle.put (t : Throttle) (i v : Nat) : Throttle :=
  match i with
  | 0 => { t with link := v }
  | 1 => { t with mem := v }
  | _ => { t with comp := v }

/-- The ceiling of share i: the throttles of rank 4, and fixed pace on compute (rank 7). -/
def shareCeil (p : Power) (i : Nat) : Nat :=
  let t := p.throttles.foldl (fun m x => min m (x.ceil i)) 64
  if 2 ≤ i ∧ p.fix ≠ 0 then min t p.fix.toNat else t

/-- The shares in the order of `PORDER`, highest priority first. -/
def shareOrder (p : Power) : List Nat := [bits p.order.toNat 1 0, bits p.order.toNat 3 2, bits p.order.toNat 5 4]

/-- The pace that MATCH allows (R322). -/
def matchPace (s : State) : Nat := if s.job.pace.mode = 1 then s.job.pace.groupPace else 64

/-- The pace in force without a rise: at most the controller's own and the MATCH group's, a fall at once, and no lower
than the compute floor by itself (R322). -/
def paceBase (s : State) (p : Power) : Nat := min (min p.own.toNat (matchPace s)) (max p.comp.toNat p.floorComp.toNat)

/-- Take that pace. -/
def takePace (s : State) (p : Power) : Power := { p with comp := BitVec.ofNat 7 (paceBase s p) }

/-- The draw predicted for a pace and shares, in microwatts (DESIGN CHOICE, log entry 12). -/
def drawAt (s : State) (pace mem link : Nat) : Nat := 1000000 * Config.predictedDraw pace mem link s.pwr.ticks

/-- The draw predicted for the pace and shares in force. -/
def drawOf (s : State) (p : Power) : Nat := drawAt s p.comp.toNat p.mem.toNat p.link.toNat

/-- Keep each share between its floor and its ceiling; a fixed pace below the floor decides. -/
def clampShares (p : Power) : Power :=
  [0, 1, 2].foldl (fun q i => setShare q i (min (shareCeil p i) (max (shareFloor p i) (shareOf q i)))) p

/-- Share i as it acts: the compute share at the pace in force. -/
def shareNow (p : Power) (i : Nat) : Nat := if 2 ≤ i then p.comp.toNat else shareOf p i

/-- Lower the share of lowest priority that is above its floor by one step (R393). -/
def shedStep (p : Power) : Power :=
  match (shareOrder p).reverse.find? (fun i => decide (shareNow p i > shareFloor p i)) with
  | some i => setShare p i (shareNow p i - 1)
  | none => p

/-- The greatest value from `v + 1` to `top` that fits, else v. -/
def greatestFit (v top : Nat) (fits : Nat → Bool) : Nat :=
  (((List.range (top - v)).map (fun k => top - k)).find? fits).getD v

/-- Raise share i as far as the predicted draw allows. The controller's own pace counts as the MATCH group lets it run; the
pace in force follows it as far as the draw allows. -/
def raiseShare (s : State) (most : Nat) (p : Power) (i : Nat) : Power :=
  let top := shareCeil p i
  match i with
  | 0 => setShare p 0 (greatestFit (shareOf p 0) top (fun v => decide (drawAt s p.comp.toNat p.mem.toNat v ≤ most)))
  | 1 => setShare p 1 (greatestFit (shareOf p 1) top (fun v => decide (drawAt s p.comp.toNat v p.link.toNat ≤ most)))
  | _ =>
    let fits (v : Nat) : Bool := decide (drawAt s v p.mem.toNat p.link.toNat ≤ most)
    let q := setShare p 2 (greatestFit (shareOf p 2) top (fun v => fits (min v (matchPace s))))
    { q with comp := BitVec.ofNat 7 (greatestFit p.comp.toNat (min q.own.toNat (matchPace s)) fits) }

/-- The highest shares whose predicted draw is at most the ceiling, restored in the order of shares (R387, R393). -/
def restoreShares (s : State) (most : Nat) (p : Power) : Power := (shareOrder p).foldl (raiseShare s most) p

/-- Some share, or the pace in force, stands below what its own ceilings let it be. -/
def heldBack (s : State) (p : Power) : Bool :=
  [0, 1, 2].any (fun i => decide (shareOf p i < shareCeil p i)) || decide (p.comp.toNat < min p.own.toNat (matchPace s))

/-! ### Envelopes and hints (R400 to R402) -/

/-- E(t) in microwatts, between the first and the last point. -/
def envelopeAt (ns : Nat) : List (Nat × Nat) → Option Nat
  | a :: b :: r =>
    if ns < a.1 then none
    else if ns < b.1 then
      some (((a.2 : Int) * 1000000 + ((b.2 : Int) - a.2) * 1000000 * (ns - a.1 : Nat) / (b.1 - a.1 : Nat)).toNat)
    else envelopeAt ns (b :: r)
  | _ => none

/-- The floor of a hint in microwatts. -/
def hintFloor (rup ns : Nat) (h : Hint) : Option Nat :=
  let stop := h.start + h.dur * 1000
  if ns < h.start then
    if h.watts > h.level then
      let tp := max h.at_ (h.start - (h.watts - h.level) * 1000000000 / max rup 1)
      if ns ≥ tp then some (min (h.watts * 1000000) (h.level * 1000000 + rup * (ns - tp) / 1000)) else none
    else none
  else if ns < stop then some (h.watts * 1000000) else none

/-- An accepted envelope's first instant has come. -/
def envDue (ns : Nat) (e : List (Nat × Nat)) : Bool := match e with | a :: _ => decide (a.1 ≤ ns) | [] => true

/-- The first instant of an envelope. -/
def envStart (e : List (Nat × Nat)) : Nat := match e with | a :: _ => a.1 | [] => 0

/-- Bring in the accepted envelope whose first point came last, and drop what has ended. -/
def turnPlans (s : State) : State :=
  let p := s.pwr
  let now := (p.nextEnv.filter (envDue s.ns)).foldl (fun m e => if envStart e ≥ envStart m then e else m) []
  let cur := if now.isEmpty then p.envelope else now
  let live := match cur.getLast? with | some l => if s.ns ≥ l.1 then [] else cur | none => []
  { s with pwr := { p with
    envelope := live, nextEnv := p.nextEnv.filter (fun e => !envDue s.ns e), hints := p.hints.filter (fun h => decide (s.ns < h.start + h.dur * 1000))
    envBad := if live.isEmpty then none else p.envBad
    envMissed := !live.isEmpty && p.envMissed } }

/-! ### Limits in their order (R386, R387, R389, R390) -/

/-- Ticks k, k + 1, … of a fall from X watts, `e` of them spent: every window of `n` samples that ends at one of them
stays within `most`. -/
def fallFits (s : State) (x n most : Nat) : (left k e : Nat) → Bool
  | 0, _, _ => true
  | left + 1, k, e =>
    let e1 := e + 10 * (x * 100000 - s.pwr.rdown.toNat * (k - 1))
    decide (energyOf s (n - 10 * (k + 1)) * 100000 + e1 ≤ most) && fallFits s x n most left (k + 1) e1

/-- A level of X watts is admitted by the cap: holding it for the next tick and then falling at r_down keeps every window
that ends at a tick of the fall at or below C. -/
def capAdmits (s : State) (x : Nat) : Bool :=
  let p := s.pwr
  let c := p.cap.toNat
  let n := windowLen p.win
  let ticks := if p.hold then ((x - c) * 100000 + p.rdown.toNat - 1) / max p.rdown.toNat 1 else 0
  decide (x ≤ c) || fallFits s x n (c * n * 100000) (ticks + 1) 0 0

/-- The ceiling of rank 5 in microwatts. -/
def capCeil (s : State) : Nat :=
  match s.pwr.capFall with
  | some v => v
  | none =>
    let c := s.pwr.cap.toNat
    1000000 * (((List.range (3000 - c)).map (fun i => 3000 - i)).find? (capAdmits s)).getD c

/-- The coolant ceiling in microwatts, from the present C (R410). -/
def coolCeil (p : Power) : Option Nat := p.coolPart.map (fun k => p.cap.toNat * 1000 * k / 7)

/-- The power ceilings with their ranks. -/
def ceilings (s : State) : List (Nat × Nat) :=
  let p := s.pwr
  [(3, 3000000000)] ++ (match coolCeil p with | some m => [(4, m)] | none => []) ++
    [(5, capCeil s), (6, p.upCeil + 10 * p.rup.toNat)] ++
    (match envelopeAt s.ns p.envelope with | some e => [(8, e)] | none => [])

/-- The least ceiling and the smallest rank that sets it. -/
def leastCeil (s : State) : Nat × Nat := (ceilings s).foldl (fun m c => if c.2 < m.2 then c else m) (3, 3000000000)

/-- The floors with their ranks. The down-ramp floor needs power hold; envelope and hints do not. -/
def floors (s : State) : List (Nat × Nat) :=
  let p := s.pwr
  (match envelopeAt s.ns p.envelope with | some e => [(8, e)] | none => []) ++
    (p.hints.filterMap (hintFloor p.rup.toNat s.ns)).map (fun f => (9, f)) ++
    (if p.hold then [(9, p.downFloor - 10 * p.rdown.toNat)] else [])

/-- The greatest floor and its rank. -/
def greatestFloor (s : State) : Nat × Nat := (floors s).foldl (fun m f => if f.2 > m.2 then f else m) (0, 0)

/-! ### Boost (R394, R395) -/

/-- Every reading of the dies and stacks is at most t. -/
def coolerThan (s : State) (t : Int) : Bool :=
  s.pwr.dieTemp.all (fun d => decide (d.2 ≤ t)) && s.hbm.stk.all (fun k => decide ((k.2.temp.toNat : Int) ≤ t))

/-- The conditions of boost. -/
def boostAllowed (s : State) : Bool :=
  let p := s.pwr
  p.boostOk && p.fix == 0 && matchPace s == 64 && p.throttles.isEmpty && p.coolPart.isNone && !p.shed && coolerThan s 90 &&
    (ceilings s).all (fun c => decide (c.1 > 6) || decide (p.level * 1000 + p.cap.toNat * 100000 ≤ c.2))

/-- One tick of boost. -/
def boostStep (s : State) : State :=
  let p := s.pwr
  let off : Power := { p with boost := false, boostPace := 0 }
  if p.boost then
    if !p.throttles.isEmpty || p.coolPart.isSome || p.shed then { s with pwr := off }
    else if boostAllowed s then { s with pwr := { p with boostPace := if p.boostPace.toNat < 64 then p.boostPace + 1 else p.boostPace } }
    else if p.boostPace.toNat > 56 then { s with pwr := { p with boostPace := p.boostPace - 1 } }
    else { s with pwr := off }
  else if p.comp = 64 ∧ boostAllowed s = true then { s with pwr := { p with boost := true, boostPace := 56 } }
  else s

/-! ### The hold load (R398, R399) -/

/-- The hold load of a tick in watts: what the floor asks within the ceiling, at most 810 W × k ÷ 64; none in THROTTLE or
FLOOR. -/
def holdLoad (s : State) (ceil flr draw : Nat) : Nat :=
  if s.pwr.phase = .run then min ((min flr ceil - draw) / 1000000) (810 * s.pwr.comp.toNat / 64) else 0

/-- Add a tick's hold energy. -/
def addHold (s : State) (w : Nat) : State :=
  let t := s.pwr.holdPart + w
  { s with pwr := { s.pwr with
    holdWatts := BitVec.ofNat 12 w, holdJoule := satInc s.pwr.holdJoule (t / 100000), holdPart := t % 100000 } }

/-- Report a fall that the hold load does not fill: detail 3 where a protection causes it, else detail 5, once a second;
each such millisecond of detail 5 is counted. -/
def noteFall (s : State) (draw hold : Nat) : State :=
  if draw + hold * 1000000 ≥ s.pwr.downFloor - 10 * s.pwr.rdown.toNat then s
  else if s.pwr.shed || s.pwr.phase == .throttle || s.pwr.phase == .floor then onceIn s 3 1000000 (fun u => rampClamp u 3)
  else
    let s1 := onceIn s 4 1000 (fun u => { u with pwr := { u.pwr with breach := satInc u.pwr.breach } })
    onceIn s1 5 1000000 (fun u => rampClamp u 5)

/-- The newest running launch that has not yet been reported as clamped (R397). -/
def freshLaunch (s : State) : Option Launch := (s.cmd.launches.filter (fun l => !l.finished && !l.started.isEmpty)).getLast?

/-- A start whose demand the up-ramp trims. -/
def noteStart (s : State) : State :=
  match freshLaunch s with
  | some l => if l.clamped then s else rampClamp (modLaunch s l.id (fun x => { x with clamped := true })) 1
  | none => s

/-! ### The tick -/

/-- RUN and THROTTLE follow from whether a rank-4 ceiling is in force (R413). -/
def settlePower (s : State) : State :=
  let on := !s.pwr.throttles.isEmpty || s.pwr.coolPart.isSome
  match s.pwr.phase with
  | .run => if on then { s with pwr := { s.pwr with phase := .throttle } } else s
  | .throttle => if on then s else { s with pwr := { s.pwr with phase := .run } }
  | _ => s

/-- The hottest die. -/
def hottestDie (s : State) : Int := s.pwr.dieTemp.foldl (fun m d => max m d.2) (-40)

/-- Leave FLOOR when R411 allows it, at the floors. -/
def leaveFloor (s : State) : State :=
  if hottestDie s ≤ s.pwr.floorTemp - 5 ∧ hottestDie s ≤ 95 ∧ s.pwr.flow.toNat ≥ 350 then
    settlePower { s with pwr := takePace s { s.pwr with phase := .run, own := s.pwr.floorComp } }
  else s

/-- The falling cap ceiling moves one tick. -/
def fallCap (s : State) : State :=
  match s.pwr.capFall with
  | some v =>
    let w := v - 10 * s.pwr.rdown.toNat
    { s with pwr := { s.pwr with capFall := if w ≤ s.pwr.cap.toNat * 1000000 then none else some w } }
  | none => s

/-- The mean of E over the last 100 ms, in microwatts: at each millisecond. -/
def envelopeMean (s : State) : Option Nat :=
  let l := (List.range 100).map (fun i => envelopeAt (s.ns - i * 1000000) s.pwr.envelope)
  if l.any (·.isNone) then none else some ((l.filterMap id).sum / 100)

/-- The envelope's tolerance (R402): a deviation of more than 1 s is reported once. -/
def noteEnvelope (s : State) (bind : Nat) : State :=
  let p := s.pwr
  match envelopeMean s, p.envelope with
  | some e, a :: _ =>
    let got := energyOf s 100000 * 10
    let floorDraw := drawAt s (min p.floorComp.toNat (matchPace s)) p.floorMem.toNat p.floorLink.toNat
    let off := decide (s.ns ≥ a.1 + 1000000000) && (decide (got * 50 > e * 51) || decide (got * 50 < e * 49)) &&
      !(decide (1 ≤ bind) && decide (bind ≤ 7)) && decide (floorDraw ≤ e)
    if !off then { s with pwr := { p with envBad := none, envMissed := false } }
    else match p.envBad with
      | none => { s with pwr := { p with envBad := some s.clk } }
      | some t =>
        if s.passed t 1000000 ∧ p.envMissed = false then note { s with pwr := { p with envMissed := true } } 0x0808 0 unitService
        else s
  | _, _ => s

/-- The rank reported in `BIND`: the smallest of the limits that hold a share or the hold load back, or that the hold load
meets (R387). -/
def bindRank (s : State) (least flr : Nat × Nat) (draw hold : Nat) : Nat :=
  let p := s.pwr
  let held := [0, 1, 2].any (fun i => decide (shareOf p i < 64) && decide (shareOf p i ≥ p.throttles.foldl (fun m x => min m (x.ceil i)) 64))
  let l := (if p.shed then [3] else []) ++ (if held then [4] else []) ++
    (if heldBack s p || decide (draw > least.2) || (decide (flr.2 > least.2) && decide (flr.2 > draw)) then [least.1] else []) ++
    (if (p.fix != 0 && decide (p.own.toNat ≥ p.fix.toNat) && decide (p.fix.toNat < 64)) || decide (matchPace s < p.own.toNat) then [7] else []) ++
    (if hold > 0 then [flr.1] else [])
  match l with
  | [] => 0
  | a :: r => r.foldl min a

/-- A tick in RUN or THROTTLE. -/
def runTick (s0 : State) : State :=
  let s := fallCap s0
  let p := takePace s (clampShares s.pwr)
  let least := leastCeil s
  let exceeds := decide (drawOf s p > least.2)
  let q := if s.pwr.shed then takePace s s.pwr else if exceeds then takePace s (shedStep p) else restoreShares s least.2 p
  let s1 := { s with pwr := q }
  let s2 := if exceeds && least.1 == 6 then noteStart s1 else s1
  let s3 := boostStep s2
  let flr := greatestFloor s3
  let draw := drawOf s3 s3.pwr
  let hold := holdLoad s3 least.2 flr.2 draw
  let bind := bindRank s3 least flr draw hold
  noteEnvelope (noteFall (addHold { s3 with pwr := { s3.pwr with bind := BitVec.ofNat 4 bind } } hold) draw hold) bind

/-- A tick in FLOOR: memory and link at their floors, no arithmetic, no hold load; a fall below the down-ramp is a
protection's (R388). -/
def floorTick (s : State) : State :=
  let s1 := { s with pwr := { s.pwr with
    own := 0, comp := 0, mem := s.pwr.floorMem, link := s.pwr.floorLink, boost := false, boostPace := 0, holdWatts := 0, bind := 2 } }
  leaveFloor (noteFall s1 (drawOf s1 s1.pwr) 0)

/-- CONTROL_TICK: every 10 µs. -/
def execControlTick (s : State) : Res :=
  ifDue (s.passed s.pwr.tickAt 10 && (s.pwr.phase == .run || s.pwr.phase == .throttle || s.pwr.phase == .floor)) s <|
    let s1 := turnPlans { s with pwr := { s.pwr with tickAt := s.clk, ticks := s.pwr.ticks + 1 } }
    releaseRows (if s1.pwr.phase = .floor then floorTick s1 else settlePower (runTick s1))

/-! ### Register writes (R390, R395, R402, R414) -/

/-- A refused setting. -/
def powerRefused (s : State) : State := note s 0x0807 0 unitService

/-- PCAP_WRITE: a lower C starts the ceiling at the present level. -/
def execPcapWrite (host : Nat) (value : W32) (s : State) : Res :=
  setupWrite host s <|
    let v := value.toNat % 4096
    let p := s.pwr
    if v < 1000 ∨ v > p.maxCap.toNat then powerRefused s
    else { s with pwr := { p with
      cap := BitVec.ofNat 12 v
      capFall := if v < p.cap.toNat ∧ p.level * 1000 > v * 1000000 then some (p.level * 1000) else if v > p.cap.toNat then none else p.capFall } }

/-- PWIN_WRITE. -/
def execPwinWrite (host : Nat) (value : W32) (s : State) : Res :=
  setupWrite host s <|
    let v := value.toNat % 32
    if v < 1 ∨ v > 30 then powerRefused s
    else { s with pwr := { s.pwr with win := BitVec.ofNat 5 v, avg := windowMean s (BitVec.ofNat 5 v) } }

/-- PFIX_WRITE. -/
def execPfixWrite (host : Nat) (value : W32) (s : State) : Res :=
  setupWrite host s <|
    let v := value.toNat % 128
    if v = 0 ∨ (16 ≤ v ∧ v ≤ 64) then { s with pwr := { s.pwr with fix := BitVec.ofNat 7 v } } else powerRefused s

/-- ENVCLR: the active envelope ends at once. -/
def clearEnvelope (s : State) : State := { s with pwr := { s.pwr with envelope := [], envBad := none, envMissed := false } }

/-- ENVCLR. -/
def execEnvclr (host : Nat) (s : State) : Res := setupWrite host s (clearEnvelope s)

/-! ### HINT and ENVELOPE -/

/-- HINT: waits, not started, while 16 are held. -/
def execHint (ring : Nat) (s : State) : Res :=
  startDesc 0x20 0 ring s (fun d u =>
    let st := opnd d 8 8
    let du := opnd d 16 4
    let w := opnd d 20 2
    let p := u.pwr
    let done (v : State) : State := doneDesc v ring d 0 (zeros 16)
    if w = 0 ∨ du = 0 then (if p.hints.length ≥ 16 then s else done u)
    else if u.ns ≥ st + du * 1000 then done u
    else if p.hints.any (fun h => h.start == st && h.dur == du && h.watts == w) then done u
    else if p.hints.length ≥ 16 then s
    else
      let l0 := p.level / 1000
      let h : Hint := ⟨st, du, w, l0, u.ns⟩
      let v := { u with pwr := { p with hints := p.hints ++ [h] } }
      let reachable := decide (w ≤ l0) || decide (u.ns + (w - l0) * 1000000000 / max p.rup.toNat 1 ≤ st)
      done (if reachable then v else rampClamp v 2))

/-- The points of a record. -/
def envelopePoints (b : Bytes) (n : Nat) : List (Nat × Nat) :=
  (List.range n).map (fun j => (field b (16 + 16 * j) 8, field b (24 + 16 * j) 2))

/-- Points rise in time, and no segment is steeper than the ramp limits. -/
def slopesOk (p : Power) : List (Nat × Nat) → Bool
  | a :: b :: r =>
    decide (a.1 < b.1) && decide ((b.2 - a.2) * 1000000000 ≤ p.rup.toNat * (b.1 - a.1)) &&
      decide ((a.2 - b.2) * 1000000000 ≤ p.rdown.toNat * (b.1 - a.1)) && slopesOk p (b :: r)
  | _ => true

/-- ENVELOPE. -/
def execEnvelope (ring : Nat) (s : State) : Res :=
  startDesc 0x21 0 ring s (fun d u =>
    withRecord s u ring d (opndAddr d 16) 16 256 0x0807 (fun h v =>
      let n := field h 2 2
      if field h 0 1 ≠ 1 ∨ field h 1 1 ≠ 0 ∨ n > 256 ∨ allZero h 4 12 = false then refuseDesc s ring d 0x0807
      else withRecord s v ring d (opndAddr d 16) (16 + 16 * n) 256 0x0807 (fun b w =>
        let pts := envelopePoints b n
        let clean := (List.range n).all (fun j => allZero b (26 + 16 * j) 6)
        if !clean || pts.any (fun e => decide (e.2 > w.pwr.cap.toNat)) || !slopesOk w.pwr pts then refuseDesc s ring d 0x0807
        else if n = 0 then doneDesc w ring d 0 (zeros 16)
        else doneDesc (turnPlans { w with pwr := { w.pwr with nextEnv := w.pwr.nextEnv ++ [pts] } }) ring d 0 (zeros 16))))

/-! ### Lead swap (R404, R405) -/

/-- The hot spot of a compute tile. -/
def spotOf (t : Nat) : Nat := 16 * (t / 96) + t % 96 / 12 / 2 * 4 + t % 12 / 3

/-- A tile's temperature. -/
def tileTemp (s : State) (t : Nat) : Int := (tget s.pwr.spots (spotOf t) {}).used

/-- A tile that may be exchanged. -/
def swappable (s : State) (t : Nat) : Bool :=
  (s.tile t).mode != 2 && s.pwr.domains.contains (rowDomain t) &&
    !s.cmd.launches.any (fun l => !l.rot && holdsTile l t) &&
    !s.red.buckets.any (fun b => b.2.phase != .free && b.2.record.wtile == t) && !s.job.pipes.any (fun p => p.2.ctile == t)

/-- The logical tile mapped to a physical one. -/
def logicalOn (s : State) (t : Nat) : Nat := ((List.range 96).map (t / 96 * 96 + ·)).find? (fun l => physOf s l == t) |>.getD t

/-- The tile of a list with the greatest key, the lowest number first. -/
def hottestTile (key : Nat → Int) : List Nat → Option Nat
  | [] => none
  | t :: r => some (r.foldl (fun m x => if key x > key m then x else m) t)

/-- Exchange hottest and coolest tiles until they differ by less than 3 °C. -/
def swapTiles : Nat → State → List Nat → List Nat → State
  | 0, s, _, _ => s
  | n + 1, s, hot, cool =>
    match hottestTile (tileTemp s) hot, hottestTile (fun t => -tileTemp s t) cool with
    | some h, some c =>
      if tileTemp s h - tileTemp s c < 3 then s
      else
        let lh := logicalOn s h
        let lc := logicalOn s c
        swapTiles n { s with pwr := { s.pwr with lmap := tset (tset s.pwr.lmap lh c) lc h } }
          (hot.filter (· != h)) (cool.filter (· != c))
    | _, _ => s

/-- Evaluate the classes of one die. -/
def swapDie (s : State) (die : Nat) : State :=
  let ts := ((List.range 96).map (die * 96 + ·)).filter (swappable s)
  let cls (t : Nat) : BitVec 2 × Nat := ((s.tile t).mode, tileWidth (s.tile t))
  ((ts.map cls).eraseDups).foldl (fun u k =>
    let mine := ts.filter (fun t => cls t == k)
    let used := mine.filter (fun t => s.pwr.used.contains (logicalOn s t))
    swapTiles 96 u used (mine.filter (fun t => !used.contains t))) s

/-- The evaluation at an accepted PITCH_OPEN. -/
def leadSwap (s : State) : State :=
  if s.job.locked && s.pwr.lswap && !s.cmd.launches.any (fun l => l.rot && !l.finished) then
    let s1 := (List.range 12).foldl swapDie s
    { s1 with pwr := { s1.pwr with used := [] } }
  else s

/-! ### Trip and FLOOR (R411, R412) -/

/-- The trip: THERMTRIP_N low, the FATAL record kept on the service die until the part next reaches RUN, every VIN12
domain off. -/
def tripPart (s : State) (detail : Nat) : State :=
  if s.pwr.phase = .off ∨ s.pwr.phase = .tripped then s
  else
    let f : Raise := { code := 0x0803, detail := detail, unit := unitService }
    let s1 := domainsOff (fatal { s with log := { s.log with ringUp := false, trip := some (recordOf s f) } } f)
    { s1 with
      pwr := { s1.pwr with phase := .tripped, tripDetail := BitVec.ofNat 8 detail }
      pins := { s1.pins with tripLow := true } }

/-- Enter FLOOR. -/
def enterFloor (s : State) : State :=
  if s.pwr.phase = .run ∨ s.pwr.phase = .throttle then
    note (floorTick { s with pwr := { s.pwr with phase := .floor, floorTemp := hottestDie s, floorAt := s.clk } }) 0x0802 4 unitService
  else s

/-- FLOOR_TIMEOUT. -/
def execFloorTimeout (s : State) : Res :=
  ifDue (s.pwr.phase == .floor && s.passed s.pwr.floorAt 2000000 && decide (hottestDie s > s.pwr.floorTemp - 5)) s (tripPart s 2)

/-- THERMAL_COMPARATOR_TRIP. -/
def execThermalComparatorTrip (s : State) : Res := .next (tripPart s 1)

/-! ### Throttles (R408, R409) -/

/-- Unit of a die by its number in `PDIE`. -/
def dieUnit (d : Nat) : W16 := if d < 12 then unitCompute d else if d < 16 then unitFabric (d - 12) else if d = 16 then unitHost else unitService

/-- Unit of a source: a die, or stack 18 + s. -/
def sourceUnitOf (k : Nat) : W16 := if k < 18 then dieUnit k else unitStack (k - 18)

/-- The shares that a source throttles, first and second. -/
def throttleShares (k : Nat) : Nat × Nat :=
  if k ≥ 18 then (1, 2) else if 12 ≤ k ∧ k < 16 then (0, 2) else (2, 1)

/-- Lower a throttle's ceilings by one step. -/
def dropOne (p : Power) (t : Throttle) : Throttle :=
  let i := (throttleShares t.source).1
  let j := (throttleShares t.source).2
  let a := min (t.ceil i) (shareOf p i)
  let b := min (t.ceil j) (shareOf p j)
  if a > shareFloor p i then t.put i (a - 1) else if b > shareFloor p j then t.put j (b - 1) else t

/-- Begin a throttle: four steps at once. -/
def beginThrottle (s : State) (k : Nat) : State :=
  let t := (List.range 4).foldl (fun t _ => dropOne s.pwr t) ({ source := k, lastAt := s.clk } : Throttle)
  settlePower { s with pwr := { s.pwr with throttles := s.pwr.throttles ++ [t] } }

/-- The warning of a source at 95 °C, once per crossing, re-armed at 92 °C. -/
def warnSource (s : State) (k : Nat) (c : Int) : State :=
  if c ≥ 95 ∧ s.pwr.warned.contains k = false then
    note { s with pwr := { s.pwr with warned := insertNat k s.pwr.warned } } 0x0805 (if k < 18 then 1 else 4) (sourceUnitOf k)
  else if c ≤ 92 then { s with pwr := { s.pwr with warned := s.pwr.warned.filter (· != k) } } else s

/-- The warning of a source at 100 °C, once per crossing, re-armed at 97 °C. -/
def warnHot (s : State) (k : Nat) (c : Int) : State :=
  if c ≥ 100 ∧ s.pwr.hot.contains k = false then
    note { s with pwr := { s.pwr with hot := insertNat k s.pwr.hot } } 0x0805 (if k < 18 then 2 else 5) (sourceUnitOf k)
  else if c ≤ 97 then { s with pwr := { s.pwr with hot := s.pwr.hot.filter (· != k) } } else s

/-- A source's new temperature: its warnings, and the throttle at 100 °C (R408, R409). -/
def heatSource (s : State) (k : Nat) (c : Int) : State :=
  let s1 := warnHot (warnSource s k c) k c
  if c ≥ 100 ∧ s1.pwr.throttles.any (·.source == k) = false ∧ (s1.pwr.phase = .run ∨ s1.pwr.phase = .throttle ∨ s1.pwr.phase = .floor) then
    beginThrottle s1 k
  else s1

/-- A source's reading. -/
def sourceTemp (s : State) (k : Nat) : Int := if k < 18 then tget s.pwr.dieTemp k 0 else ((s.stack (k - 18)).temp.toNat : Int)

/-- THROTTLE_STEP: one more step each millisecond at 100 °C or above. -/
def execThrottleStep (s : State) : Res :=
  let due (t : Throttle) : Bool := decide (sourceTemp s t.source ≥ 100) && s.passed t.lastAt 1000
  let next (t : Throttle) : Throttle := if due t then { dropOne s.pwr t with lastAt := s.clk } else t
  .next { s with pwr := { s.pwr with throttles := s.pwr.throttles.map next } }

/-- Raise the ceilings of the share of highest priority that is throttled. -/
def raiseCeilings (p : Power) : List Throttle :=
  match (shareOrder p).find? (fun i => p.throttles.any (fun t => decide (t.ceil i < 64))) with
  | some i => p.throttles.map (fun t => t.put i (min 64 (t.ceil i + 1)))
  | none => p.throttles

/-- THROTTLE_RECOVER_STEP: every source at 97 °C or below, one step each 10 ms; a source leaves when its ceilings are
gone. -/
def execThrottleRecoverStep (s : State) : Res :=
  ifDue (!s.pwr.throttles.isEmpty && coolerThan s 97 && s.passed s.pwr.recoverAt 10000) s <|
    let ts := raiseCeilings s.pwr
    let gone (t : Throttle) : Bool := t.comp == 64 && t.mem == 64 && t.link == 64
    let s1 := { s with pwr := { s.pwr with throttles := ts.filter (fun t => !gone t), recoverAt := s.clk } }
    settlePower ((ts.filter gone).foldl (fun u t => if t.source < 18 then note u 0x0805 3 (sourceUnitOf t.source) else u) s1)

/-! ### Sensors (R406, R407) -/

/-- The die of a hot spot. -/
def spotDie (k : Nat) : Nat := if k < 192 then k / 16 else if k < 216 then 12 + (k - 192) / 6 else if k < 222 then 16 else 17

/-- The hot spots of a die. -/
def dieSpots (d : Nat) : List Nat := (List.range 228).filter (fun k => spotDie k == d)

/-- A reading within range. -/
def validTemp (c : Int) : Bool := decide (-40 ≤ c) && decide (c ≤ 150)

/-- The hottest used reading of a die's other hot spots that have a valid reading. -/
def dieHottest (s : State) (d but : Nat) : Int :=
  ((dieSpots d).filter (fun k => k != but && (match tget? s.pwr.spots k with | some h => !(h.dbad && h.rbad) | none => false))).foldl
    (fun m k => max m (tget s.pwr.spots k {}).used) (-40)

/-- A hot spot after a reading. -/
def nextSpot (s : State) (k : Nat) (d o : Int) : HotSpot :=
  let h := tget s.pwr.spots k {}
  let both := validTemp d && validTemp o
  let far := both && decide ((d - o).natAbs > 5)
  let near := both && !far
  let disSince := if far then some (h.disSince.getD s.clk) else none
  let agreeSince := if near then some (h.agreeSince.getD s.clk) else none
  let dis := if h.dis then !(match agreeSince with | some t => s.passed t 1000000 | none => false)
    else (match disSince with | some t => s.passed t 100000 | none => false)
  let used := if both then max d o + (if dis then 5 else 0) else if validTemp d then d else if validTemp o then o
    else dieHottest s (spotDie k) k + 5
  { diode := d, osc := o, used := used, dis := dis, dbad := !validTemp d, rbad := !validTemp o, disSince := disSince
    agreeSince := agreeSince, badSince := if validTemp d || validTemp o then none else some (h.badSince.getD s.clk)
    dTold := h.dTold || !validTemp d, rTold := h.rTold || !validTemp o }

/-- Keep a hot spot's reading and raise what its sensors report. -/
def takeSpot (s : State) (k : Nat) (h : HotSpot) : State :=
  let old := tget s.pwr.spots k {}
  let u := dieUnit (spotDie k)
  let s1 := { s with pwr := { s.pwr with spots := tset s.pwr.spots k h } }
  let s2 := if h.dbad && !old.dTold then note s1 0x0806 0 u else s1
  let s3 := if h.rbad && !old.rTold then note s2 0x0806 0 u else s2
  if h.dis && !old.dis then note s3 0x0801 0 u else s3

/-- No hot spot of a die has had a valid reading for 100 ms. -/
def dieBlind (s : State) (d : Nat) : Bool :=
  (dieSpots d).all (fun k => match (tget s.pwr.spots k {}).badSince with | some t => s.passed t 100000 | none => false)

/-- Every die reads 80 °C or below: what THERMTRIP_N waits for (R412). -/
def diesCool (s : State) : Bool := s.pwr.dieTemp.all (fun d => decide (d.2 ≤ 80))

/-- THERMTRIP_N rises when every die has cooled while RESET_N is asserted (R412). -/
def releaseTrip (s : State) : State :=
  if s.pins.resetLow && s.pins.tripLow && diesCool s then
    { s with pins := { s.pins with tripLow := false }, pwr := { s.pwr with phase := .off } }
  else s

/-- The die's temperature, and its rise over 50 ms. -/
def takeDie (s : State) (d : Nat) : State :=
  let c := ((dieSpots d).filterMap (tget? s.pwr.spots)).foldl (fun m h => max m h.used) (-40)
  let hist := (s.clk, c) :: tget s.pwr.dieHist d []
  let old := hist.find? (fun e => s.passed e.1 50000)
  let keep := hist.filter (fun e => !s.passed e.1 50000) ++ old.toList
  let s1 := heatSource { s with pwr := { s.pwr with dieTemp := tset s.pwr.dieTemp d c, dieHist := tset s.pwr.dieHist d keep } } d c
  match old with
  | some e => if c - e.2 > 1 then enterFloor s1 else s1
  | none => s1

/-- SENSOR_READ: every 100 µs. -/
def execSensorRead (spot : Nat) (diode oscillator : Int) (s : State) : Res :=
  onUnit 228 spot <|
    if s.pins.vaux = false then .next s
    else
      let s1 := takeDie (takeSpot s spot (nextSpot s spot diode oscillator)) (spotDie spot)
      if (tget s1.pwr.spots spot {}).used ≥ 110 then .next (tripPart s1 1)
      else if dieBlind s1 (spotDie spot) then .next (tripPart s1 3)
      else .next (releaseTrip s1)

/-- HBM_TEMP_READ (R202, R203, R408). -/
def execHbmTempRead (stack celsius : Nat) (s : State) : Res :=
  onUnit 24 stack <|
    let k := s.stack stack
    let k1 := { k with temp := BitVec.ofNat 8 (min celsius 255), refresh := refreshFor k.refresh celsius }
    let s1 :=
      if celsius > 105 ∧ k.stop = false then
        note (s.setStack stack { k1 with stop := true, stopAt := s.clk }) 0x0305 0 (unitStack stack)
      else if celsius ≤ 100 ∧ k.stop = true then
        note (s.setStack stack { k1 with stop := false }) 0x0305 1 (unitStack stack)
      else s.setStack stack { k1 with refresh := if k.stop then 2 else k1.refresh }
    .next (heatSource s1 (18 + stack) celsius)

/-! ### Coolant (R410) -/

/-- The coolant ceiling in parts of 7,000 of C: min(1, flow ÷ 3.5) × max(0, 1 − 0.05 × (inlet − 40)). -/
def coolantPart (flow inlet : Nat) : Option Nat :=
  if flow ≥ 350 ∧ inlet ≤ 40 then none else some (min 350 flow * (20 - (inlet - 40)))

/-- A coolant warning, at most once in 10 s while its condition holds. -/
def coolWarn (s : State) (on : Bool) (detail : Nat) : State :=
  if on && (match tget? s.pwr.coolWarnAt detail with | some t => s.passed t 10000000 | none => true) then
    note { s with pwr := { s.pwr with coolWarnAt := tset s.pwr.coolWarnAt detail s.clk } } 0x0802 detail unitService
  else s

/-- COOLANT_READ: every 10 ms. -/
def execCoolantRead (flow inlet outlet : Nat) (s : State) : Res :=
  if s.pins.vaux = false then .next s
  else
    let part := coolantPart flow inlet
    let s1 := { s with pwr := { s.pwr with
      flow := BitVec.ofNat 12 (min flow 4095), inlet := BitVec.ofNat 8 (min inlet 255), outlet := BitVec.ofNat 8 (min outlet 255)
      coolLost := false, coolAt := s.clk, coolPart := part } }
    let s2 := coolWarn (coolWarn s1 (decide (flow < 425)) 1) (decide (inlet > 40)) 3
    .next (settlePower (if part.isSome && (s.pwr.coolPart.isNone || s.pwr.coolLost) then note s2 0x0802 2 unitService else s2))

/-- COOLANT_READ_TIMEOUT: 0.7 × C. -/
def execCoolantReadTimeout (s : State) : Res :=
  ifDue (s.pins.vaux && !s.pwr.coolLost && s.passed s.pwr.coolAt 100000) s
    (settlePower (note { s with pwr := { s.pwr with coolLost := true, coolPart := some 4900 } } 0x0802 5 unitService))

end Sys2Proof.Machine
end

