-- ==== Sys2Proof/Machine/Bivouac.lean ====
section
/-! DEFINITION. Bivouac (chapter 13): snapshot sets and their role words, cursors and stream bindings, takes, drains to
the drives and to the partner, restores, promotions, and the NVMe root port. -/

namespace Sys2Proof.Machine

/-! ### The parts of an image (R363) -/

/-- Bytes of a stream table (R166). -/
def tableBytes : Nat := 9437184

/-- The runs of HBM that hold an image: the capture part, then the extents of the buffer. -/
def imageRuns (k : SnapSet) (b : Bool) : List (Nat × Nat) :=
  (capAt k b + 4096, setLc k) :: k.extents.map (fun e => (extentAt k b e, e.2 * 65536))

/-- The runs of a buffer. -/
def bufferRuns (k : SnapSet) (b : Bool) : List (Nat × Nat) := k.extents.map (fun e => (extentAt k b e, e.2 * 65536))

/-- Read runs of committed HBM: the bytes, whether every check held, and the state after. -/
def readRuns (s : State) (runs : List (Nat × Nat)) : Bytes × Bool × State :=
  runs.foldl (fun (r : Bytes × Bool × State) p =>
    let m := hbmRead r.2.2 p.1 p.2 false
    (r.1 ++ m.1, r.2.1 && m.2.1 == .good, m.2.2)) ([], true, s)

/-- Lay bytes into runs, in order, until they end. -/
def fillRuns : List (Nat × Nat) → State → Bytes → State
  | [], s, _ => s
  | r :: rest, s, b => if b.isEmpty then s else fillRuns rest (bivouacWrite s r.1 (b.take r.2)) (b.drop r.2)

/-- Stripe i of an image, the last one padded with zeros. -/
def stripeOf (img : Bytes) (i : Nat) : Bytes := slice img (i * 2 ^ 20) (2 ^ 20)

/-- The hash list of an image. -/
def hashList (k : SnapSet) (img : Bytes) : Bytes := (List.range (setStripes k)).flatMap (fun i => sm3 (stripeOf img i))

/-- The role word (R366). -/
def roleBytes (k : SnapSet) : Bytes := layout 8 [(0, 1, b2n k.rd), (1, 1, b2n k.wr), (4, 4, k.roleStep.toNat)]

/-- Keep a set and write its role word as a direct committed write. -/
def putRole (s : State) (n : Nat) (k : SnapSet) : State := bivouacWrite (s.setSnap n k) (addrOff k.roleWord) (roleBytes k)

/-- The run of a set's role word. -/
def roleRun (k : SnapSet) : Nat × Nat := (addrOff k.roleWord, 8)

/-! ### DECLARE (R363 to R365) -/

/-- The set that a record describes. -/
def readSet (b : Bytes) : SnapSet :=
  let ext (i : Nat) : Nat × Nat := (bits (field b (96 + 8 * i) 8) 24 0, bits (field b (96 + 8 * i) 8) 49 25)
  { nvme := bit (field b 2 1) 0, pcopy := bit (field b 2 1) 1, recv := bit (field b 2 1) 2, ring := field b 3 1
    partner := field b 4 2, nstrm := field b 7 1, roleWord := BitVec.ofNat 64 (field b 8 8)
    bdelta := BitVec.ofNat 32 (field b 16 4), cap0 := BitVec.ofNat 64 (field b 24 8), cap1 := BitVec.ofNat 64 (field b 32 8)
    drvMask := BitVec.ofNat 4 (field b 40 1), nslot := field b 41 1, lbaBase := BitVec.ofNat 64 (field b 48 8)
    slotLba := BitVec.ofNat 64 (field b 56 8)
    strm := (List.range (min 4 (field b 7 1))).map (fun i => BitVec.ofNat 64 (field b (64 + 8 * i) 8))
    extents := (List.range (min 16 (field b 6 1))).map ext }

/-- The role word, both buffers and both capture areas, as offsets and lengths. -/
def setRanges (k : SnapSet) : List (Nat × Nat) :=
  (addrOff k.roleWord, 8) :: (capAt k false, capBytes k) :: (capAt k true, capBytes k) ::
    (bufferRuns k false ++ bufferRuns k true)

/-- No two runs of a list share a byte. -/
def disjointRuns : List (Nat × Nat) → Bool
  | [] => true
  | r :: rest => rest.all (fun q => !overlaps r.1 r.2 q.1 q.2) && disjointRuns rest

/-- The drives of a mask, ascending. -/
def drivesOf (k : SnapSet) : List Nat := bitList k.drvMask.toNat 4

/-- Data bytes of a drive's block. -/
def lbaOf (s : State) (d : Nat) : Nat := max 1 (tget s.snap.lbaBytes d 512)

/-- The slots fit the drive (R374). -/
def slotFits (s : State) (k : SnapSet) (d : Nat) : Bool :=
  let n := max 1 (drivesOf k).length
  decide (8 * 2 ^ 20 + (setStripes k + n - 1) / n * 2 ^ 20 ≤ k.slotLba.toNat * lbaOf s d)

/-- The fields of a set record are in range and its reserved bits zero. -/
def setFieldsOk (s : State) (b : Bytes) : Bool :=
  let k := readSet b
  field b 0 1 == 1 && decide (field b 1 1 < 16) && decide (field b 2 1 < 8) && decide (k.ring < 32) && decide (k.partner < 4096) &&
    (k.pcopy || k.partner == 0) && decide (1 ≤ field b 6 1) && decide (field b 6 1 ≤ 16) && decide (k.nstrm ≤ 4) &&
    k.bdelta != 0 && allZero b 20 4 && decide (field b 40 1 < 16) && allZero b 42 6 && allZero b 224 32 &&
    isOwn s k.roleWord && addrSpace k.roleWord == 0 && k.roleWord.toNat % 8 == 0 &&
    hbmRun s k.cap0 4096 1 && hbmRun s k.cap1 4096 1 &&
    k.strm.all (fun a => hbmRun s a 256 tableBytes) && allZero b (64 + 8 * k.nstrm) (32 - 8 * k.nstrm) &&
    (List.range (field b 6 1)).all (fun i => decide (field b (96 + 8 * i) 8 < 2 ^ 50) && bits (field b (96 + 8 * i) 8) 49 25 != 0) &&
    decide (setStripes k ≤ 262016)

/-- The ranges of a set lie apart, in HBM, outside the staging pool and the work region. -/
def setPlaceOk (s : State) (k : SnapSet) : Bool :=
  disjointRuns (setRanges k) &&
    (setRanges k).all (fun r => rangeOk 0 r.1 r.2 && !inPool s r.1 r.2 && !inWork s r.1 r.2)

/-- What a set that drains to drives needs. -/
def setDrivesOk (s : State) (k : SnapSet) : Bool :=
  !k.nvme || (k.drvMask != 0 && k.drvMask &&& ~~~s.snap.usable == 0 && k.nslot != 0 && (drivesOf k).all (slotFits s k))

/-- R364 accepts the record. -/
def declareOk (s : State) (b : Bytes) : Bool :=
  let k := readSet b
  let old := s.snapSet (field b 1 1)
  setFieldsOk s b && setPlaceOk s k && setDrivesOk s k && !(k.pcopy && k.recv) && !(k.pcopy && s.fab.partner == 0) &&
    old.phase != .freezing && old.phase != .draining

/-- An accepted DECLARE: the new record with no bindings, role word read 0, write 1, step 0, and `SNAPNO` 0. -/
def acceptSet (s : State) (b : Bytes) : State :=
  let k := readSet b
  let old := s.snapSet (field b 1 1)
  putRole s (field b 1 1) { k with
    phase := if k.recv then .recv else .ready, rd := false, wr := true, roleStep := 0, snapNo := 0
    frozen := old.frozen, imgStep := old.imgStep, jepoch := old.jepoch, drain := old.drain }

/-- The card of a port whose `PEER` is the device, in whichever state the link holds it (R365). -/
def peerCard (s : State) (dev : Nat) : Option Card :=
  (s.fab.ports.find? (fun p => linked p.2.phase && p.2.card.isSome && p.2.peer.toNat == dev)).bind (fun p => p.2.card)

/-- The check of the partner's feed and domain (R365); 0 when it passes. -/
def partnerCode (s : State) (feed domain : Nat) : Nat :=
  if domain ≠ s.fab.partner.toNat then 0x0706
  else if feed = s.sec.feed.toNat ∧ s.snap.sharedFeed = false then 0x0702 else 0

/-- An accepted DECLARE writes the role word; one that HBM refuses ends the descriptor, and nothing changes (DESIGN CHOICE, log entry 112). -/
def takeDeclare (s : State) (ring : Nat) (d : Desc) (b : Bytes) : State :=
  match runsRefusal s .write [roleRun (readSet b)] with
  | some r => failDesc s ring d r.2 0 1 (dataAddr (mkAddr 0xFFF 0 r.1))
  | none => doneDesc (acceptSet s b) ring d 0 (zeros 16)

/-- The feed and domain of the partner are known: accept or refuse. -/
def decideDeclare (s : State) (ring : Nat) (d : Desc) (b : Bytes) (feed domain : Nat) : State :=
  let c := partnerCode s feed domain
  if c ≠ 0 then refuseDesc s ring d c
  else if !declareOk s b then refuseDesc s ring d 0x0706
  else takeDeclare s ring d b

/-- Payload of the exchange of R365. -/
def partnerPayload (kind : Nat) (feed domain : W32) : Bytes :=
  layout 16 [(0, 1, kind), (2, 4, feed.toNat), (6, 4, domain.toNat)]

/-- DECLARE with its record read. -/
def declareSet (s : State) (ring : Nat) (d : Desc) (b : Bytes) : State :=
  let k := readSet b
  if !declareOk s b then refuseDesc s ring d 0x0706
  else if !k.pcopy then takeDeclare s ring d b
  else match peerCard s k.partner with
    | some c => decideDeclare s ring d b c.feed.toNat c.domain.toNat
    | none =>
      let s1 := sendMgmt s k.partner (partnerPayload 3 s.sec.feed s.fab.domain)
      runDesc { s1 with snap := { s1.snap with queries := s1.snap.queries ++ [⟨ring, d.index, k.partner, s.clk⟩] } } ring d (.partner b)

/-- Forget a query and hand on its descriptor with its record. -/
def takeQuery (s : State) (q : PartnerQuery) (go : Desc → Bytes → State → State) : State :=
  let s1 := { s with snap := { s.snap with queries := s.snap.queries.filter (· != q) } }
  match descOf s1 q.ring q.index with
  | some d => match d.run with
    | .partner b => go d b s1
    | _ => s1
  | none => s1

/-- MGMT_PARTNER_QUERY: the service die answers. -/
def execMgmtPartnerQuery (port : Nat) (s : State) : Res :=
  onMgmt 3 port s (fun k u => sendMgmt u k.src.toNat (partnerPayload 4 u.sec.feed u.fab.domain))

/-- The role word of the set that a query's descriptor declares. -/
def queryRuns (s : State) (q : PartnerQuery) : List (Nat × Nat) :=
  match descOf s q.ring q.index with
  | some d => match d.run with
    | .partner b => [roleRun (readSet b)]
    | _ => []
  | none => []

/-- MGMT_PARTNER_ANSWER: it waits while the memory of a role word takes no traffic. -/
def execMgmtPartnerAnswer (port : Nat) (s : State) : Res :=
  let runs := s.snap.queries.flatMap (queryRuns s)
  if !runsReady s runs then .next (wakeRuns s runs) else
  onMgmt 4 port s (fun k u =>
    (u.snap.queries.filter (fun q => q.partner == k.src.toNat)).foldl (fun v q =>
      takeQuery v q (fun d b w => decideDeclare w q.ring d b (field k.payload 2 4) (field k.payload 6 4))) u)

/-- PARTNER_QUERY_TIMEOUT: 10 ms without an answer. -/
def execPartnerQueryTimeout (ring : Nat) (s : State) : Res :=
  onUnit 32 ring <|
    match s.snap.queries.find? (fun q => q.ring == ring) with
    | none => .next s
    | some q => ifDue (s.passed q.sentAt 10000) s (takeQuery s q (fun d _ u => refuseDesc u ring d 0x0706))

/-! ### Turning the buffers (R366) -/

/-- A set at a belay of its ring pair that committed a pitch of a step. -/
def turnSet (k : SnapSet) (step : W32) : SnapSet :=
  match k.phase with
  | .ready => { k with rd := k.wr, wr := !k.wr, roleStep := step }
  | .freezing => { k with rd := k.wr, roleStep := step }
  | .draining => { k with rd := k.wr, roleStep := step }
  | _ => k

/-- The sets that turn with a ring pair's belays; a set that is not declared has no role word. -/
def turningSets (s : State) (ring : Nat) : List (Nat × SnapSet) :=
  s.snap.sets.filter (fun x => x.2.ring == ring && x.2.phase != .free && x.2.phase != .invalid && x.2.phase != .recv)

/-- The role words of a ring pair turn. -/
def turnRoles (s : State) (ring : Nat) (step : W32) : State :=
  (turningSets s ring).foldl (fun u x => putRole u x.1 (turnSet x.2 step)) s

/-! ### Streams and cursors (R370, R371, R380) -/

/-- A cursor's position. -/
def cursorPos (s : State) (c : Nat) : W64 := tget s.snap.cursors c 0

/-- The cursor table of a capture part. -/
def cursorTable (s : State) : Bytes := (List.range 64).flatMap (fun c => leBytes 8 (cursorPos s c).toNat ++ zeros 8)

/-- The binding of a stream. -/
def bindingOf (k : SnapSet) (table tile stream : Nat) : Option Binding :=
  k.bindings.find? (fun b => b.table == table && decide (b.tile0 ≤ tile) && decide (tile < b.tile0 + b.ntile) &&
    decide (b.stream0 ≤ stream) && decide (stream < b.stream0 + b.nstream))

/-- A bound stream of a captured table: the offset of its entry in the capture part, and its place. -/
structure BoundStream where
  at_    : Nat
  table  : Nat
  tile   : Nat
  stream : Nat
  cur    : Nat
  d0     : W64

/-- The bound streams of a set in order of table, tile and stream. -/
def boundStreams (k : SnapSet) : List BoundStream :=
  (List.range k.nstrm).flatMap fun t => (List.range 1152).flatMap fun tile => (List.range 256).filterMap fun n =>
    (bindingOf k t tile n).map fun b => ⟨1024 + t * tableBytes + 8192 * tile + 32 * n, t, tile, n, b.cur, b.d0⟩

/-- (P × D + d0) mod 2^64 from a capture part. -/
def derivedCnt (cap : Bytes) (x : BoundStream) : Nat :=
  (field cap (16 * x.cur) 8 * field cap (x.at_ + 24) 4 + x.d0.toNat) % 2 ^ 64

/-- Bound streams whose count is not the derived one. -/
def skewed (k : SnapSet) (cap : Bytes) : List BoundStream :=
  (boundStreams k).filter (fun x => field cap (x.at_ + 16) 8 != derivedCnt cap x)

/-- The capture part with every skewed count re-derived. -/
def realign (k : SnapSet) (cap : Bytes) : Bytes :=
  (skewed k cap).foldl (fun c x => splice c (x.at_ + 16) (leBytes 8 (derivedCnt cap x))) cap

/-- The skew of a restore, recorded and raised once (R380). -/
def noteSkew (s : State) (l : List BoundStream) : State :=
  let s1 := { s with snap := { s.snap with skew := BitVec.ofNat 16 (min l.length 65535) } }
  match l with
  | [] => s1
  | x :: _ => note { s1 with snap := { s1.snap with
      skewTable := BitVec.ofNat 2 x.table, skewTile := BitVec.ofNat 11 x.tile, skewStream := BitVec.ofNat 8 x.stream } } 0x0701 0 unitHost

/-- Write back the streams and cursors of a capture part. -/
def restoreStreams (s : State) (k : SnapSet) (cap : Bytes) : State :=
  let s1 := k.strm.zipIdx.foldl (fun u a => bivouacWrite u (addrOff a.1) (slice cap (1024 + a.2 * tableBytes) tableBytes)) s
  { s1 with snap := { s1.snap with cursors := (List.range 64).foldl (fun t c => tset t c (BitVec.ofNat 64 (field cap (16 * c) 8))) s1.snap.cursors } }

/-- CURSOR SET with its record read. -/
def setCursors (s : State) (ring : Nat) (d : Desc) (b : Bytes) : State :=
  let n := field b 0 2
  let e (i : Nat) : Nat := 16 + 16 * i
  let ok := (List.range n).all (fun i => decide (field b (e i) 1 < 64) && allZero b (e i + 1) 7)
  if !ok then refuseDesc s ring d 0x0706
  else
    let cs := (List.range n).foldl (fun t i => tset t (field b (e i) 1) (BitVec.ofNat 64 (field b (e i + 8) 8))) s.snap.cursors
    doneDesc { s with snap := { s.snap with cursors := cs } } ring d 0 (zeros 16)

/-- An entry of a BIND record. -/
def readBinding (b : Bytes) (i : Nat) : Binding :=
  let o := 16 + 16 * i
  { table := field b o 1, cur := field b (o + 1) 1, tile0 := field b (o + 2) 2, ntile := field b (o + 4) 2,
    stream0 := field b (o + 6) 1, nstream := field b (o + 7) 1 + 1, d0 := BitVec.ofNat 64 (field b (o + 8) 8) }

/-- Two bindings name one stream. -/
def bindingsMeet (a b : Binding) : Bool :=
  a.table == b.table && overlaps a.tile0 a.ntile b.tile0 b.ntile && overlaps a.stream0 a.nstream b.stream0 b.nstream

/-- No stream is named twice. -/
def bindingsApart : List Binding → Bool
  | [] => true
  | a :: rest => rest.all (fun b => !bindingsMeet a b) && bindingsApart rest

/-- CURSOR BIND with its record read: the set must be declared. -/
def bindCursors (s : State) (ring : Nat) (d : Desc) (b : Bytes) : State :=
  let k := s.snapSet (field b 2 1)
  let l := (List.range (field b 0 2)).map (readBinding b)
  let okOne (x : Binding) : Bool := decide (x.table < k.nstrm) && decide (x.cur < 64) && decide (1 ≤ x.ntile) &&
    decide (x.tile0 + x.ntile ≤ 1152) && decide (x.stream0 + x.nstream ≤ 256)
  if field b 2 1 ≥ 16 ∨ k.phase = .free ∨ l.all okOne = false ∨ bindingsApart l = false then refuseDesc s ring d 0x0706
  else doneDesc (s.setSnap (field b 2 1) { k with bindings := l }) ring d 0 (zeros 16)

/-- The effect of a CURSOR: its header, then the whole record. `s` is the state to go back to while memory sleeps. -/
def runCursor (s u : State) (ring : Nat) (d : Desc) : State :=
  let a := opndAddr d 16
  withRecord s u ring d a 16 16 0x0706 (fun h v =>
    let n := field h 0 2
    let headOk := if descOp d = 0 then decide (n ≤ 64) && allZero h 2 14 else decide (n ≤ 256) && allZero h 3 13
    if !headOk then refuseDesc v ring d 0x0706
    else withRecord s v ring d a (16 + 16 * n) 16 0x0706 (fun b w =>
      if descOp d = 0 then setCursors w ring d b else bindCursors w ring d b))

/-- CURSOR_SET. -/
def execCursorSet (ring : Nat) (s : State) : Res := startDesc 0x1A 0 ring s (fun d u => runCursor s u ring d)

/-- CURSOR_BIND. -/
def execCursorBind (ring : Nat) (s : State) : Res := startDesc 0x1A 1 ring s (fun d u => runCursor s u ring d)

/-! ### TAKE (R368, R372) -/

/-- Why a TAKE skips a set: it is not READY, lacks a flag, or the pair role is STANDBY (R372). -/
def takeSkips (s : State) (k : SnapSet) (toNvme toPartner : Bool) : Bool :=
  k.phase != .ready || (toNvme && !k.nvme) || (toPartner && !k.pcopy) || s.snap.role == .standby

/-- Freeze one set: the next `SNAPNO`, the buffer that `RD` names, and the cursor table in its capture area. -/
def freezeSet (s : State) (n : Nat) (toNvme toPartner : Bool) (signal : Bytes) : State :=
  let k := s.snapSet n
  let dr : Drain := {
    snapNo := k.snapNo, jepoch := s.job.jepoch, digest := s.job.digest, slot := k.snapNo.toNat % max 1 k.nslot
    nvme := toNvme, pcopy := toPartner, nvmeStep := b2n toNvme, copyStep := b2n toPartner, signal := signal
    take := s.snap.takes, freezeNs := s.ns, step := k.roleStep }
  bivouacWrite (s.setSnap n { k with
    phase := .freezing, frozen := k.rd, captured := false, imgStep := k.roleStep, snapNo := k.snapNo + 1, drain := dr })
    (capAt k k.rd + 4096) (cursorTable s)

/-- Apply a TAKE's signal: `SIGT`, `SIGC`, `SIGN`, and the ring pair that took it in byte 16. -/
def takeSignal (s : State) (sig : Bytes) : State :=
  if field sig 0 8 = 0 then s else (applySignal s (field sig 16 1) (BitVec.ofNat 64 (field sig 0 8)) (field sig 8 1) (field sig 12 4)).1

/-- TAKE with its record read. -/
def takeSets (s : State) (ring : Nat) (d : Desc) (b : Bytes) : State :=
  let sigt := BitVec.ofNat 64 (field b 8 8)
  let toNvme := bit (field b 2 1) 0
  let toPartner := bit (field b 2 1) 1
  let sig := slice b 8 16 ++ leBytes 1 ring
  let ok := decide (field b 2 1 < 4) && allZero b 3 5 && allZero b 17 3 && allZero b 24 232 &&
    (sigt == 0 || (addrSpace sigt == 1 && addrOk s (sigTarget sigt) 1))
  if !ok then refuseDesc s ring d 0x0706
  else
    let named := bitList (field b 0 2) 16
    let s0 := { s with snap := { s.snap with takes := s.snap.takes + 1 } }
    let s1 := named.foldl (fun u n =>
      if takeSkips u (u.snapSet n) toNvme toPartner then note u 0x0706 0 unitHost else freezeSet u n toNvme toPartner sig) s0
    let any := named.any (fun n => !takeSkips s (s.snapSet n) toNvme toPartner)
    doneDesc (if any then s1 else takeSignal s1 sig) ring d 0 (zeros 16)

/-- A destination ends. -/
def endDrives (s : State) (n : Nat) : State :=
  s.setSnap n { s.snapSet n with drain := { (s.snapSet n).drain with nvme := false } }

/-- The partner copy of a set ends. -/
def endCopy (s : State) (n : Nat) : State :=
  s.setSnap n { s.snapSet n with drain := { (s.snapSet n).drain with pcopy := false, cover := [] } }

/-- An image granule failed its check: every destination ends (R378). -/
def imageBad (s : State) (n : Nat) : State := note (endCopy (endDrives s n) n) 0x0709 0 unitHost

/-- HBM refuses a granule of the image: that rule's fault alone is raised, and every destination ends (R497; DESIGN CHOICE, log entry 112). -/
def imageRefused (s : State) (n : Nat) (r : Nat × Nat) : State := noteRefused (endCopy (endDrives s n) n) r.1 r.2

/-- The tables that a capture reads. -/
def captureSources (k : SnapSet) : List (Nat × Nat) := (k.strm.take k.nstrm).map (fun a => (addrOff a, tableBytes))

/-- Where it writes them. -/
def captureRun (k : SnapSet) : Nat × Nat := (capAt k k.frozen + 4096 + 1024, k.nstrm * tableBytes)

/-- What refuses a capture, if anything does. -/
def captureRefusal (s : State) (k : SnapSet) : Option (Nat × Nat) :=
  (runsRefusal s .read (captureSources k)).or (runsRefusal s .write [captureRun k])

/-- CAPTURE_COMPLETE: the stream tables follow the cursor table, and the streams off their position are counted. A table
that cannot be read whole leaves its copy marked bad. -/
def execCaptureComplete (set : Nat) (s : State) : Res :=
  onUnit 16 set <|
    let k := s.snapSet set
    let runs := captureSources k
    if k.phase ≠ .freezing ∨ k.captured = true then .next s
    else if !runsReady s (captureRun k :: runs) then .next (wakeRuns s (captureRun k :: runs))
    else match captureRefusal s k with
    | some r => .next (imageRefused (s.setSnap set { k with captured := true }) set r)
    | none =>
      let s1 := runs.zipIdx.foldl (fun u r =>
        let m := hbmRead u r.1.1 r.1.2 false
        hbmWrite m.2.2 (capAt k k.frozen + 4096 + 1024 + r.2 * tableBytes) m.1 (m.2.1 != .good)) s
      let cap := committedBytes s1 (capAt k k.frozen + 4096) (setLc k)
      .next (s1.setSnap set { k with
        captured := true, drain := { k.drain with skewed := BitVec.ofNat 32 (skewed k cap).length } })

/-! ### Manifests and hash lists (R374, R375) -/

/-- The manifest of a drain's image. -/
def manifestOf (s : State) (n : Nat) (k : SnapSet) (list : Bytes) (toPartner : Bool) : Bytes :=
  let dr := k.drain
  let head := layout 104 [(0, 1, 1), (1, 1, n), (2, 1, b2n toPartner), (3, 1, k.nstrm), (4, 4, dr.snapNo.toNat), (8, 4, dr.step.toNat),
    (12, 2, ownDev s), (16, 8, dr.jepoch.toNat), (24, 16, dr.digest.toNat), (40, 8, dr.freezeNs), (48, 8, setLd k),
    (56, 4, setLc k), (60, 4, setStripes k), (64, 4, dr.skewed.toNat), (72, 32, leNat (sm3 list))]
  slice (head ++ sm3 head) 0 4096

/-- A manifest copy is valid. -/
def manifestValid (m : Bytes) : Bool := sm3 (slice m 0 104) == slice m 104 32

/-- Read the image of a set's drain and go on with it; a granule that HBM refuses or that fails its check ends every destination
(R378). -/
def withImage (s : State) (n : Nat) (go : Bytes → State → State) : State :=
  let runs := imageRuns (s.snapSet n) (s.snapSet n).frozen
  match runsRefusal s .read runs with
  | some r => imageRefused s n r
  | none =>
    let m := readRuns s runs
    if m.2.1 then go m.1 m.2.2 else imageBad m.2.2 n

/-! ### The drives (R373, R374, R376) -/

/-- Byte address of slot j on a drive. -/
def slotByte (s : State) (k : SnapSet) (d j : Nat) : Nat := (k.lbaBase.toNat + j * k.slotLba.toNat) * lbaOf s d

/-- Stripes that lie on the listed drive of a position. -/
def stripesOn (k : SnapSet) (pos : Nat) : List Nat :=
  (List.range (setStripes k)).filter (fun i => i % max 1 (drivesOf k).length == pos)

/-- The position of a drive in the mask's list. -/
def drivePos (k : SnapSet) (d : Nat) : Nat := (drivesOf k).idxOf d

/-- Read a drive. -/
def driveBytes (s : State) (d at_ n : Nat) : Bytes := memRead zeroByte (tget s.snap.drives d []) at_ n

/-- Write a drive. -/
def driveWrite (s : State) (d at_ : Nat) (b : Bytes) : State :=
  { s with snap := { s.snap with drives := tset s.snap.drives d (memWrite zeroByte (tget s.snap.drives d []) at_ b) } }

/-- What a command writes to its drive. -/
inductive DriveData where
  | nothing | zeros | stripe (i : Nat) | hashes | manifest

/-- A command of a drain: NVM Express opcode, byte address, length, and what it writes, from its byte `skip` on. -/
structure DriveCmd where
  opcode : Nat
  at_    : Nat
  len    : Nat
  data   : DriveData
  skip   : Nat := 0

/-- The drive's maximum transfer size in whole blocks; a drive that names none takes any command whole. -/
def maxTransfer (s : State) (d len : Nat) : Nat :=
  let m := tget s.snap.maxBytes d 0
  if m = 0 then max 1 len else max (lbaOf s d) (m / lbaOf s d * lbaOf s d)

/-- A command that moves data, split at the drive's maximum transfer size (R373). -/
def splitCmd (s : State) (d : Nat) (c : DriveCmd) : List DriveCmd :=
  let m := maxTransfer s d c.len
  (List.range ((c.len + m - 1) / m)).map (fun i => { c with at_ := c.at_ + i * m, len := min m (c.len - i * m), skip := i * m })

/-- The commands of a step on a drive in order: the writes, then Flush. -/
def stepCmds (s : State) (k : SnapSet) (d step : Nat) : List DriveCmd :=
  let base := slotByte s k d k.drain.slot
  (match step with
   | 1 => [⟨0x08, base, 4096, .zeros, 0⟩]
   | 2 => (stripesOn k (drivePos k d)).zipIdx.flatMap (fun x => splitCmd s d ⟨0x01, base + (8 + x.2) * 2 ^ 20, 2 ^ 20, .stripe x.1, 0⟩) ++
       splitCmd s d ⟨0x01, base + 4096, 32 * setStripes k, .hashes, 0⟩
   | _ => splitCmd s d ⟨0x01, base, 4096, .manifest, 0⟩) ++ [⟨0x00, 0, 0, .nothing, 0⟩]

/-- A command goes to its drive. -/
def issueCmd (s : State) (d : Nat) (c : DriveCmd) : State :=
  let l := lbaOf s d
  s.emit (.nvme d c.opcode (BitVec.ofNat 64 (c.at_ / l)) ((c.len + l - 1) / l))

/-- Start a step on every drive of the set. -/
def startStep (s : State) (n step : Nat) : State :=
  let k := s.snapSet n
  let left := (drivesOf k).map (fun d => (d, (stepCmds s k d step).length))
  let s1 := s.setSnap n { k with drain := { k.drain with nvmeStep := step, left := left, failed := [] } }
  (drivesOf k).foldl (fun u d => match stepCmds u k d step with | c :: _ => issueCmd u d c | [] => u) s1

/-- What a completed command has done to its drive. -/
def applyCmd (s : State) (n d step i : Nat) : State :=
  let k := s.snapSet n
  let cs := stepCmds s k d step
  match cs[i]? with
  | none => s
  | some c =>
    match c.data with
    | .nothing => s
    | .zeros => driveWrite s d c.at_ (zeros c.len)
    | .stripe j => withImage s n (fun m u => driveWrite u d c.at_ (slice (stripeOf m j) c.skip c.len))
    | .hashes => withImage s n (fun m u => driveWrite u d c.at_ (slice (hashList k m) c.skip c.len))
    | .manifest => withImage s n (fun m u => driveWrite u d c.at_ (slice (manifestOf u n k (hashList k m) false) c.skip c.len))

/-- Go on after a command: the drive's next one, the next step when every drive has flushed, the end after the third. -/
def nextCmd (s : State) (n d : Nat) : State :=
  let k := s.snapSet n
  if !k.drain.nvme then s
  else
    let step := k.drain.nvmeStep
    let l := tget k.drain.left d 0 - 1
    let left := tset k.drain.left d l
    let s1 := s.setSnap n { k with drain := { k.drain with left := left, failed := tset k.drain.failed d 0 } }
    if left.any (fun e => e.2 != 0) then
      let cs := stepCmds s1 k d step
      match cs[cs.length - l]? with | some c => issueCmd s1 d c | none => s1
    else if step ≥ 3 then endDrives s1 n
    else startStep s1 n (step + 1)

/-- Where a drive's memory request touches HBM, if R373 lets it. -/
def driveRun (q : DriveRequest) : Option (Nat × Nat) :=
  match q with
  | .read a n => if a.toNat + n ≤ 0x018000000000 then some (a.toNat, n) else none
  | .write a b => if a.toNat + b.length ≤ 0x018000000000 then some (a.toNat, b.length) else none

/-- A memory request of a drive reaches HBM at the same `OFFSET`; any other address is answered Unsupported Request (R373). One
that HBM refuses is answered so too (DESIGN CHOICE, log entry 118). -/
def driveRequest (d : Nat) (s : State) (q : DriveRequest) : State :=
  match driveRun q, q with
  | some r, .read a n =>
    if bivouacCode s .read r.1 r.2 ≠ 0 then (noteRefused s r.1 (bivouacCode s .read r.1 r.2)).emit (.driveUnsupported d a)
    else
      let m := hbmRead s r.1 n false
      m.2.2.emit (.driveData d a m.1 (m.2.1 != .good))
  | some r, .write a b =>
    if bivouacCode s .write r.1 r.2 ≠ 0 then (noteRefused s r.1 (bivouacCode s .write r.1 r.2)).emit (.driveUnsupported d a)
    else hbmWrite s r.1 b
  | none, .read a _ => s.emit (.driveUnsupported d a)
  | none, .write a _ => s.emit (.driveUnsupported d a)

/-- NVME_COMMAND_COMPLETE: the drive's memory requests come before its completion. A command that fails is counted and sent once
more; the second failure ends the destination (R378). -/
def execNvmeCommandComplete (set drive : Nat) (status : W16) (s0 : State) (inbound : List DriveRequest := []) : Res :=
  onUnit 16 set <| onUnit 4 drive <|
    let runs := inbound.filterMap driveRun
    if !runsReady s0 runs then .next (wakeRuns s0 runs) else
    let s := inbound.foldl (driveRequest drive) s0
    let k := s.snapSet set
    let l := tget k.drain.left drive 0
    let cs := stepCmds s k drive k.drain.nvmeStep
    if k.phase ≠ .draining ∨ k.drain.nvme = false ∨ l = 0 then .next s
    else if status = 0 then
      (if k.drain.nvmeStep ≥ 2 && !runsReady s0 (imageRuns k k.frozen) then .next (wakeRuns s0 (imageRuns k k.frozen))
       else .next (nextCmd (applyCmd s set drive k.drain.nvmeStep (cs.length - l)) set drive))
    else
      let s1 := { s with snap := { s.snap with nerr := satInc s.snap.nerr } }
      if tget k.drain.failed drive 0 ≠ 0 then .next (note (endDrives s1 set) 0x0704 (status.toNat % 256) unitHost)
      else
        let s2 := s1.setSnap set { k with drain := { k.drain with failed := tset k.drain.failed drive 1 } }
        .next (match cs[cs.length - l]? with | some c => issueCmd s2 drive c | none => s2)

/-! ### The partner copy (R377) -/

/-- The tag of a partner copy's lines (DEDUCED, log entry 30). -/
def copyTag (n : Nat) : BitVec 24 := BitVec.ofNat 24 (2 ^ 23 + 2 ^ 17 + 1 + n)

/-- Send bytes to the partner as WRITE lines from an offset; the last line is padded with zeros. -/
def sendLines : (lines partner n off : Nat) → Bytes → State → State
  | 0, _, _, _, _, s => s
  | m + 1, partner, n, off, b, s =>
    let line := slice b 0 128
    let k : Packet := { requestPacket tWRITE (mkAddr partner 0 off) line with e2e := checkFor line .good, tag := copyTag n }
    sendLines m partner n (off + 128) (b.drop 128) (sendStream s partner 0 k)

/-- Send a run. -/
def sendRun (s : State) (partner n off : Nat) (b : Bytes) : State := sendLines ((b.length + 127) / 128) partner n off b s

/-- Send bytes into runs of the partner's memory, in order. -/
def sendRuns : List (Nat × Nat) → (partner n : Nat) → Bytes → State → State
  | [], _, _, _, s => s
  | r :: rest, partner, n, b, s => sendRuns rest partner n (b.drop r.2) (sendRun s partner n r.1 (b.take r.2))

/-- Begin step `step` of a partner copy. -/
def startCopyStep (s : State) (n step : Nat) : State :=
  let k := s.snapSet n
  let b := k.drain.snapNo.toNat % 2 == 1
  let put (u : State) : State :=
    let x := u.snapSet n
    u.setSnap n { x with drain := { x.drain with copyStep := step, cover := [coverOf u k.partner 0], copyAt := u.clk } }
  if step = 1 then put (sendRun s k.partner n (capAt k b) (zeros 4096))
  else if step = 2 then
    withImage s n (fun m u => put (sendRun (sendRuns (imageRuns k b) k.partner n m u) k.partner n (capAt k b + capHash k) (hashList k m)))
  else withImage s n (fun m u => put (sendRun u k.partner n (capAt k b) (manifestOf u n k (hashList k m) true)))

/-- PARTNER_COPY_STEP: every line of the step is covered; the next step begins, or the copy has ended. -/
def execPartnerCopyStep (set : Nat) (s : State) : Res :=
  onUnit 16 set <|
    let k := s.snapSet set
    if k.phase ≠ .draining ∨ k.drain.pcopy = false ∨ covered s k.drain.cover = false then .next s
    else if k.drain.copyStep ≥ 3 then .next (endCopy s set)
    else if !runsReady s (imageRuns k k.frozen) then .next (wakeRuns s (imageRuns k k.frozen))
    else .next (startCopyStep s set (k.drain.copyStep + 1))

/-- The partner copy ends without an image: a line was refused, or none is covered in time (R378). -/
def failCopy (s : State) (n : Nat) : State := note (endCopy s n) 0x0707 0 unitHost

/-- A STATUS that refuses a line of a set's partner copy. -/
def partnerRefused (s : State) (n : Nat) : State :=
  if (s.snapSet n).phase = .draining ∧ (s.snapSet n).drain.pcopy = true then failCopy s n else s

/-- PARTNER_COPY_TIMEOUT: no line has been covered for `FFENCETO`. -/
def execPartnerCopyTimeout (set : Nat) (s : State) : Res :=
  onUnit 16 set <|
    let k := s.snapSet set
    let last := max k.drain.copyAt (txOf s k.partner 0).advance
    ifDue (k.phase == .draining && k.drain.pcopy && !covered s k.drain.cover && s.passed last s.fab.fenceTo.toNat) s (failCopy s set)

/-! ### The drain (R367, R368) -/

/-- A stage of this part, a prepared one among them, holds a block of the frozen buffer; another part's stage counts as well,
since no open pitch may have written what a drain sends (R28, R367, R368; DEDUCED, log entry 116). -/
def stageHolds (s : State) (k : SnapSet) : Bool :=
  s.cmd.stages.any (fun g => g.blocks.any (fun b =>
    k.extents.any (fun e => overlaps b 1 (extentAt k k.frozen e / 65536) e.2)))

/-- DRAIN_START. -/
def execDrainStart (set : Nat) (s : State) : Res :=
  onUnit 16 set <|
    let k := s.snapSet set
    if k.phase ≠ .freezing ∨ k.captured = false ∨ stageHolds s k = true then .next s
    else
      let s1 := s.setSnap set { k with phase := .draining }
      let s2 := if k.drain.nvme then startStep s1 set 1 else s1
      .next (if k.drain.pcopy then startCopyStep s2 set 1 else s2)

/-- Some set still works for a take. -/
def takeOpen (s : State) (take : Nat) : Bool :=
  s.snap.sets.any (fun x => (x.2.phase == .freezing || x.2.phase == .draining) && x.2.drain.take == take)

/-- DRAIN_END: the set is READY, and the TAKE's signal follows its last drain. -/
def execDrainEnd (set : Nat) (s : State) : Res :=
  onUnit 16 set <|
    let k := s.snapSet set
    if k.phase ≠ .draining ∨ k.drain.nvme = true ∨ k.drain.pcopy = true then .next s
    else
      let s1 := s.setSnap set { k with phase := .ready }
      .next (if takeOpen s1 k.drain.take then s1 else takeSignal s1 k.drain.signal)

/-! ### RELEASE and DISCARD (R367, R372) -/

/-- RELEASE with its record read. -/
def releaseSet (s : State) (ring : Nat) (d : Desc) (b : Bytes) : State :=
  let n := field b 0 1
  let k := s.snapSet n
  if n ≥ 16 ∨ allZero b 1 255 = false ∨ (k.phase ≠ .ready ∧ k.phase ≠ .invalid ∧ k.phase ≠ .recv) then refuseDesc s ring d 0x0706
  else doneDesc (s.setSnap n { k with phase := .free, bindings := [] }) ring d 0 (zeros 16)

/-- Deallocate a slot on a drive and zero its manifest copy. -/
def discardOn (k : SnapSet) (slot : Nat) (s : State) (d : Nat) : State :=
  let a := slotByte s k d slot
  let s1 := issueCmd s d ⟨0x09, a, k.slotLba.toNat * lbaOf s d, .nothing, 0⟩
  driveWrite (issueCmd s1 d ⟨0x08, a, 4096, .zeros, 0⟩) d a (zeros 4096)

/-- DISCARD with its record read: any slot but the one that a drain writes. -/
def discardSlot (s : State) (ring : Nat) (d : Desc) (b : Bytes) : State :=
  let n := field b 0 1
  let slot := field b 1 1
  let k := s.snapSet n
  let busy := k.phase == .freezing || k.phase == .draining
  let ok := decide (n < 16) && allZero b 2 254 && (k.phase == .ready || k.phase == .invalid || busy) && k.nvme && s.snap.en &&
    decide (slot < k.nslot) && !(busy && k.drain.nvmeStep != 0 && slot == k.drain.slot)
  if !ok then refuseDesc s ring d 0x0706
  else doneDesc ((drivesOf k).foldl (discardOn k slot) s) ring d 0 (zeros 16)

/-- The memory that a SNAPSHOT writes as it takes effect: the role word of a DECLARE, the cursor tables of a TAKE. -/
def snapRuns (s : State) (op : Nat) (b : Bytes) : List (Nat × Nat) :=
  match op with
  | 0 => if declareOk s b then [roleRun (readSet b)] else []
  | 1 => (bitList (field b 0 2) 16).filterMap (fun n =>
      let k := s.snapSet n
      if k.phase = .ready then some (capAt k k.rd + 4096, 1024) else none)
  | _ => []

/-- The effect of a SNAPSHOT: its record is read and acted on. -/
def runSnapshot (s u : State) (ring : Nat) (d : Desc) : State :=
  withRecord s u ring d (opndAddr d 16) 256 (if descOp d = 0 then 256 else 1) 0x0706 (fun b v =>
    let runs := snapRuns v (descOp d) b
    if !runsReady v runs then wakeRuns s runs else
    match descOp d with
    | 0 => declareSet v ring d b
    | 1 => takeSets v ring d b
    | 2 => releaseSet v ring d b
    | _ => discardSlot v ring d b)

/-- SNAPSHOT_DECLARE. -/
def execSnapshotDeclare (ring : Nat) (s : State) : Res := startDesc 0x18 0 ring s (fun d u => runSnapshot s u ring d)

/-- SNAPSHOT_TAKE. -/
def execSnapshotTake (ring : Nat) (s : State) : Res := startDesc 0x18 1 ring s (fun d u => runSnapshot s u ring d)

/-- SNAPSHOT_RELEASE. -/
def execSnapshotRelease (ring : Nat) (s : State) : Res := startDesc 0x18 2 ring s (fun d u => runSnapshot s u ring d)

/-- SNAPSHOT_DISCARD. -/
def execSnapshotDiscard (ring : Nat) (s : State) : Res := startDesc 0x18 3 ring s (fun d u => runSnapshot s u ring d)

/-! ### LOAD (R379) -/

/-- Slots that a LOAD reads. -/
def loadSlots (k : SnapSet) (slot : Nat) : List Nat := if slot = 0xFF then List.range k.nslot else [slot]

/-- The valid manifest copies of a slot. -/
def slotManifests (s : State) (k : SnapSet) (j : Nat) : List Bytes :=
  ((drivesOf k).map (fun d => driveBytes s d (slotByte s k d j) 4096)).filter manifestValid

/-- Copies of a slot that differ. -/
def slotTorn (s : State) (k : SnapSet) (j : Nat) : Bool :=
  match slotManifests s k j with
  | [] => false
  | m :: rest => rest.any (· != m)

/-- The valid image with the greatest `SNAPNO`: its slot and manifest. -/
def newestImage (s : State) (k : SnapSet) (slots : List Nat) : Option (Nat × Bytes) :=
  slots.foldl (fun (best : Option (Nat × Bytes)) j =>
    match slotManifests s k j, best with
    | m :: _, some b => if field m 4 4 > field b.2 4 4 then some (j, m) else best
    | m :: _, none => some (j, m)
    | [], _ => best) none

/-- The hash list from the first drive whose copy hashes to `HASHROOT`. -/
def loadList (s : State) (k : SnapSet) (j : Nat) (root : Bytes) : Option Bytes :=
  ((drivesOf k).map (fun d => driveBytes s d (slotByte s k d j + 4096) (32 * setStripes k))).find? (fun l => sm3 l == root)

/-- Stripe i of the image in a slot. -/
def loadStripe (s : State) (k : SnapSet) (j i : Nat) : Bytes :=
  let ds := drivesOf k
  let n := max 1 ds.length
  let d := ds.getD (i % n) 0
  driveBytes s d (slotByte s k d j + (8 + i / n) * 2 ^ 20) (2 ^ 20)

/-- Stripes of an image up to the first that fails its hash. -/
def goodStripes (k : SnapSet) (list : Bytes) (get : Nat → Bytes) : List Bytes :=
  (((List.range (setStripes k)).map (fun i => (get i, slice list (32 * i) 32))).takeWhile (fun p => sm3 p.1 == p.2)).map (·.1)

/-- Stripes that hold a byte of the capture part. -/
def capStripes (k : SnapSet) : Nat := (setLc k + 2 ^ 20 - 1) / 2 ^ 20

/-- A read of a drive, split at its maximum transfer size. -/
def readDrive (s : State) (d at_ len : Nat) : State := (splitCmd s d ⟨0x02, at_, len, .nothing, 0⟩).foldl (fun u c => issueCmd u d c) s

/-- The reads of the manifest copies of a slot (step 1). -/
def emitReads (s : State) (k : SnapSet) (j : Nat) : State :=
  (drivesOf k).foldl (fun u d => readDrive u d (slotByte u k d j) 4096) s

/-- The reads of hash lists, to the first drive whose copy hashes to `HASHROOT` (step 3). -/
def emitListReads (k : SnapSet) (j : Nat) (root : Bytes) : List Nat → State → State
  | [], s => s
  | d :: rest, s =>
    let at_ := slotByte s k d j + 4096
    let u := readDrive s d at_ (32 * setStripes k)
    if sm3 (driveBytes s d at_ (32 * setStripes k)) == root then u else emitListReads k j root rest u

/-- The reads of the first `n` stripes (steps 4 and 5). -/
def emitStripeReads (s : State) (k : SnapSet) (j n : Nat) : State :=
  let ds := drivesOf k
  (List.range n).foldl (fun u i =>
    let d := ds.getD (i % max 1 ds.length) 0
    readDrive u d (slotByte u k d j + (8 + i / max 1 ds.length) * 2 ^ 20) (2 ^ 20)) s

/-- Stripes that a LOAD reads: to the first that fails, and the data stripes only when the capture stripes held and the streams
were not refused. -/
def stripesRead (s : State) (k : SnapSet) (good : Nat) (sk : List BoundStream) : Nat :=
  if good < capStripes k then good + 1
  else if s.snap.policy ∧ sk ≠ [] then capStripes k
  else min (good + 1) (setStripes k)

/-- Steps 4 to 6 of a LOAD. -/
def loadImage (s : State) (ring : Nat) (d : Desc) (n : Nat) (m : Bytes) (good : List Bytes) : State :=
  let k := s.snapSet n
  let img := good.flatten
  let cap := slice img 0 (setLc k)
  let sk := skewed k cap
  if good.length < capStripes k then refuseDesc s ring d 0x0703
  else if s.snap.policy ∧ sk ≠ [] then refuseDesc s ring d 0x0701
  else
    let s0 := noteSkew s sk
    let s1 := fillRuns (bufferRuns k false) s0 ((img.drop (setLc k)).take (setLd k))
    if good.length < setStripes k then refuseDesc (s1.setSnap n { k with phase := .invalid }) ring d 0x0703
    else
      let s2 := restoreStreams s1 k (realign k cap)
      doneDesc (putRole s2 n { k with
        phase := .ready, rd := false, wr := true, roleStep := BitVec.ofNat 32 (field m 8 4)
        snapNo := BitVec.ofNat 32 (field m 4 4 + 1), imgStep := BitVec.ofNat 32 (field m 8 4)
        jepoch := BitVec.ofNat 64 (field m 16 8) }) ring d 0 (zeros 16)

/-- The manifest belongs to the set, and to the lock unless `REMAP` (step 2). -/
def manifestFits (s : State) (n : Nat) (k : SnapSet) (m : Bytes) (remap : Bool) : Bool :=
  field m 1 1 == n && field m 48 8 == setLd k && field m 56 4 == setLc k && (remap || field m 24 16 == s.job.digest.toNat)

/-- The memory that a LOAD writes. -/
def loadRuns (k : SnapSet) : List (Nat × Nat) :=
  (addrOff k.roleWord, 8) :: (bufferRuns k false ++ k.strm.map (fun a => (addrOff a, tableBytes)))

/-- LOAD with its record read; `s` is the state to go back to while memory sleeps. Memory that HBM refuses ends it before anything
is written (DESIGN CHOICE, log entry 112). -/
def loadSet (s u : State) (ring : Nat) (d : Desc) (b : Bytes) : State :=
  let n := field b 0 1
  let slot := field b 1 1
  let k := u.snapSet n
  let ok := decide (n < 16) && decide (field b 2 1 < 2) && allZero b 3 253 && u.job.locked && !launchRunning u && !anyPitch u &&
    u.snap.en && (k.phase == .ready || k.phase == .invalid) && (slot == 0xFF || decide (slot < k.nslot))
  if !ok then refuseDesc u ring d 0x0706
  else if !runsReady u (loadRuns k) then wakeRuns s (loadRuns k)
  else match runsRefusal u .write (loadRuns k) with
  | some r => failDesc u ring d r.2 0 1 (dataAddr (mkAddr 0xFFF 0 r.1))
  | none =>
    let slots := loadSlots k slot
    let v := slots.foldl (fun w j => emitReads w k j) u
    if slots.any (slotTorn v k) then refuseDesc v ring d 0x0703
    else match newestImage v k slots with
      | none => refuseDesc v ring d 0x0703
      | some (j, m) =>
        if !manifestFits v n k m (bit (field b 2 1) 0) then refuseDesc v ring d 0x0706
        else
          let w := emitListReads k j (slice m 72 32) (drivesOf k) v
          match loadList w k j (slice m 72 32) with
          | none => refuseDesc w ring d 0x0703
          | some list =>
            let good := goodStripes k list (loadStripe w k j)
            let sk := skewed k (slice good.flatten 0 (setLc k))
            loadImage (emitStripeReads w k j (stripesRead w k good.length sk)) ring d n m good

/-- RESTORE_LOAD. -/
def execRestoreLoad (ring : Nat) (s : State) : Res :=
  startDesc 0x19 0 ring s (fun d u => withRecord s u ring d (opndAddr d 16) 256 1 0x0706 (fun b v => loadSet s v ring d b))

/-! ### PROMOTE (R381, R382) -/

/-- Read the manifest in capture area b: its bytes, none where HBM refuses them or a check fails (DESIGN CHOICE, log entry 112). -/
def readManifest (s : State) (k : SnapSet) (b : Bool) : Bytes × State :=
  match runsRefusal s .read [(capAt k b, 4096)] with
  | some r => ([], noteRefused s r.1 r.2)
  | none =>
    let m := hbmRead s (capAt k b) 4096 false
    (if m.2.1 = .good then m.1 else [], m.2.2)

/-- The manifest in capture area b. -/
def capManifest (s : State) (k : SnapSet) (b : Bool) : Bytes := (readManifest s k b).1

/-- Capture area b holds a valid manifest of step S for buffer b. -/
def capHolds (s : State) (k : SnapSet) (step : Nat) (b : Bool) : Bool :=
  let m := capManifest s k b
  m.length == 4096 && manifestValid m && field m 8 4 == step && field m 4 4 % 2 == b2n b

/-- The buffer whose capture area holds the image of step S, the one with the greater `SNAPNO` of two. -/
def promoteBuffer (s : State) (k : SnapSet) (step : Nat) : Option Bool :=
  match capHolds s k step false, capHolds s k step true with
  | true, true => some (decide (field (capManifest s k true) 4 4 > field (capManifest s k false) 4 4))
  | true, false => some false
  | false, true => some true
  | false, false => none

/-- The first check of a PROMOTE that fails; 0 when all pass. -/
def promoteCheck (s : State) (named : List Nat) (step : Nat) : Nat :=
  if s.snap.role ≠ .standby then 1
  else if launchRunning s || anyPitch s then 2
  else if holdsPrepared s then 3
  else if named.all (fun n => (s.snapSet n).phase == .recv && (promoteBuffer s (s.snapSet n) step).isSome) then 0 else 4

/-- Every ownership region of a run becomes this part's own. -/
def claimRun (s : State) (r : Nat × Nat) : State :=
  (unitsOf (2 ^ 21) r.1 r.2).foldl (fun u g => setOwn u g (mkOwn 0 0xFFF false false)) s

/-- The reads of step 4 of the checks, with what they count and raise. -/
def readManifests (s : State) (named : List Nat) : State :=
  named.foldl (fun u n => (readManifest (readManifest u (u.snapSet n) false).2 (u.snapSet n) true).2) s

/-- What refuses a promotion of a set from buffer b: a granule of its hash list or image, or of what it writes. -/
def promoteRefusal (s : State) (k : SnapSet) (b : Bool) : Option (Nat × Nat) :=
  (runsRefusal s .read ((capAt k b + capHash k, 32 * setStripes k) :: imageRuns k b)).or
    (runsRefusal s .write (roleRun k :: k.strm.map (fun a => (addrOff a, tableBytes))))

/-- Promote one set from buffer b: whether it succeeded, the code when it did not, and the state after. -/
def promoteSet (s : State) (n step : Nat) (b : Bool) : Nat × State :=
  let k := s.snapSet n
  let m := capManifest s k b
  let l := hbmRead s (capAt k b + capHash k) (32 * setStripes k) false
  let list := l.1
  let r := readRuns l.2.2 (imageRuns k b)
  let good := goodStripes k list (stripeOf r.1)
  let cap := slice r.1 0 (setLc k)
  let sk := skewed k cap
  if sm3 list ≠ slice m 72 32 ∨ l.2.1 ≠ .good ∨ good.length < setStripes k ∨ r.2.1 = false then (0x0703, note r.2.2 0x0703 0 unitHost)
  else if s.snap.policy ∧ sk ≠ [] then (0x0701, note r.2.2 0x0701 0 unitHost)
  else
    let s1 := (bufferRuns k false ++ bufferRuns k true ++ [(capAt k false, capBytes k), (capAt k true, capBytes k)]).foldl claimRun r.2.2
    let s2 := restoreStreams (noteSkew s1 sk) k (realign k cap)
    (0, putRole s2 n { k with
      phase := .ready, rd := b, wr := !b, roleStep := BitVec.ofNat 32 step
      snapNo := BitVec.ofNat 32 (field m 4 4 + 1), imgStep := BitVec.ofNat 32 step })

/-- The memory that a promotion of a set touches. -/
def promoteRuns (k : SnapSet) : List (Nat × Nat) :=
  (capAt k false, capBytes k) :: (capAt k true, capBytes k) :: (loadRuns k ++ bufferRuns k true)

/-- PROMOTE with its record read. -/
def promoteSets (s u : State) (ring : Nat) (d : Desc) (b : Bytes) : State :=
  let named := bitList (field b 0 2) 16
  let step := field b 4 4
  let runs := named.flatMap (fun n => promoteRuns (u.snapSet n))
  if allZero b 2 2 = false ∨ allZero b 8 248 = false then refuseDesc u ring d 0x0706
  else if !runsReady u runs then wakeRuns s runs
  else if promoteCheck u named step ≠ 0 then
    refuseDesc (if promoteCheck u named step = 4 then readManifests u named else u) ring d 0x0708 (promoteCheck u named step)
  else
    let r := named.foldl (fun (a : Nat × State) n =>
      match promoteBuffer a.2 (a.2.snapSet n) step with
      | some x =>
        let p := match promoteRefusal a.2 (a.2.snapSet n) x with
          | some f => (f.2, noteRefused a.2 f.1 f.2)
          | none => promoteSet a.2 n step x
        (if a.1 = 0 then p.1 else a.1, p.2)
      | none => a) (0, readManifests u named)
    if r.1 = 0 then doneDesc { r.2 with snap := { r.2.snap with role := .promoted } } ring d 0 (zeros 16)
    else doneDesc r.2 ring d r.1 (zeros 16)

/-- RESTORE_PROMOTE. -/
def execRestorePromote (ring : Nat) (s : State) : Res :=
  startDesc 0x19 1 ring s (fun d u => withRecord s u ring d (opndAddr d 16) 256 1 0x0706 (fun b v => promoteSets s v ring d b))

/-! ### The root port (R373, R383, R480) -/

/-- A write of `SNCTL`: `SPLIT` 3, a change of `SPLIT` while `EN` = 1, and `EN` on a board without drives are refused. -/
def writeSnctl (s : State) (v : W32) : State :=
  let en := bit v.toNat 0
  let sp : BitVec 2 := BitVec.ofNat 2 (bits v.toNat 2 1)
  if sp = 3 ∨ (s.snap.en = true ∧ sp ≠ s.snap.split) ∨ (en = true ∧ s.pins.straps.getLsbD 1 = false) then note s 0x0706 0 unitHost
  else
    let s1 := { s with snap := { s.snap with en := en, split := sp, policy := bit v.toNat 3 } }
    if en && s.snap.en then s1 else { s1 with snap := { s1.snap with present := 0, usable := 0, lbaBytes := [], maxBytes := [] } }

/-- SNCTL_EN_WRITE. -/
def execSnctlEnWrite (host : Nat) (value : W32) (s : State) : Res := setupWrite host s (writeSnctl s value)

/-- Links that `SPLIT` gives. -/
def snapLinks (s : State) : BitVec 4 := if s.snap.split = 0 then 1 else if s.snap.split = 1 then 3 else 15

/-- A block size that R373 supports. -/
def lbaOk (n : Nat) : Bool := n == 512 || n == 4096

/-- NVME_INIT_COMPLETE: the drives found on the links, those that are usable, their block sizes and the most that each moves in one
command; the reference clocks of the links run
(R491). -/
def execNvmeInitComplete (present usable : BitVec 4) (lbaBytes : List Nat) (s : State) (maxTransfer : List Nat := []) : Res :=
  let found := present &&& snapLinks s
  let ok : BitVec 4 := BitVec.ofNat 4 ((List.range 4).foldl (fun n k => n + if lbaOk (lbaBytes.getD k 0) then 2 ^ k else 0) 0)
  ifDue (s.snap.en && s.snap.present == 0) s
    { s with
      snap := { s.snap with
        present := found, usable := usable &&& found &&& ok
        lbaBytes := (List.range 4).map (fun k => (k, lbaBytes.getD k 0)), maxBytes := (List.range 4).map (fun k => (k, maxTransfer.getD k 0)) }
      pins := { s.pins with drefclk := s.pins.drefclk ||| snapLinks s, dperst := s.pins.dperst ||| snapLinks s } }

end Sys2Proof.Machine
end

