-- ==== Sys2Proof/Machine/Belay.lean ====
section
/-! DEFINITION. Pitches (R340 to R360): opening, the two-phase belay at its source and at a participant, stopping and
replay, precision fall-back; the copying home of committed blocks; the resolution of stages in doubt; and the handover of
the primary role (R362). -/

namespace Sys2Proof.Machine

/-! ### Changing a pitch -/

/-- Change the pitch of a ring pair. -/
def modPitch (s : State) (ring : Nat) (f : Pitch → Pitch) : State :=
  s.setRing ring { s.ring ring with pitch := f (s.ring ring).pitch }

/-- A packet of the belay to a part (R346). -/
def belayPacket (typ : Byte) (ring : Nat) (pitch : W16) : Packet :=
  { typ := typ, cls := 0, src := 0, dst := 0, ring := BitVec.ofNat 5 ring, pitch := pitch, inPitch := true }

/-! ### PITCH_OPEN (R340, R359) -/

/-- Write the fall-back level as a direct committed write (R358). -/
def writeLevel (s : State) (p : Pitch) (level : Nat) : State := hbmWrite s (addrOff p.fbWord) (leBytes 8 level)

/-- What refuses that write (R497); 0 when it passes. -/
def levelCode (s : State) (ring : Nat) (fbWord : W64) : Nat := refusal s (.ring ring) .write none 0 (addrOff fbWord) 8

/-- The pitch that a PITCH_OPEN opens. -/
def openedPitch (d : Desc) : Pitch :=
  { phase := .open, id := BitVec.ofNat 16 (descPitch d), previous := BitVec.ofNat 16 (descPitch d), nfMax := BitVec.ofNat 32 (opnd d 8 4)
    satMax := BitVec.ofNat 32 (opnd d 12 4), step := BitVec.ofNat 32 (opnd d 16 4), fbEn := opnd d 20 1 == 1
    fbWord := opndAddr d 24, log := [d.index] }

/-- Accept a PITCH_OPEN: a different `STEP` resets the fall-back count, `FBWORD` is zeroed, the engines record their
counters, and the lead swap takes place (R404). -/
def openPitch (s : State) (ring : Nat) (d : Desc) : State :=
  let p := openedPitch d
  let s1 := modPitch s ring (fun _ => p)
  let s2 := { s1 with cmd := { s1.cmd with step := p.step, falls := if s1.cmd.step = p.step then s1.cmd.falls else 0 } }
  let s3 := modDesc (doneDesc (writeLevel s2 p 0) ring d 0 (zeros 16)) ring d.index (fun x => { x with inPitch := true })
  let s4 := leadSwap (pipesOpen (bucketsOpen s3 ring) ring)
  modPitch s4 ring (fun q => { q with lmap := s4.pwr.lmap })

/-- PITCH_OPEN. It waits for the memory of `FBWORD`; one that HBM refuses ends the descriptor, and no pitch opens (DESIGN CHOICE, log entry 112). -/
def execPitchOpen (ring : Nat) (s : State) : Res :=
  startDesc 0x08 0 ring s (fun d u =>
    if s.cmd.storms.contains (BitVec.ofNat 32 (opnd d 16 4)) then refuseDesc s ring d 0x0104
    else if levelCode s ring (opndAddr d 24) ≠ 0 then
      failDesc u ring d (levelCode s ring (opndAddr d 24)) 0 1 (dataAddr (opndAddr d 24))
    else if !unitReady s 0 (addrOff (opndAddr d 24)) 8 then wakeUnit s 0 (addrOff (opndAddr d 24)) 8
    else openPitch u ring d)

/-! ### The end of an attempt (R353) -/

/-- Send SDISCARD to every participant. -/
def discardAll (s : State) (ring : Nat) : State :=
  let p := (s.ring ring).pitch
  p.participants.foldl (fun u dev => sendStream u dev 0 (belayPacket tSDISCARD ring p.id)) s

/-- Requests of an attempt that nobody waits for any more. -/
def attemptTag (ring : Nat) (o : Outstanding) : Bool :=
  match o.use_ with
  | .gatherLine _ r _ _ => r == ring
  | .sprep r _ => r == ring
  | _ => readOf ring o

/-- A write or atomic of the attempt to this part's own memory has not been performed yet (DEDUCED, log entry 117). -/
def attemptBusy (s : State) (ring : Nat) : Bool :=
  s.reqs.any (fun q => q.view == some ring && !q.away && q.reply == .none && (match q.act with | .read => false | _ => true))

/-- Steps 2 to 4 of R353: the local stage is dropped, the participants are told, the engines restore their records, and
the counts return to zero. -/
def discardAttempt (s : State) (ring : Nat) : State :=
  let s1 := discardAll (dropStage s (localKey s ring)) ring
  let s2 := { s1 with fab := { s1.fab with outstanding := s1.fab.outstanding.filter (fun o => !attemptTag ring o) } }
  modPitch (pipesReplay (bucketsReplay s2 ring) ring) ring (fun p =>
    { p with nfCount := 0, satCount := 0, participants := [], sent := [], awaiting := [], answers := [], covering := false })

/-- A pitch that will not replay leaves nothing for the engines to repeat. -/
def forgetReplay (s : State) (ring : Nat) : State :=
  modPipes (modBuckets s ring (fun x => { x with again := 0, fires := 0, pushFired := false })) ring (fun _ p => { p with fold2 := none, again := 0 })

/-- A descriptor of the pitch that is open on its ring pair. -/
def ofPitch (d : Desc) : Bool := d.inPitch && !d.sealed

/-- A pitch ends (R356): its descriptors get their flags; when it fails, what had not started completes with it (R329). The record
that carries the pitch's fault carries the devices that the fault lists (R331). -/
def sealDesc (p : Pitch) (discard : Bool) (last ns : Nat) (d : Desc) : Desc :=
  let mine := ofPitch d || (d.phase == .accepted && descPitch d == p.id.toNat)
  if discard then
    if !ofPitch d && d.phase != .accepted then d
    else
      let d1 := if d.phase = .accepted then { d with fault := 0x0606, detail := detailNone d } else d
      let d2 := { d1 with
        phase := .done, run := .none, discarded := true, inPitch := mine, replayed := mine && decide (p.attempt > 0), sealed := true
        timeNs := if d.phase = .done then d.timeNs else ns }
      if d.index = last then { d2 with fault := p.fault, detail := if p.faultList = [] then d2.detail else slice p.faultList 0 16 } else d2
  else if ofPitch d then { d with replayed := decide (p.attempt > 0), sealed := true } else d

/-- The descriptor that carries a pitch's fault: the ending one, or the last one logged. -/
def lastOf (s : State) (ring : Nat) : Nat :=
  match runningDesc s ring (fun r => r == .belay || r == .stopping) with
  | some d => d.index
  | none => ((s.ring ring).pitch.log.getLast?).getD 0

/-- A pitch fails with the fault it holds: its records are sealed, deferred effects dropped, and its ring pair stops
(R329, R351, R356). -/
def failPitch (s : State) (ring : Nat) : State :=
  let r := s.ring ring
  let last := lastOf s ring
  forgetReplay (s.setRing ring { r with
    phase := if r.phase = .active then .stopped else r.phase
    descs := r.descs.map (sealDesc r.pitch true last s.ns), deferred := []
    pitch := { r.pitch with phase := .none, log := [] } }) ring

/-- An aborted pitch ends: what started is discarded, the ring pair goes on (R357). -/
def abortPitch (s : State) (ring : Nat) : State :=
  let r := s.ring ring
  let p := { r.pitch with fault := 0, faultList := [] }
  let keep (d : Desc) : Desc := if ofPitch d then sealDesc p true (lastOf s ring) s.ns d else d
  forgetReplay (s.setRing ring { r with
    descs := r.descs.map keep, deferred := [], pitch := { p with phase := .none, aborting := false, log := [] } }) ring

/-- The next attempt of a pitch: every logged descriptor after PITCH_OPEN is to run again (R354). -/
def replayPitch (s : State) (ring : Nat) : State :=
  let r := s.ring ring
  let again (d : Desc) : Desc :=
    if ofPitch d && descOpc d != 0x08 then
      { d with phase := .accepted, run := .none, fault := 0, detail := [], replayed := true } else d
  s.setRing ring { r with
    descs := r.descs.map again, deferred := []
    pitch := { r.pitch with phase := .open, attempt := r.pitch.attempt + 1, fault := 0, faultList := [], replays := false, falling := false, blocks := 0 } }

/-- The level of a falling pitch rises and goes to `FBWORD` (R358). -/
def raiseLevel (s : State) (ring : Nat) : State :=
  let p := (s.ring ring).pitch
  writeLevel (modPitch s ring (fun q => { q with level := q.level + 1 })) p (p.level.toNat + 1)

/-- A stopped pitch fails with a fault of its own, which stands in its record and the log. -/
def failStopped (s : State) (ring : Nat) (f : Raise) : State :=
  failPitch (record (modPitch s ring (fun q => { q with fault := BitVec.ofNat 16 f.code, faultList := [] }))
    (withRing s (some ring) { f with ended := true })) ring

/-- PITCH_STOP_COMPLETE: the member launches have ended and what they wrote has been performed; the attempt is discarded, and the
pitch ends or replays. A refused `FBWORD` ends a falling pitch (DESIGN CHOICE, log entry 112). -/
def execPitchStopComplete (ring : Nat) (s : State) : Res :=
  onUnit 32 ring <|
    let p := (s.ring ring).pitch
    let falls := p.falling && p.replays
    if p.phase ≠ .stopping ∨ s.cmd.launches.any (fun l => l.ring == ring && !l.finished) = true ∨ attemptBusy s ring = true then .next s
    else if falls && levelCode s ring p.fbWord == 0 && !unitReady s 0 (addrOff p.fbWord) 8 then .next (wakeUnit s 0 (addrOff p.fbWord) 8)
    else
      let s1 := discardAttempt s ring
      if p.aborting then .next (abortPitch s1 ring)
      else if !p.replays then .next (failPitch s1 ring)
      else if falls && levelCode s ring p.fbWord != 0 then
        .next (failStopped s1 ring { code := levelCode s ring p.fbWord, unit := unitHost, kind := 1, data := dataAddr p.fbWord })
      else
        let s2 := if falls then raiseLevel s1 ring else s1
        .next (if p.attempt < 3 then replayPitch s2 ring else failStopped s2 ring { code := 0x0603, unit := unitHost })

/-- PITCH_ABORT. -/
def execPitchAbort (ring : Nat) (s : State) : Res :=
  startDesc 0x0A 0 ring s (fun d u =>
    stopMembers (modPitch (runDesc u ring d .stopping) ring (fun p =>
      { p with phase := .stopping, aborting := true, replays := false, fault := 0 })) ring)

/-! ### Precision fall-back (R358, R359) -/

/-- The pitch counts of a BELAY exceed its thresholds. -/
def mustFall (p : Pitch) : Bool := p.fbEn && (decide (p.nfCount.toNat > p.nfMax.toNat) || decide (p.satCount.toNat > p.satMax.toNat))

/-- A pitch falls back, or raises the storm of its step. -/
def fallBack (s : State) (ring : Nat) : State :=
  let p := (s.ring ring).pitch
  let first := p.level == 0 && p.step == s.cmd.step
  if first && decide (s.cmd.falls ≥ s.cmd.budget.toNat) then
    ringRaise { s with cmd := { s.cmd with storms := p.step :: s.cmd.storms } } ring 0x0104 0 0 []
  else
    let s1 := { s with cmd := { s.cmd with falls := if first then s.cmd.falls + 1 else s.cmd.falls } }
    pitchFault (modPitch s1 ring (fun q => { q with falling := true })) ring { code := 0, unit := unitHost } true

/-! ### BELAY (R348) -/

/-- A BELAY that runs on the ring pair. -/
def runningBelay (s : State) (ring : Nat) : Option Desc := runningDesc s ring (fun r => r == .belay)

/-- Step 4: SPREP to every participant. -/
def sendPrepares (s : State) (ring : Nat) : State :=
  let p := (s.ring ring).pitch
  let s1 := p.participants.foldl (fun u dev => openRequest u dev (.sprep ring dev) (belayPacket tSPREP ring p.id)) s
  modPitch s1 ring (fun q => { q with covering := false, awaiting := p.participants, answers := [], since := s.clk })

/-- While a set captures its stream tables, a stage that holds a block of one waits before its commit point (R368). -/
def captureHolds (s : State) (ring : Nat) : Bool :=
  match stageOf s (localKey s ring) with
  | none => false
  | some g => s.snap.sets.any (fun x => x.2.phase == .freezing && !x.2.captured &&
      x.2.strm.any (fun a => g.blocks.any (fun b => overlaps (b * 65536) 65536 (addrOff a) tableBytes)))

/-- Step 6: the pitch fails; the devices that refused or kept silent are listed, with the first one's answer. -/
def failPrepare (s : State) (ring : Nat) : State :=
  let p := (s.ring ring).pitch
  let devs := (p.awaiting ++ p.answers.map (·.1)).foldl (fun l d => insertNat d l) []
  let answer := (devs.head?.bind (fun d => (p.answers.find? (fun a => a.1 == d)).map (fun a => a.2.toNat))).getD 0
  let s1 := match runningBelay s ring with
    | some d => modDesc s ring d.index (fun x => { x with detail := detailDevs devs answer })
    | none => s
  let s2 := record s1 (withRing s1 (some ring) { code := 0x0608, unit := unitHost, kind := 2, data := dataDevs devs, ended := true })
  failPitch (modPitch (discardAttempt s2 ring) ring (fun q => { q with fault := 0x0608, faultList := [] })) ring

/-- Step 5: the commit point. The local stage commits and SCOMMIT goes to every participant, under the number of the decision
record, which stands beside any older one of the same key (R349). -/
def commitPitch (s : State) (ring : Nat) : State :=
  let p := (s.ring ring).pitch
  let n := ((stageOf s (localKey s ring)).map (fun g => g.blocks.length)).getD 0
  let s1 := commitStage s (localKey s ring)
  let no := s.cmd.nextDecision
  let dec : Decision := { no := no, ring := ring, pitch := p.id, waiting := p.participants }
  let s2 := { s1 with cmd := { s1.cmd with
    nextDecision := no + 1, decisions := if p.participants.isEmpty then s1.cmd.decisions else s1.cmd.decisions ++ [dec] } }
  let s3 := p.participants.foldl (fun u dev => openRequest u dev (.scommit no dev) (belayPacket tSCOMMIT ring p.id)) s2
  modPitch s3 ring (fun q => { q with phase := .committing, awaiting := p.participants, since := s.clk, blocks := n, decision := no })

/-- Every answer is in: commit or fail. The commit waits while all 1,024 decision records are in use and for the capture of a
stream table (R349, R368). -/
def decidePitch (s : State) (ring : Nat) : State :=
  let p := (s.ring ring).pitch
  if p.phase ≠ .preparing ∨ p.covering = true ∨ p.awaiting ≠ [] then s
  else if p.answers ≠ [] then failPrepare s ring
  else if s.cmd.decisions.length ≥ 1024 ∨ captureHolds s ring = true then s
  else commitPitch s ring

/-- Steps 2 to 5 of a BELAY, as far as they go now. -/
def advanceBelay (s : State) (ring : Nat) : State :=
  let p := (s.ring ring).pitch
  if p.phase ≠ .preparing then s
  else if p.covering then
    (if !covered s p.sent || attemptBusy s ring then s
     else if s.cmd.storms.contains p.step then ringRaise s ring 0x0104 0 0 []
     else if mustFall p then fallBack s ring
     else decidePitch (sendPrepares s ring) ring)
  else decidePitch s ring

/-- Every BELAY goes on as far as it can. -/
def advanceBelays (s : State) : State := s.cmd.rings.foldl (fun u r => advanceBelay u r.1) s

/-- BELAY: every descriptor of the pitch has completed when it starts. A BELAY under way goes on. -/
def execBelay (ring : Nat) (s : State) : Res :=
  match runningBelay s ring with
  | some _ => onUnit 32 ring (.next (advanceBelay s ring))
  | none => startDesc 0x09 0 ring s (fun d u =>
      advanceBelay (modPitch (runDesc u ring d .belay) ring (fun p => { p with phase := .preparing, covering := true, since := u.clk })) ring)

/-- An answer to SPREP. -/
def tookPrepare (s : State) (ring dev : Nat) (code : W16) : State :=
  let p := (s.ring ring).pitch
  if p.phase = .preparing ∧ p.awaiting.contains dev = true then
    decidePitch (modPitch s ring (fun q => { q with
      awaiting := q.awaiting.filter (· != dev), answers := if code = 0 then q.answers else q.answers ++ [(dev, code)] })) ring
  else s

/-- What the tag of a STATUS is for. -/
def tagUse (s : State) (k : Packet) : Option TagUse := (outstandingOf s k.tag.toNat).map (·.use_)

/-- A STATUS for this part that answers an SPREP. -/
def prepareAnswer (s : State) (k : Packet) : Bool :=
  forHere s k && k.typ == tSTATUS && (match tagUse s k with | some (.sprep _ _) => true | _ => false)

/-- SPREP_ANSWER. -/
def execSprepAnswer (port : Nat) (s : State) : Res :=
  onArrived port s (prepareAnswer s)
    (fun k u => match tagUse u k with
      | some (.sprep ring dev) => tookPrepare (freeOutstanding u k.tag.toNat) ring dev (BitVec.ofNat 16 (field k.payload 0 2))
      | _ => u)

/-- BELAY_PREPARE_TIMEOUT. -/
def execBelayPrepareTimeout (ring : Nat) (s : State) : Res :=
  onUnit 32 ring <|
    let p := (s.ring ring).pitch
    ifDue (p.phase == .preparing && !p.covering && !p.awaiting.isEmpty && s.passed p.since s.fab.fenceTo.toNat) s (failPrepare s ring)

/-- The pitch of a decision record is still in step 7 of its BELAY. -/
def Pitch.commits (p : Pitch) (no : Nat) : Bool := p.phase == .committing && p.decision == no

/-- An answer to SCOMMIT: 0 confirms the participant; the record ends with its last one (R349). -/
def tookCommit (s : State) (no dev : Nat) (code : W16) : State :=
  let heard (q : Pitch) : Pitch := if q.commits no then { q with awaiting := q.awaiting.filter (· != dev) } else q
  let s1 := { s with cmd := { s.cmd with rings := s.cmd.rings.map (fun r => (r.1, { r.2 with pitch := heard r.2.pitch })) } }
  if code ≠ 0 then s1
  else
    let left := (s1.cmd.decisions.map (fun x =>
      if x.no = no then { x with waiting := x.waiting.filter (· != dev) } else x)).filter (fun x => !x.waiting.isEmpty)
    advanceBelays { s1 with cmd := { s1.cmd with decisions := left } }

/-! ### The completion of a BELAY (R348 steps 7 and 8) -/

/-- The most that a deferred descriptor's record takes, within HBM. -/
def recordRun (d : Desc) : Nat × Nat := (addrOff (opndAddr d 16), min 4112 (hbmBytes - addrOff (opndAddr d 16)))

/-- The record of a deferred SNAPSHOT as it stands in memory now. -/
def snapRecord (s : State) (d : Desc) : Bytes := committedBytes s (addrOff (opndAddr d 16)) 256

/-- The sets that deferred DECLAREs describe. -/
def deferredSets (s : State) (ds : List Desc) : List SnapSet :=
  (ds.filter (fun d => descOpc d == 0x18 && descOp d == 0)).map (fun d => readSet (snapRecord s d))

/-- The memory that deferred descriptors touch: their records, the role words that they declare, and the cursor tables of every
set that a TAKE may freeze. -/
def deferredRuns (s : State) (ds : List Desc) : List (Nat × Nat) :=
  let takes := ds.any (fun d => descOpc d == 0x18 && descOp d == 1)
  let sets := deferredSets s ds ++ s.snap.sets.map (·.2)
  let caps := if takes then sets.flatMap (fun k => [(capAt k false + 4096, 1024), (capAt k true + 4096, 1024)]) else []
  (ds.filter (fun d => descOpc d != 0x05)).map recordRun ++
    ((deferredSets s ds).map roleRun ++ caps).filter (fun r => rangeOk 0 r.1 r.2)

/-- A deferred descriptor takes effect. -/
def applyDeferred (s : State) (ring : Nat) (d : Desc) : State :=
  match descOpc d with
  | 0x05 => runSignal s ring d
  | 0x18 => runSnapshot s s ring d
  | 0x1A => runCursor s s ring d
  | _ => s

/-- A BELAY completes: its records, the role words, the deferred effects in ring order, the pipe credits. -/
def completeBelay (s : State) (ring : Nat) : State :=
  let r := s.ring ring
  let p := r.pitch
  let silent := p.awaiting
  let s1 := if silent.isEmpty then s else record s (withRing s (some ring) { code := 0x060B, unit := unitHost, kind := 2, data := dataDevs silent })
  let bytes := if silent.isEmpty then
      detailOf [(16, 1, p.attempt), (17, 1, p.level.toNat), (18, 2, p.participants.length), (20, 4, p.blocks)]
    else detailDevs silent
  let s2 := match runningBelay s1 ring with
    | some d => doneDesc s1 ring d (if silent.isEmpty then 0 else 0x060B) bytes
    | none => s1
  let r2 := s2.ring ring
  let s3 := s2.setRing ring { r2 with
    descs := r2.descs.map (sealDesc p false 0 s2.ns), deferred := [], pitch := { p with phase := .none, awaiting := [], log := [] } }
  let asked (x : Decision) : Decision := if x.no == p.decision then { x with again := true, sentAt := x.waiting.map (fun d => (d, s.clk)) } else x
  let s4 := { s3 with cmd := { s3.cmd with decisions := s3.cmd.decisions.map asked } }
  let s5 := forgetReplay (turnRoles s4 ring p.step) ring
  pipesBelay (r.deferred.foldl (fun u d => applyDeferred u ring d) s5) ring

/-- BELAY_COMPLETE: every SCOMMIT is answered, or the wait is over. The belay waits for the memory that its role words and deferred
descriptors touch. -/
def execBelayComplete (ring : Nat) (s : State) : Res :=
  onUnit 32 ring <|
    let r := s.ring ring
    let runs := (turningSets s ring).map (fun x => roleRun x.2) ++ deferredRuns s r.deferred
    if r.pitch.phase ≠ .committing ∨ (r.pitch.awaiting ≠ [] ∧ s.passed r.pitch.since s.fab.fenceTo.toNat = false) then .next s
    else if !runsReady s runs then .next (wakeRuns s runs)
    else .next (completeBelay s ring)

/-! ### Sending again (R346, R349) -/

/-- The BELAY of a decision record is still in step 7. -/
def stillCommitting (s : State) (no : Nat) : Bool := s.cmd.rings.any (fun r => r.2.pitch.commits no)

/-- A request that R346 sends afresh after 200 µs. Once step 7 is over, R349 gives SCOMMIT its period. -/
def sentAfresh (s : State) (o : Outstanding) : Bool :=
  match o.use_ with
  | .sprep _ _ => true
  | .scommit no _ => stillCommitting s no
  | .squery _ _ _ => true
  | _ => false

/-- STAGE_PACKET_RESEND. -/
def execStagePacketResend (tag : Nat) (s : State) : Res :=
  match outstandingOf s tag with
  | none => .next s
  | some o => ifDue (sentAfresh s o && s.passed o.sentAt 200) s (sendAfresh s o)

/-- SCOMMIT_RESEND: every 100 ms to a participant that has not confirmed. -/
def execScommitResend (record_ device : Nat) (s : State) : Res :=
  match s.cmd.decisions.find? (fun x => x.no == record_) with
  | none => .next s
  | some x =>
    ifDue (x.again && x.waiting.contains device && s.passed (tget x.sentAt device 0) 100000) s <|
      let s1 := { s with fab := { s.fab with outstanding := s.fab.outstanding.filter (fun o => o.use_ != TagUse.scommit record_ device) } }
      let stamp (y : Decision) : Decision := if y.no == record_ then { y with sentAt := tset y.sentAt device s.clk } else y
      let s2 := { s1 with cmd := { s1.cmd with decisions := s1.cmd.decisions.map stamp } }
      openRequest s2 device (.scommit record_ device) (belayPacket tSCOMMIT x.ring x.pitch)

/-! ### The participant (R347, R350) -/

/-- The stage that a belay packet names. -/
def belayKey (k : Packet) : StageKey := (k.src.toNat, k.ring.toNat, k.pitch)

/-- Drop a stage with the push lines it holds. -/
def discardStage (s : State) (key : StageKey) : State :=
  match stageOf s key with
  | some g => dropStage (forgetPushes s g) key
  | none => s

/-- Commit a PREPARED stage: its key joins its source's last 64. -/
def commitPrepared (s : State) (key : StageKey) : State :=
  let s1 := commitStage s key
  let same := (s1.cmd.committed.filter (fun c => c.1 == key.1)).take 63
  { s1 with cmd := { s1.cmd with committed := key :: same ++ s1.cmd.committed.filter (fun c => c.1 != key.1) } }

/-- No such stage: logged and answered (R347). -/
def answerLost (s : State) (k : Packet) : State :=
  let f : Raise := { code := 0x0609, unit := unitHost, ring := some k.ring.toNat, pitch := k.pitch, kind := 1, data := dataAddr 0 k.src.toNat, remote := true }
  answerStatus (record s f) k 0x0609

/-- SPREP at a participant. -/
def execSprep (src : Nat) (s : State) : Res :=
  onDelivered tSPREP 0 src s (fun k _ _ u =>
    match stageOf u (belayKey k) with
    | none => answerLost u k
    | some g =>
      if g.prepared then answerStatus u k 0
      else if g.refused then answerStatus (discardStage u (belayKey k)) k 0x0604
      else answerStatus (modStage u (belayKey k) (fun x => { x with prepared := true, preparedAt := u.clk, queryAt := u.clk })) k 0)

/-- SCOMMIT at a participant. -/
def execScommit (src : Nat) (s : State) : Res :=
  onDelivered tSCOMMIT 0 src s (fun k _ _ u =>
    if ((stageOf u (belayKey k)).map (·.prepared)) = some true then answerStatus (commitPrepared u (belayKey k)) k 0
    else if u.cmd.committed.contains (belayKey k) then answerStatus u k 0
    else answerLost u k)

/-- SDISCARD at a participant. -/
def execSdiscard (src : Nat) (s : State) : Res :=
  onDelivered tSDISCARD 0 src s (fun k _ _ u => discardStage u (belayKey k))

/-- SQUERY at the source. -/
def execSquery (src : Nat) (s : State) : Res :=
  onDelivered tSQUERY 0 src s (fun k _ _ u =>
    answerStatus u k (if u.cmd.decisions.any (fun x => x.ring == k.ring.toNat && x.pitch == k.pitch) then 0 else 0x060A))

/-- Forget the query of a stage that is outstanding. -/
def dropQuery (s : State) (g : Stage) : State :=
  { s with fab := { s.fab with outstanding := s.fab.outstanding.filter (fun o => o.use_ != TagUse.squery g.src g.ring g.pitch.toNat) } }

/-- When the next query of a PREPARED stage is due: `FFENCETO` after SPREP, then every 1 ms, in doubt every 100 ms. -/
def queryDue (s : State) (g : Stage) : Bool :=
  if g.inDoubt then s.passed g.queryAt 100000
  else if g.asking then s.passed g.queryAt 1000
  else s.passed g.preparedAt s.fab.fenceTo.toNat

/-- IN_DOUBT_QUERY: the third query in a row without an answer raises FLT_IN_DOUBT; the stage is kept. -/
def execInDoubtQuery (stage : Nat) (s : State) : Res :=
  match s.cmd.stages[stage]? with
  | none => .next s
  | some g =>
    ifDue (g.prepared && g.src != 0xFFF && queryDue s g) s <|
      let silent := if g.asking then g.queries + 1 else 0
      let doubt := g.inDoubt || decide (silent ≥ 3)
      let told := record s { code := 0x060C, unit := unitHost, ring := some g.ring, pitch := g.pitch, kind := 1, data := dataAddr 0 g.src }
      let s1 := if doubt && !g.inDoubt then told else s
      let s2 := modStage (dropQuery s1 g) (g.src, g.ring, g.pitch) (fun x =>
        { x with asking := true, queries := silent, inDoubt := doubt, queryAt := s.clk })
      openRequest s2 g.src (.squery g.src g.ring g.pitch.toNat) (belayPacket tSQUERY g.ring g.pitch)

/-- An answer to SQUERY. -/
def tookQuery (s : State) (src ring pitch : Nat) (code : W16) : State :=
  let key : StageKey := (src, ring, BitVec.ofNat 16 pitch)
  match stageOf s key with
  | none => s
  | some g =>
    if !g.prepared then s
    else if code = 0 then commitPrepared s key
    else if code = 0x060A then discardStage s key
    else modStage s key (fun x => { x with queries := 0 })

/-- The key in the resolution registers. -/
def resolveKey (s : State) : StageKey := (s.cmd.rsrSrc.toNat, s.cmd.rsrRing.toNat, s.cmd.rsrPitch)

/-- A write of `RSRGO`: 1 commits, 2 discards; anything else, or a key without a PREPARED stage, is refused. -/
def writeRsrgo (s : State) (decide_ : Nat) : State :=
  match stageOf s (resolveKey s) with
  | some g =>
    if !g.prepared then note s 0x060D 0 unitHost
    else if decide_ = 1 then commitPrepared (dropQuery s g) (resolveKey s)
    else if decide_ = 2 then discardStage (dropQuery s g) (resolveKey s)
    else note s 0x060D 0 unitHost
  | none => note s 0x060D 0 unitHost

/-- RSRGO_COMMIT. -/
def execRsrgoCommit (host : Nat) (s : State) : Res := setupWrite host s (writeRsrgo s 1)

/-- RSRGO_DISCARD. -/
def execRsrgoDiscard (host : Nat) (s : State) : Res := setupWrite host s (writeRsrgo s 2)

/-! ### Copying home (R345) -/

/-- Copy the pieces of a block home that no later commit covers; the block is free after it. -/
def copyHome (s : State) (i : Nat) (r : Redirect) : State :=
  let s1 := { s with cmd := { s.cmd with redirects := s.cmd.redirects.eraseIdx i } }
  if r.granule ≥ 2 ^ 32 then s1
  else r.pieces.foldl (fun u p =>
    match redirectPiece u p.1 with
    | some _ => u
    | none => hbmWrite u (256 * p.1) p.2 (r.bad.contains p.1)) s1

/-- STAGE_BLOCK_COPY_HOME: a granule's blocks go home in the order of their commits. -/
def execStageBlockCopyHome (block : Nat) (s : State) : Res :=
  match s.cmd.redirects[block]? with
  | none => .next s
  | some r =>
    let older := (s.cmd.redirects.take block).any (fun q => q.granule == r.granule)
    let runs := if r.granule ≥ 2 ^ 32 then [] else r.pieces.map (fun p => (256 * p.1, 256))
    if older then .next s
    else if !runsReady s runs then .next (wakeRuns s runs)
    else .next (copyHome s block r)

/-! ### Acknowledgements -/

/-- What waits for acknowledgements goes on: descriptors, send counters, belays. -/
def settleCovers (s : State) : State := advanceBelays (settleBuckets (settleAll s))

/-- ACK: one that does not advance the point is ignored. What waited for acknowledgements then goes on (R239, R335). -/
def execAck (port : Nat) (s : State) : Res :=
  onType tACK port s (fun k u =>
    match txFind u k.src.toNat (k.tag.toNat % 4) with
    | none => u
    | some x =>
      let ahead := (k.seq - x.acked).toNat
      if ahead = 0 ∨ ahead ≥ 2 ^ 31 then u else settleCovers (advanceTx u x k.seq))

/-! ### The primary role (R361, R362, R475) -/

/-- A handover write of a port whose link carries it. -/
def handoverWrite (host : Nat) (s : State) (r : State) : Res := onUnit 2 host (if (s.hport host).up then .next r else .next s)

/-- The number of the primary port. -/
def primaryPort (s : State) : Nat := b2n s.host.primary

/-- A failed handover. -/
def handoverFault (s : State) (detail : Nat) : State := note s 0x0B01 detail unitHost

/-- HOVER_OFFER. -/
def execHoverOffer (host : Nat) (token : W16) (s : State) : Res :=
  handoverWrite host s <|
    if host ≠ primaryPort s then handoverFault s 4
    else if token = 0 then handoverFault s 1
    else { s with host := { s.host with offer := some token, offerAt := s.clk } }

/-- The role moves to a port. -/
def becomePrimary (s : State) (host : Nat) : State := { s with host := { s.host with primary := host == 1, offer := none } }

/-- HOVER_ACCEPT: the other port, the same token, while the offer stands. -/
def execHoverAccept (host : Nat) (token : W16) (s : State) : Res :=
  handoverWrite host s <|
    if host ≠ primaryPort s ∧ token ≠ 0 ∧ s.host.offer = some token ∧ s.passed s.host.offerAt 100000 = false then becomePrimary s host
    else handoverFault s 1

/-- HOVER_CLAIM: the primary's link has been down, or its reset held, for 100 ms. -/
def execHoverClaim (host : Nat) (s : State) : Res :=
  handoverWrite host s <|
    let p := s.hport (primaryPort s)
    if host ≠ primaryPort s ∧ p.up = false ∧ s.passed p.downAt 100000 = true then becomePrimary s host else handoverFault s 3

/-- HANDOVER_OFFER_LAPSE. -/
def execHandoverOfferLapse (s : State) : Res :=
  ifDue (s.host.offer.isSome && s.passed s.host.offerAt 100000) s
    (handoverFault { s with host := { s.host with offer := none } } 2)

end Sys2Proof.Machine
end

