-- ==== Sys2Proof/Machine/Replies.lean ====
section
/-! DEFINITION. Replies to this part's requests (R241, R257, R259, R263, R267): data, atomic results and statuses as they
arrive, and what follows when none comes. -/

namespace Sys2Proof.Machine

/-! ### Counting what is late (R257) -/

/-- A reply that nothing waits for is discarded and counted. -/
def lateReply (s : State) : State := { s with fab := { s.fab with late := satInc s.fab.late } }

/-- The request that a reply answers: outstanding, unanswered, sent to the part that replies, of the type. -/
def answered (s : State) (k : Packet) (typ : Byte → Bool) : Option Outstanding :=
  match outstandingOf s k.tag.toNat with
  | some o => if o.reply = .none ∧ o.packet.dst = k.src ∧ typ o.packet.typ = true then some o else none
  | none => none

/-- The line that the gather of a ring pair waits for, woken where it sleeps. -/
def wakeLine (s : State) (ring entry line : Nat) : State :=
  match runningGather s ring with
  | some d => match d.run with
    | .gather b _ _ _ _ => wakeGather s (gatherEntry b entry) line
    | _ => s
  | none => s

/-- A line comes for a request: none while its destination sleeps. -/
def lineCame (s : State) (o : Outstanding) (data : Bytes) (st : LineState) : Option State :=
  match o.use_ with
  | .gatherLine _ ring entry line => gatherLanded (freeOutstanding s o.tag) ring entry line data st
  | _ => some (setReplyOf s o.tag (.data data st))

/-! ### RDATA and ARESULT -/

/-- The address of the line that a request reads, as this part names it. -/
def homeOf (o : Outstanding) : W64 := mkAddr o.packet.dst.toNat 0 (bits o.packet.addr.toNat 47 0)

/-- RDATA with its packet taken; none while what it writes sleeps. -/
def takeData (s : State) (k : Packet) : Option State :=
  match answered s k (fun t => t == tREAD || t == tCREAD) with
  | none => some (lateReply s)
  | some o =>
    let install := o.packet.typ == tCREAD && !o.noInstall
    if install && !cacheReady s (homeOf o) then none
    else
      let s1 := if install then rlcInstall s (addrOff (homeOf o) / 128) (addrDev (homeOf o)) k.payload k.e2e else s
      lineCame s1 o k.payload (verify k.payload k.e2e)

/-- RDATA. -/
def execRdata (port : Nat) (s : State) : Res :=
  onUnit 16 port <|
    match arrivedFor s port (fun k => forHere s k && k.typ == tRDATA) with
    | none => .next s
    | some k =>
      let c := takeIntact s port k
      if !c.1 then .next c.2
      else match takeData c.2 k with
      | some t => .next t
      | none => match outstandingOf s k.tag.toNat with
        | some o => match o.use_ with
          | .gatherLine _ ring entry line => .next (wakeLine s ring entry line)
          | _ => .next (wakeCache s (homeOf o))
        | none => .next s

/-- ARESULT. -/
def execAresult (port : Nat) (s : State) : Res :=
  onType tARESULT port s (fun k u =>
    match answered u k (· == tATOMIC) with
    | none => lateReply u
    | some o => setReplyOf u o.tag (.data (slice k.payload 0 8) .good))

/-! ### STATUS -/

/-- An atomic whose outcome is unknown: rd gets 0x7FC0_0BAD_7FC0_0BAD, and the tile stops (R256, R259). -/
def unknownAtomic (s : State) (id : Nat) : State :=
  match reqOf s id with
  | none => s
  | some r =>
    let s1 := closeReq s id
    match r.issuer with
    | .thread t k =>
      let th := (s1.tile t).thread k
      let s2 := match th.wait with
        | .reply _ rd _ _ => s1.setThread t k ((wakeThread s th).setReg rd 0x7FC00BAD7FC00BAD)
        | _ => s1
      raiseAt s2 (.thread t k) 0x0402 0 r.addr
    | who => raiseAt s1 who 0x0402 0 r.addr

/-- A refused posted request reaches its issuer (R263): a running tile stops, a descriptor's copy fails, a partner copy
ends; a refusal that finds its issuer gone is only logged. -/
def postedRefused (s : State) (k : Packet) (code : Nat) : State :=
  let n := k.tag.toNat - 2 ^ 23
  let data := dataAddr 0 k.src.toNat
  if n < 2 ^ 12 then
    (let t := n % 2 ^ 11
     if (s.tile t).trun = 1 ∨ (s.tile t).trun = 2 then engineRaise s t code 0 1 data
     else record s { code := code, unit := unitTile t, kind := 1, data := data })
  else if 2 ^ 16 ≤ n ∧ n < 2 ^ 16 + 32 then
    (match runningDesc s (n - 2 ^ 16) (fun r => match r with | .cover _ _ _ => true | _ => false) with
     | some d => failDesc s (n - 2 ^ 16) d code 0 1 data
     | none => ringRaise s (n - 2 ^ 16) code 0 1 data)
  else if 2 ^ 17 < n then partnerRefused s (n - 2 ^ 17 - 1)
  else record s { code := code, unit := unitHost, kind := 1, data := data }

/-- A status for an outstanding request. -/
def statusFor (s : State) (o : Outstanding) (code : Nat) : State :=
  let free := freeOutstanding s o.tag
  match o.use_ with
  | .request id =>
    if code = 0x0402 then unknownAtomic s id
    else if code = 0x040C ∧ o.packet.typ = tCREAD then
      { s with fab := { s.fab with outstanding := s.fab.outstanding.map fun q => if q.tag == o.tag then { q with busy := true } else q } }
    else setReplyOf s o.tag (.refused (BitVec.ofNat 16 code))
  | .copyLine _ _ =>
    if code = 0x040C ∧ o.packet.typ = tCREAD then
      { s with fab := { s.fab with outstanding := s.fab.outstanding.map fun q => if q.tag == o.tag then { q with busy := true } else q } }
    else setReplyOf s o.tag (.refused (BitVec.ofNat 16 code))
  | .gatherLine _ ring entry line => gatherRefused free ring entry line code
  | .sprep ring dev => tookPrepare free ring dev (BitVec.ofNat 16 code)
  | .scommit key dev => tookCommit free key dev (BitVec.ofNat 16 code)
  | .squery src ring pitch => tookQuery free src ring pitch (BitVec.ofNat 16 code)
  | .inval region dev => invalAnswered free region dev
  | .recall ring region =>
    regionEnded (if code = 0 then free else ringRaise free ring code 0 2 (dataDevs [o.packet.dst.toNat])) ring region code
      (detailDevs [o.packet.dst.toNat])
  | .publish _ => if code = 0 then free else note free code 0 unitHost
  | .copyRead _ _ | .waitRead _ => setReplyOf s o.tag (.refused (BitVec.ofNat 16 code))

/-- A STATUS for this part, but for an answer to SPREP, which is a command of its own. -/
def plainStatus (s : State) (k : Packet) : Bool :=
  forHere s k && k.typ == tSTATUS && (match tagUse s k with | some (.sprep _ _) => false | _ => true)

/-- STATUS. -/
def execStatus (port : Nat) (s : State) : Res :=
  onArrived port s (plainStatus s)
    (fun k u =>
      let code := field k.payload 0 2
      if k.tag.toNat ≥ 2 ^ 23 then postedRefused u k code
      else match answered u k (fun _ => true) with
        | none => lateReply u
        | some o => statusFor u o code)

/-! ### No reply (R259, R267) -/

/-- A poisoned line. -/
def poisonLine : Bytes := (List.range 32).flatMap (fun _ => leBytes 4 0x7FC00BAD)

/-- The unit that holds a request: the fabric agent of a compute die, or the host die for the command processor. -/
def agentUnit (s : State) (o : Outstanding) : W16 :=
  match o.use_ with
  | .request id => unitCompute ((((reqOf s id).bind (fun r => issuerTile r.issuer)).getD 0) / 96)
  | .copyLine t _ => unitCompute (t / 96)
  | .gatherLine die _ _ _ => unitCompute die
  | _ => unitHost

/-- LOAD_TIMEOUT_EXPIRE: a read brings poison and FLT_TARGET_DEAD, an atomic an unknown outcome. -/
def execLoadTimeoutExpire (tag : Nat) (s : State) : Res :=
  match outstandingOf s tag with
  | none => .next s
  | some o =>
    let typ := o.packet.typ
    if o.reply ≠ .none ∨ s.passed o.entered s.fab.loadTo.toNat = false then .next s
    else if typ = tREAD ∨ typ = tCREAD then
      let dst := o.packet.dst.toNat
      let s1 := noteOnce s (4096 + dst) { code := 0x0401, unit := agentUnit s o, kind := 1, data := dataAddr (mkAddr dst (bits o.packet.addr.toNat 51 48) (bits o.packet.addr.toNat 47 0)) }
      (match lineCame s1 o poisonLine .poison with
       | some t => .next t
       | none => match o.use_ with
         | .gatherLine _ ring entry line => .next (wakeLine s ring entry line)
         | _ => .next s)
    else if typ = tATOMIC then
      (match o.use_ with
       | .request id => .next (unknownAtomic s id)
       | _ => .next (freeOutstanding s tag))
    else .next s

/-- The ring pair for whose launch a read was made. -/
def readRing (s : State) (o : Outstanding) : Option Nat :=
  match o.use_ with
  | .request id => ((reqOf s id).bind (fun r => issuerTile r.issuer)).bind (tileRing s)
  | .copyLine t _ => tileRing s t
  | .gatherLine _ ring _ _ => some ring
  | _ => none

/-- A request that a thread made is, under its new sequence, one of its set (R252). -/
def noteThread (s : State) (o : Outstanding) : State :=
  match o.use_ with
  | .request id => match reqOf s id with | some r => noteAway s r | none => s
  | _ => s

/-- CREAD_ABANDON: a CREAD answered busy, or silent for 200 µs since it was sent, gives way to a plain READ, whose data is not installed. -/
def execCreadAbandon (tag : Nat) (s : State) : Res :=
  match outstandingOf s tag with
  | none => .next s
  | some o =>
    ifDue (o.packet.typ == tCREAD && o.reply == .none && (o.busy || (wasSent s o && s.passed o.sentAt 200))) s <|
      let dst := o.packet.dst.toNat
      let line := mkAddr dst 0 (bits o.packet.addr.toNat 47 0)
      let ring := readRing s o
      let s1 := freeOutstanding s tag
      noteThread (noteMember (openRequest s1 dst o.use_ (memberFields s1 ring true (requestPacket tREAD line []))) ring dst false) o

end Sys2Proof.Machine
end

