-- ==== Sys2Proof/Machine/CopyDesc.lean ====
section
/-! DEFINITION. The COPY descriptor (R335, R338), failed host reads (R464), and row repair (R210, R211). -/

namespace Sys2Proof.Machine

/-! ### Control space (R338) -/

/-- The number of a pitch state (R351). -/
def pstate : PitchPhase → Nat
  | .none => 0
  | .open => 1
  | .stopping => 2
  | .preparing => 3
  | .committing => 4

/-- The 64 bytes of a ring pair's pitch status. -/
def pitchStatus (s : State) (ring : Nat) : Bytes :=
  let p := (s.ring ring).pitch
  let n := ((stageOf s (localKey s ring)).map (fun g => g.blocks.length)).getD 0
  layout 64 [(0, 1, pstate p.phase), (1, 1, p.attempt), (2, 2, p.id.toNat), (4, 4, n), (8, 4, p.participants.length),
    (12, 4, p.nfCount.toNat), (16, 4, p.satCount.toNat)]

/-- One sample of the time base. -/
def timeBytes (s : State) : Bytes := layout 16 [(0, 8, s.ns), (8, 2, s.time.now % 2 ^ 32 / 2 ^ 16)]

/-- Bytes of control space. -/
def controlBytes (s : State) (off len : Nat) : Bytes :=
  let o := off % 2 ^ 44
  match off / 2 ^ 44 with
  | 0 => slice (leBytes 4 (s.counter (bits off 34 24) (bits off 9 2)).toNat) (off % 4) len
  | 1 => slice (timeBytes s) o len
  | _ => slice ((List.range 32).flatMap (pitchStatus s)) o len

/-! ### The lines of a COPY -/

/-- How far a COPY has come: bytes written, the fault that ends it and where, and the first poisoned line. -/
structure CopyGo where
  st     : State
  done   : Nat := 0
  fault  : Nat := 0
  detail : Nat := 0
  at_    : W64 := 0
  poison : Option W64 := none

/-- The address lies in a host's memory. -/
def hostSpace (a : W64) : Bool := addrSpace a == 3 || addrSpace a == 4

/-- `n` source bytes from `a`: the fault and its detail, the bytes, their state, and the state after. Lines from outside
the part are given from line number `base` of the source on. -/
def copyFetch (s : State) (ring base : Nat) (a : W64) (n : Nat) (outside : List OutsideLine) : Nat × Nat × Bytes × LineState × State :=
  let off := addrOff a
  let sp := addrSpace a
  if sp = 8 then (0, 0, controlBytes s off n, .good, s)
  else if isOwn s a ∧ hostSpace a = false then
    let code := refusal s (.ring ring) .read none sp off n
    if code ≠ 0 then (code, 0, [], .good, s)
    else
      let m := memRead' s (if sp = 0 then (ringView s ring).map (localKey s) else none) sp off n false
      (0, 0, m.1, m.2.1, m.2.2)
  else
    let ls := (unitsOf 128 off n).map (fun u => outside.getD (u - base) ⟨zeros 128, .good⟩)
    let b := slice (ls.flatMap (fun l => slice l.data 0 128)) (off % 128) n
    let st := ls.foldl (fun k l => worse k l.state) LineState.good
    if hostSpace a ∧ st ≠ .good then
      (0x0205, 2, [], .good, record s { code := 0x0205, detail := 5, unit := unitHost, kind := 1, data := dataAddr a })
    else (0, 0, b, st, s)

/-- Write bytes within one destination line: the fault and its detail, and the state after (R430, R432). -/
def copySink (s : State) (ring : Nat) (a : W64) (b : Bytes) (st : LineState) : Nat × Nat × State :=
  let sp := addrSpace a
  let off := addrOff a
  let bad := st == .markedBad || st == .mismatch
  if hostSpace a then
    (if bad then 0x0205 else 0, if bad then 4 else 0, s.emit (.hostWrite (sp - 3) (mkAddr 0 0 off) b (st != .good) true))
  else if isOwn s a then
    if sp = 1 ∧ bad = true then (0x0205, if st = .markedBad then 2 else 1, s)
    else if st = .mismatch then (0x0205, 3, s)
    else
      let key := if sp = 0 then (ringView s ring).map (localKey s) else none
      let code := refusal s (.ring ring) .write key sp off b.length
      if code ≠ 0 then (code, 0, s) else (0, 0, memWrite' s key sp off b bad)
  else
    let lo := a.toNat % 128
    (0, 0, sendWrite s (.ring ring) (some ring) (a &&& ~~~127#64) ((2 ^ b.length - 1) * 2 ^ lo) (splice (zeros 128) lo b) (if bad then st else .good))

/-- Copy the part of a destination line: `outside` starts at line `base` of the source. -/
def copyPiece (ring base : Nat) (src dst : W64) (outside : List OutsideLine) (g : CopyGo) (piece : Nat × Nat) : CopyGo :=
  if g.fault ≠ 0 then g
  else
    let k := piece.1 - addrOff dst
    let a := src + BitVec.ofNat 64 k
    let f := copyFetch g.st ring base a piece.2 outside
    if f.1 ≠ 0 then { g with st := f.2.2.2.2, fault := f.1, detail := f.2.1, at_ := a }
    else
      let w := copySink f.2.2.2.2 ring (dst + BitVec.ofNat 64 k) f.2.2.1 f.2.2.2.1
      if w.1 ≠ 0 then { g with st := w.2.2, fault := w.1, detail := w.2.1, at_ := if w.1 = 0x0205 then a else dst + BitVec.ofNat 64 k }
      else { g with
        st := w.2.2, done := g.done + piece.2
        poison := if g.poison.isNone && f.2.2.2.1 == .poison then some (a &&& ~~~127#64) else g.poison }

/-- The read that a COPY makes of a host's memory. -/
def copyReads (s : State) (src : W64) (n : Nat) : State :=
  if hostSpace src then s.emit (.hostRead (addrSpace src - 3) (mkAddr 0 0 (addrOff src)) n false) else s

/-- The memory on this part that a run of a COPY needs is awake. -/
def copyReady (s : State) (a : W64) (n : Nat) : Bool :=
  !(isOwn s a && decide (addrSpace a ≤ 1)) || unitReady s (addrSpace a) (addrOff a) n

/-- Wake it. -/
def copyWake (s : State) (a : W64) (n : Nat) : State :=
  if isOwn s a && decide (addrSpace a ≤ 1) then wakeUnit s (addrSpace a) (addrOff a) n else s

/-- `DETAIL` of a COPY. -/
def copyDetail (done : Nat) (a : W64) : Bytes := detailOf [(16, 8, done), (24, 8, a.toNat)]

/-- Every byte of a COPY is written: remote ones wait for their acknowledgement, then the signal is applied. -/
def copyWritten (g : CopyGo) (ring : Nat) (d : Desc) : State :=
  let dst := opndAddr d 16
  let remote := opnd d 24 8 != 0 && !hostSpace dst && !isOwn g.st dst
  let fault := if g.poison.isSome then 0x0401 else 0
  let s1 := modDesc g.st ring d.index (fun x =>
    { x with fault := BitVec.ofNat 16 fault, detail := copyDetail g.done (g.poison.getD 0) })
  let cv := if remote then [coverOf s1 (addrDev dst) 0] else []
  settleRing (runDesc s1 ring d (.cover cv (opnd d 32 8 != 0) s1.clk)) ring

/-- A COPY ends: with its fault, or as its writes are acknowledged. -/
def copyEnds (g : CopyGo) (ring : Nat) (d : Desc) : State :=
  if g.fault ≠ 0 then failDesc (dropReads g.st ring) ring d g.fault g.detail 1 (dataAddr g.at_) (copyDetail g.done g.at_)
  else copyWritten g ring d

/-! ### A COPY from another part -/

/-- The COPY of a ring pair that reads from another part. -/
def runningCopy (s : State) (ring : Nat) : Option Desc := runningDesc s ring (fun r => match r with | .copying _ _ _ _ => true | _ => false)

/-- Ask for up to `n` more source lines, in rising order. -/
def askLines : (n ring : Nat) → State → State
  | 0, _, s => s
  | n + 1, ring, s =>
    match runningCopy s ring with
    | some d =>
      match d.run with
      | .copying asked landed done p =>
        let src := opndAddr d 8
        if asked ≥ (unitsOf 128 (addrOff src) (opnd d 24 8)).length ∨ openCount s ≥ 2 ^ 23 then s
        else
          let l := addrOff src / 128 + asked
          let line := mkAddr (addrDev src) (addrSpace src) (l * 128)
          if !cacheReady s line then wakeCache s line
          else askLines n ring (askLine (runDesc s ring d (.copying (asked + 1) landed done p)) ring (.copyRead ring l) line)
      | _ => s
    | none => s

/-- The answer to a source line, when it has come. -/
def lineAnswer (s : State) (ring line : Nat) : Option Reply :=
  (s.fab.outstanding.find? (fun o => o.use_ == .copyRead ring line && o.reply != .none)).map (·.reply)

/-- Destination line `i` of a run of `n` bytes: its first byte and how many it takes. -/
def linePiece (off n i : Nat) : Nat × Nat :=
  let lo := max off ((off / 128 + i) * 128)
  (lo, min (off + n) ((off / 128 + i + 1) * 128) - lo)

/-- The fault of a refused line, or the lines. -/
def answersOf (rs : List Reply) : Nat × List OutsideLine :=
  (rs.foldl (fun k r => match r with | .refused c => if k = 0 then c.toNat else k | _ => k) 0,
   rs.filterMap (fun r => match r with | .data b st => some ⟨b, st⟩ | _ => none))

/-- Land up to `n` destination lines, in rising order, as far as their source lines have come; the last ends the COPY. -/
def landLines : (n ring : Nat) → State → State
  | 0, _, s => s
  | n + 1, ring, s =>
    match runningCopy s ring with
    | some d =>
      match d.run with
      | .copying asked landed done p =>
        let src := opndAddr d 8
        let dst := opndAddr d 16
        let piece := linePiece (addrOff dst) (opnd d 24 8) landed
        let a := src + BitVec.ofNat 64 (piece.1 - addrOff dst)
        let ls := unitsOf 128 (addrOff a) piece.2
        let rs := ls.map (lineAnswer s ring)
        if rs.any (·.isNone) then s
        else if !copyReady s (dst + BitVec.ofNat 64 (piece.1 - addrOff dst)) piece.2 then
          copyWake s (dst + BitVec.ofNat 64 (piece.1 - addrOff dst)) piece.2
        else
          let x := answersOf (rs.filterMap id)
          if x.1 ≠ 0 then copyEnds { st := s, done := done, fault := x.1, at_ := a } ring d
          else
            let used := (addrOff a + piece.2) / 128
            let s1 := { s with fab := { s.fab with outstanding := s.fab.outstanding.filter (fun o =>
              match o.use_ with | .copyRead r l => r != ring || decide (used ≤ l) | _ => true) } }
            let g := copyPiece ring (addrOff a / 128) src dst x.2 { st := s1, done := done, poison := p } piece
            if g.fault ≠ 0 ∨ g.done ≥ opnd d 24 8 then copyEnds { g with st := dropReads g.st ring } ring d
            else landLines n ring (runDesc g.st ring d (.copying asked (landed + 1) g.done g.poison))
      | _ => s
    | none => s

/-- A COPY from another part goes on: it asks for more lines, and lands those that have come (DEDUCED, log entry 43). -/
def copyOn (s : State) (ring : Nat) : State :=
  if (s.ring ring).pitch.phase = .stopping then s else landLines 4096 ring (askLines 4096 ring s)

/-- COPY: its lines in rising order, the source bytes in the ring pair's view. From another part it goes on, command by
command, as its lines come. -/
def execCopy (ring : Nat) (outside : List OutsideLine) (s : State) : Res :=
  match runningCopy s ring with
  | some _ => onUnit 32 ring (.next (copyOn s ring))
  | none => startDesc 0x02 0 ring s (fun d u =>
      let src := opndAddr d 8
      let dst := opndAddr d 16
      let n := opnd d 24 8
      if n = 0 then copyWritten { st := u } ring d
      else if !copyReady s src n then copyWake s src n
      else if !copyReady s dst n then copyWake s dst n
      else if isOwn u src = false ∧ hostSpace src = false ∧ addrSpace src ≠ 8 then
        copyOn (runDesc u ring d (.copying 0 0 0 none)) ring
      else
        copyEnds ((piecesOf 128 (addrOff dst) n).foldl (copyPiece ring (addrOff src / 128) src dst outside)
          { st := copyReads u src n }) ring d)

/-! ### Failed host reads (R464) -/

/-- A doorbell poll fails: it is skipped until the next is due. -/
def pollFails (host : Nat) (s : State) : Res :=
  onUnit 2 host <|
    if activeRings s host = [] ∨ s.clk < tget s.cmd.polled host 0 then .next s
    else .next (note { s with cmd := { s.cmd with polled := tset s.cmd.polled host (s.clk + s.cmd.watch.toNat * usec) } } 0x0B04 1 unitHost)

/-- A descriptor fetch fails: the ring pair stops. -/
def fetchFails (ring : Nat) (s : State) : Res :=
  onUnit 32 ring <| ifDue ((s.ring ring).phase == .active && (s.ring ring).tail != (s.ring ring).head) s (stopRing s ring 0x0B04 2)

/-- A WAIT on a host's word, or else the COPY from a host's memory that starts next, loses its read. -/
def descReadFails (ring : Nat) (s : State) : Res :=
  match runningDesc s ring (fun r => match r with | .wait _ _ _ => true | _ => false) with
  | some d => onUnit 32 ring (ifDue (hostSpace (opndAddr d 8)) s (failDesc s ring d 0x0B03 0 1 (dataAddr (opndAddr d 8))
      (waitDetail (match d.run with | .wait _ _ last => last | _ => 0))))
  | none => startDesc 0x02 0 ring s (fun d u =>
      if opnd d 24 8 ≠ 0 ∧ hostSpace (opndAddr d 8) = true then
        failDesc u ring d 0x0B03 0 1 (dataAddr (opndAddr d 8)) (copyDetail 0 (opndAddr d 8))
      else s)

/-- A thread's load from a host loses its read. -/
def threadReadFails (tile slot : Nat) (s : State) : Res :=
  onSlot tile slot <|
    match ((s.tile tile).thread slot).wait with
    | .reply id _ _ _ =>
      match reqOf s id with
      | some r => ifDue (hostSpace r.addr && r.reply == .none) s (raiseAt (closeReq s id) (.thread tile slot) 0x0B03 0 r.addr)
      | none => .next s
    | _ => .next s

/-- A copy from a host loses a read: it completes with the fault. -/
def copyReadFails (tile copy : Nat) (s : State) : Res :=
  onTile tile <|
    match copyOf s tile copy with
    | some c =>
      let a := match c.todo with | e :: _ => (linePart c.block e.1 e.2).src | [] => c.block.src
      ifDue (!c.block.fill && hostSpace c.block.src && !c.todo.isEmpty) s
        (finishCopy s tile { c with faddr := a } 0x0B03 0 1 (dataAddr a))
    | none => .next s

/-- HOST_READ_FAILURE. -/
def execHostReadFailure (who : HostReader) (s : State) : Res :=
  match who with
  | .doorbell host => pollFails host s
  | .fetch ring => fetchFails ring s
  | .descriptor ring => descReadFails ring s
  | .thread tile slot => threadReadFails tile slot s
  | .copy tile copy => copyReadFails tile copy s

/-! ### Row repair (R210, R211) -/

/-- The number of a row of the part. -/
def rowKey (pc bank row : Nat) : Nat := pc * 2 ^ 21 + bank * 2 ^ 15 + row

/-- Spare rows of a bank, as its stack told at training. -/
def spareRows (s : State) (pc bank : Nat) : Nat := tget s.hbm.spares (pc * 64 + bank) 0

/-- Read a granule of the row into the holding buffer: one that cannot be decoded is kept as read, with `CHKBAD` (R210). -/
def holdGranule (r : List (Bytes × Bool) × List Decoded × State) (g : Nat) : List (Bytes × Bool) × List Decoded × State :=
  let m := readPlace r.2.2 ((logicalOf r.2.2 g).getD 0) g
  (r.1 ++ [(m.1, m.2.1 != .good)], r.2.1 ++ [m.2.2.1], m.2.2.2)

/-- MEM_REPAIR: the row is held and its pseudo-channel blocked. A second repair waits for the first, and a repair waits for a
stack that takes no traffic. -/
def execMemRepair (ring : Nat) (s : State) : Res :=
  startDesc 0x2A 0 ring s (fun d u =>
    let pc := opnd d 8 2
    let bank := opnd d 10 1
    let row := opnd d 12 4
    let unit := unitStack (pc / 32)
    let refuse (code detail : Nat) : State := doneDesc (record u { code := code, detail := detail, unit := unit }) ring d code (zeros 16)
    if launchRunning s || anyPitch s then refuse 0x0308 0
    else if s.hbm.repaired.contains (rowKey pc bank row) then refuse 0x0302 1
    else if spareRows s pc bank = 0 then refuse 0x0302 2
    else if s.hbm.repair.isSome || s.hbm.commit.isSome || !(rowGranules pc bank row).all (placeReady s) then
      (rowGranules pc bank row).foldl callStack s
    else
      let r := (rowGranules pc bank row).foldl holdGranule ([], [], u)
      let w := decodeEffects r.2.2 false r.2.1
      runDesc { w with hbm := { w.hbm with repair := some ⟨ring, pc, bank, row, r.1⟩ } } ring d .repair)

/-- Write one held granule back, with a fresh code, and `CHKBAD` where it could not be read. -/
def putHeld (s : State) (g : Nat) (b : Bytes × Bool) : State :=
  { s with hbm := { s.hbm with
    mem := memWrite zeroByte s.hbm.mem (g * 256) b.1
    marks := if b.2 then tset s.hbm.marks g { chkBad := true } else tdel s.hbm.marks g
    writeback := s.hbm.writeback.filter (· != g), logged := s.hbm.logged.filter (· != g) } }

/-- MEM_REPAIR_COMPLETE. -/
def execMemRepairComplete (s : State) : Res :=
  match s.hbm.repair with
  | none => .next s
  | some r =>
    let s1 := ((rowGranules r.pc r.bank r.row).zip r.held).foldl (fun u e => putHeld u e.1 e.2) s
    let s2 := { s1 with hbm := { s1.hbm with
      repair := none, repaired := rowKey r.pc r.bank r.row :: s1.hbm.repaired
      spares := tset s1.hbm.spares (r.pc * 64 + r.bank) (spareRows s1 r.pc r.bank - 1) } }
    .next (match runningDesc s2 r.ring (fun x => x == .repair) with
      | some d => doneDesc s2 r.ring d 0 (zeros 16)
      | none => s2)

end Sys2Proof.Machine
end

