-- ==== Sys2Proof/Machine/Security.lean ====
section
/-! DEFINITION. Security (chapter 17): what boot verifies, the rollback floor, measurements, attestation, debug unlock
and the flash window. -/

namespace Sys2Proof.Machine

/-! ### Board flash (R448, R449) -/

/-- Bytes of the flash. -/
def flashBytes (s : State) (a n : Nat) : Bytes := memRead erasedByte s.sec.flash a n

/-- Start of a firmware slot. -/
def slotBase (b : Bool) : Nat := if b then 0x2000000 else 0

/-- Start of a copy of the configuration blob. -/
def blobBase (k : Nat) : Nat := 0x4000000 + k * 0x1000

/-- The certificate's place and the helper data's. -/
def certBase : Nat := 0x4010000
def helperBase : Nat := 0x4020000

/-- Image entry i of a manifest. -/
def imageEntry (m : Bytes) (i : Nat) : Bytes := slice m (16 + 48 * i) 48

/-- The entry of an image type. -/
def entryOfType (m : Bytes) (t : Nat) : Bytes := (((List.range 6).map (imageEntry m)).find? (fun e => field e 0 1 == t)).getD (zeros 48)

/-- An entry is well formed: reserved bytes zero, the image aligned and within its slot. -/
def entryOk (e : Bytes) : Bool :=
  allZero e 1 1 && allZero e 6 2 && decide (field e 8 4 % 4096 = 0) && decide (4096 ≤ field e 8 4) && decide (1 ≤ field e 12 4) &&
    decide (field e 12 4 ≤ 2 ^ 24) && decide (field e 8 4 + field e 12 4 ≤ 2 ^ 25)

/-- A manifest is well formed. -/
def manifestOk (m : Bytes) : Bool :=
  field m 0 1 == 1 && field m 1 1 == 6 && allZero m 2 2 && allZero m 8 8 && allZero m 368 80 &&
    (List.range 6).all (fun i => entryOk (imageEntry m i)) &&
    (List.range 6).all (fun t => (List.range 6).any (fun i => field (imageEntry m i) 0 1 == t + 1))

/-- The image of an entry. -/
def imageBytes (s : State) (slot : Bool) (e : Bytes) : Bytes := flashBytes s (slotBase slot + field e 8 4) (field e 12 4)

/-- The default identity of GB/T 35276. -/
def signerIdent : Bytes := [0x31, 0x32, 0x33, 0x34, 0x35, 0x36, 0x37, 0x38, 0x31, 0x32, 0x33, 0x34, 0x35, 0x36, 0x37, 0x38]

/-- A signature verifies under a key. -/
def signedBy (key msg sig : Bytes) : Bool := sm2Verify signerIdent key msg sig

/-! ### Boot (R450 to R452, R455) -/

/-- What trying a slot finds: the reason of R450, a floor that cannot be read, or a pass. -/
inductive SlotResult where
  | passed
  | failed (reason : Nat)
  | noFloor
  deriving DecidableEq, Repr

/-- Steps 1 to 6 on a slot. -/
def trySlot (s : State) (floorReadable slot : Bool) : SlotResult :=
  let m := flashBytes s (slotBase slot) 512
  let good (t : Nat) : Bool :=
    let e := entryOfType m t
    sm3 (imageBytes s slot e) == slice e 16 32
  if !manifestOk m then .failed 4
  else if beNat (sm3 (slice m 304 64)) ≠ Config.romVendorHash.toNat then .failed 1
  else if !signedBy (slice m 304 64) (m.take 448) (slice m 448 64) then .failed 2
  else if !floorReadable then .noFloor
  else if field m 4 4 < s.sec.floor.toNat then .failed 6
  else if (List.range 6).all (fun t => good (t + 1)) then .passed
  else .failed 3

/-- A configuration blob is well formed (R454). -/
def blobOk (b : Bytes) : Bool :=
  let ramp (n : Nat) : Bool := decide (5 ≤ n) && decide (n ≤ 5000)
  field b 0 1 == 1 && decide (field b 1 1 ≤ 1) && allZero b 2 2 && field b 8 4 != 0 && decide (1000 ≤ field b 24 2) &&
    decide (field b 24 2 ≤ 2800) && ramp (field b 26 2) && ramp (field b 28 2) && allZero b 30 2 &&
    (slice b 32 48).all (fun x => decide (x.toNat < 64)) && (slice b 80 3).all (fun x => decide (x.toNat < 128)) &&
    allZero b 83 5 && allZero b 152 296

/-- An owner is bound. -/
def ownerBound (s : State) : Bool := s.sec.owner.any (· != 0)

/-- The key that a blob must be signed by: the bound owner's, or the blob's own when no owner is bound. -/
def blobSigner (s : State) (b : Bytes) : Bytes := if ownerBound s then s.sec.ownerKey else slice b 88 64

/-- The reason of R455 for a copy; 0 when it passes. -/
def blobReason (s : State) (k : Nat) : Nat :=
  let b := flashBytes s (blobBase k) 512
  if b.all (· == 0xFF) then 1
  else if !blobOk b then 4
  else if !signedBy (blobSigner s b) (b.take 448) (slice b 448 64) then 2
  else if field b 4 4 < s.sec.floor.toNat then 6
  else 0

/-- Put an accepted blob into force, and bind its owner (R454, R455). -/
def applyBlob (s : State) (b : Bytes) : State :=
  let key := slice b 88 64
  let f := freshFabric b
  { s with
    fab := { s.fab with domain := f.domain, partner := f.partner, ports := f.ports }
    snap := { s.snap with sharedFeed := bit (field b 1 1) 0 }
    pwr := { s.pwr with
      maxCap := BitVec.ofNat 12 (field b 24 2), maxUp := BitVec.ofNat 13 (field b 26 2), maxDown := BitVec.ofNat 13 (field b 28 2)
      cap := BitVec.ofNat 12 (min 2400 (field b 24 2)), rup := BitVec.ofNat 13 (min 400 (field b 26 2))
      rdown := BitVec.ofNat 13 (min 400 (field b 28 2)) }
    sec := { s.sec with
      blob := b, bsvn := BitVec.ofNat 32 (field b 4 4), domain := BitVec.ofNat 32 (field b 8 4), feed := BitVec.ofNat 32 (field b 16 4)
      rack := BitVec.ofNat 32 (field b 20 4), coolAddr := BitVec.ofNat 24 (field b 80 3)
      owner := if sm3 key = s.sec.owner then s.sec.owner else sm3 key
      ownerKey := if sm3 key = s.sec.owner then s.sec.ownerKey else key } }

/-- A verification that fails for good: FATAL, and boot stops (R450). -/
def bootFault (s : State) (code detail : Nat) : State :=
  fatal { s with sec := { s.sec with bootFailed := true } } { code := code, detail := detail, unit := unitService }

/-- The place after the first occurrence of a run of bytes. -/
def afterRun (pat : Bytes) : Bytes → Option Bytes
  | [] => none
  | x :: r => if (x :: r).take pat.length = pat then some ((x :: r).drop pat.length) else afterRun pat r

/-- The certificate's 4 KiB, and its length by the DER header. -/
def certBytes (s : State) : Bytes := flashBytes s certBase 4096
def certLength (s : State) : Nat :=
  let c := certBytes s
  if field c 0 1 ≠ 0x30 then 0
  else if field c 1 1 < 0x80 then 2 + field c 1 1
  else if field c 1 1 = 0x81 then 3 + field c 2 1
  else if field c 1 1 = 0x82 then 4 + field c 2 1 * 256 + field c 3 1
  else 0

/-- The certificate's public key: the point of its SubjectPublicKeyInfo. -/
def certKey (s : State) : Option Bytes := (afterRun [0x03, 0x42, 0x00, 0x04] (certBytes s)).map (·.take 64)

/-- The identity private key: derived from the seed and the text `ID`, and never 0 (R456; what the derivation hashes:
DESIGN CHOICE, log entry 14). -/
def identityKey (s : State) : Nat :=
  sm3Kdf (beBytes 32 (Config.pufSeed (flashBytes s helperBase 4096)).toNat ++ [0x49, 0x44]) % (sm2N - 1) + 1

/-- The identity public key, x then y. -/
def identityBytes (s : State) : Bytes := sm2Public (identityKey s)

/-- Versions of the images, by type. -/
def manifestVersions (m : Bytes) : List (Byte × Byte × W16) :=
  (List.range 6).map fun t =>
    let e := entryOfType m (t + 1)
    (BitVec.ofNat 8 (field e 2 1), BitVec.ofNat 8 (field e 3 1), BitVec.ofNat 16 (field e 4 2))

/-- Extend MR0 to MR5 with the images' digests. -/
def measureImages (s : State) (m : Bytes) : State :=
  (List.range 6).foldl (fun u t => extendMr u t (slice (entryOfType m (t + 1)) 16 32)) s

/-- Step 8: MR7, the registers of the running slot, and ENABLING. -/
def finishBoot (s : State) (slot : Bool) (m : Bytes) : State :=
  let s1 := extendMr s 7 (sm3 (layout 8 [(0, 1, s.pins.straps.toNat), (1, 1, b2n slot), (2, 4, s.sec.floor.toNat)]))
  { s1 with
    sec := { s1.sec with
      verified := true, slot := slot, svn := BitVec.ofNat 32 (field m 4 4), versions := manifestVersions m, vkey := slice m 304 64
      owned := ownerBound s1, certBad := certKey s1 != some (identityBytes s1) }
    pwr := { s1.pwr with phase := .enabling } }

/-- Steps 7 and 8 with a slot that has passed steps 1 to 6. -/
def bootWith (s : State) (slot : Bool) : State :=
  let m := flashBytes s (slotBase slot) 512
  let s1 := measureImages s m
  let r0 := blobReason s1 0
  let r1 := if r0 = 0 then 0 else blobReason s1 1
  let s2 := { s1 with sec := { s1.sec with reason0 := BitVec.ofNat 4 r0, reason1 := BitVec.ofNat 4 r1 } }
  if r0 = 0 ∨ r1 = 0 then
    let b := flashBytes s (blobBase (if r0 = 0 then 0 else 1)) 512
    finishBoot (extendMr (applyBlob s2 b) 6 (sm3 b)) slot m
  else if r0 = 1 ∧ r1 = 1 then
    finishBoot (extendMr { s2 with sec := { s2.sec with noCfg := true, blob := [], bsvn := 0 } } 6 (zeros 32)) slot m
  else if r0 = 6 ∧ r1 = 6 then bootFault s2 0x0A02 2
  else bootFault s2 0x0A01 2

/-- Record a slot's reason. -/
def noteReason (s : State) (slot : Bool) (r : Nat) : State :=
  if slot then { s with sec := { s.sec with reasonB := BitVec.ofNat 4 r } } else { s with sec := { s.sec with reasonA := BitVec.ofNat 4 r } }

/-- Boot may run: the service die is awake, out of reset, with its clock, no trip holds it, and it has not run yet. -/
def bootDue (s : State) : Bool :=
  s.pins.vaux && !s.pins.resetLow && !s.pins.tripLow && s.time.pllLocked && !s.sec.verified && !s.sec.bootFailed && s.pwr.phase == .off

/-- BOOT_VERIFY: slot A, then slot B. -/
def execBootVerify (floorReadable : Bool) (s : State) : Res :=
  ifDue (bootDue s) s <|
    match trySlot s floorReadable false with
    | .passed => bootWith s false
    | .noFloor => bootFault s 0x0A02 3
    | .failed a =>
      let s1 := noteReason s false a
      match trySlot s1 floorReadable true with
      | .passed => bootWith s1 true
      | .noFloor => bootFault s1 0x0A02 3
      | .failed b => bootFault (noteReason s1 true b) (if a = 6 ∧ b = 6 then 0x0A02 else 0x0A01) 1

/-! ### The rollback floor (R453) -/

/-- A refused SEC write or request. -/
def secRefused (s : State) : State := note s 0x0A04 0 unitService

/-- A write of `SFADV`. -/
def writeSfadv (s : State) (v : W32) : State :=
  let t := bits v.toNat 30 0
  if s.sec.advancing then secRefused s
  else if bit v.toNat 31 then
    (if s.sec.floor.toNat ≤ t ∧ t ≤ min s.sec.svn.toNat s.sec.bsvn.toNat then
      { s with sec := { s.sec with target := BitVec.ofNat 31 t, advancing := true, floorAhead := s.sec.fOp == .none } }
     else secRefused s)
  else { s with sec := { s.sec with target := BitVec.ofNat 31 t } }

/-- SFADV_GO. -/
def execSfadvGo (host : Nat) (value : W32) (s : State) : Res := setupWrite host s (writeSfadv s (value ||| 0x80000000#32))

/-- FLOOR_ADVANCE_COMPLETE: the counter equals `TARGET`. A flash operation accepted before goes first. -/
def execFloorAdvanceComplete (s : State) : Res :=
  ifDue (s.sec.advancing && (s.sec.floorAhead || s.sec.fOp == .none)) s
    { s with sec := { s.sec with floor := s.sec.target.zeroExtend 32, advancing := false, floorAhead := false } }

/-- Power is lost while the counter rises: it stands between its old value and `TARGET`, at a free value. -/
def floorInterrupted (s : State) : State :=
  if s.sec.advancing then
    let d := s.draw
    { d.2 with sec := { s.sec with
      floor := BitVec.ofNat 32 (s.sec.floor.toNat + d.1.toNat % (s.sec.target.toNat - s.sec.floor.toNat + 1))
      advancing := false, floorAhead := false } }
  else s

/-! ### Attestation (R458, R459) -/

/-- Bytes of eight or more 32-bit words. -/
def wordBytes (ws : List W32) : Bytes := ws.flatMap (fun w => leBytes 4 w.toNat)

/-- The report's first 768 bytes, all from one moment. -/
def reportBody (s : State) (nonce : Bytes) : Bytes :=
  let v := (List.range 6).flatMap fun i =>
    let e := s.sec.versions.getD i (0, 0, 0)
    [e.1, e.2.1] ++ leBytes 2 e.2.2.toNat
  let head := layout 16
    [(0, 1, 1), (1, 1, b2n s.job.locked + 2 * b2n s.sec.debug + 4 * b2n s.sec.noCfg + 8 * b2n s.sec.certBad),
     (2, 2, s.fab.devNum.toNat + 0x8000 * b2n s.fab.devValid), (4, 4, s.sec.floor.toNat), (8, 8, s.ns)]
  head ++ slice nonce 0 32 ++ identityBytes s ++ v ++ leBytes 8 s.job.jepoch.toNat ++ leBytes 16 s.job.digest.toNat ++
    leBytes 4 s.sec.domain.toNat ++ leBytes 4 s.sec.feed.toNat ++ leBytes 4 s.sec.rack.toNat ++ zeros 20 ++
    (List.range 16).flatMap (fun m => slice (s.sec.mr.getD m []) 0 32) ++ slice s.sec.owner 0 32 ++ zeros 32

/-- The service die is awake and out of reset. -/
def awake (s : State) : Bool := s.pins.vaux && !s.pins.resetLow

/-- The management core serves requests of an endpoint: over SMBus from VAUX onward, over PCI Express on a port whose
link is up (R461). -/
def managed (s : State) (via : Endpoint) : Bool :=
  awake s && (match via with | .smbus => true | .vdm p => decide (p < 2) && (s.hport p).up)

/-- A request for a report is refused while one is in progress or four queue (R459). -/
def reportRefused (s : State) : Bool := s.sec.attBusy || decide (s.sec.attests.length ≥ 4)

/-- A write of `SATT.GO`: at most four requests queue. -/
def requestReport (s : State) (host : Nat) : State :=
  if reportRefused s then secRefused s
  else
    let a : W64 := BitVec.ofNat 64 (s.sec.attLo.toNat + s.sec.attHi.toNat * 2 ^ 32)
    { s with sec := { s.sec with attBusy := true, attests := s.sec.attests ++ [⟨.host host a, reportBody s (wordBytes s.sec.nonce)⟩] } }

/-- SATT_GO. -/
def execSattGo (host : Nat) (s : State) : Res := setupWrite host s (requestReport s host)

/-- ATTEST over management; the report goes back to the endpoint it came through. -/
def execAttest (nonce : Bytes) (s : State) (via : Endpoint := .smbus) : Res :=
  ifDue (managed s via) s <|
    if s.sec.attests.length ≥ 4 then secRefused s
    else { s with sec := { s.sec with attests := s.sec.attests ++ [⟨.management via, reportBody s nonce⟩] } }

/-- The report leaves: to the host, when its port is up, with its event, or over management. -/
def deliverReport (s : State) (a : Attest) (report : Bytes) : State :=
  match a.for_ with
  | .management via => if managed s via then s.emit (.management via 0x04 report) else s
  | .host p addr =>
    let s1 := { s with sec := { s.sec with attBusy := false } }
    if (s.hport p).up then
      let s2 := ({ s1 with sec := { s1.sec with attDone := true, doneAt := some s.clk } }).emit (.hostWrite p addr report false false)
      if (s.hport p).secEn then vectorEvent s2 p (s.hport p).secV.toNat else s2
    else s1

/-- The signature of a report by the identity key, with the number k that this signing draws (R458). -/
def reportSignature (s : State) (body : Bytes) : Bytes :=
  sm2Sign signerIdent (identityKey s) ((Config.signNonce s.free).toNat % (sm2N - 1) + 1) body

/-- ATTEST_REPORT_COMPLETE: the oldest request is signed. -/
def execAttestReportComplete (s : State) : Res :=
  match s.sec.attests with
  | [] => .next s
  | a :: rest =>
    ifDue (awake s) s <|
      deliverReport { s with free := s.free + 1, sec := { s.sec with attests := rest } } a (a.body ++ reportSignature s a.body)

/-! ### Measurement by the host (R457) -/

/-- An extension is in progress in the control cycle that started it (DESIGN CHOICE, log entry 123). -/
def extending (s : State) : Bool := s.sec.extAt == some s.clk

/-- A write of `SMRX`, refused while an extension is in progress (R462). -/
def writeSmrx (s : State) (v : W32) : State :=
  let k := bits v.toNat 3 0
  if extending s || decide (k < 10) then secRefused s
  else
    let s1 := { s with sec := { s.sec with mrIndex := BitVec.ofNat 4 k } }
    if bit v.toNat 31 then extendMr { s1 with sec := { s1.sec with extAt := some s.clk } } k (wordBytes s.sec.mrd) else s1

/-- SMRX_GO. -/
def execSmrxGo (host : Nat) (value : W32) (s : State) : Res := setupWrite host s (writeSmrx s (value ||| 0x80000000#32))

/-! ### Debug unlock (R460) -/

/-- The condition of R460 that a token fails, 1 to 5; 0 when it is accepted. -/
def tokenDetail (s : State) (t : Bytes) : Nat :=
  let bound := ownerBound s
  if !(field t 0 1 == 1 && decide (field t 1 1 < 8) && allZero t 2 6 && allZero t 200 56 && (bound || allZero t 136 64)) then 1
  else if slice t 8 32 ≠ sm3 (identityBytes s) ∨ slice t 40 32 ≠ beBytes 32 s.sec.challenge.toNat then 2
  else if !signedBy s.sec.vkey (slice t 0 72) (slice t 72 64) then 3
  else if bound && !signedBy s.sec.ownerKey (slice t 0 136) (slice t 136 64) then 4
  else if s.job.locked then 5 else 0

/-- A fresh challenge. -/
def newChallenge (s : State) : State :=
  { s with free := s.free + 1, sec := { s.sec with challenge := Config.challenge s.free } }

/-- Attempt an unlock: the detail, and the state with a fresh challenge. -/
def tryUnlock (s : State) (t : Bytes) : Nat × State :=
  let k := tokenDetail s t
  if k = 0 then
    let s1 := extendMr s 9 (sm3 (slice t 0 256))
    (0, newChallenge { s1 with sec := { s1.sec with debug := true, scopes := s1.sec.scopes ||| BitVec.ofNat 8 (field t 1 1) } })
  else (k, newChallenge (note s 0x0A03 k unitService))

/-- SDGO_GO: the token is read from host memory and comes with the command. -/
def execSdgoGo (host : Nat) (token : Bytes) (s : State) : Res :=
  setupWrite host s
    (tryUnlock (s.emit (.hostRead host (BitVec.ofNat 64 (s.sec.dtLo.toNat + s.sec.dtHi.toNat * 2 ^ 32)) 256 false)) token).2

/-- UNLOCK over management: the answer is 0 or the detail. -/
def execUnlock (token : Bytes) (s : State) (via : Endpoint := .smbus) : Res :=
  ifDue (managed s via) s ((tryUnlock s token).2.emit (.management via 0x06 [BitVec.ofNat 8 (tryUnlock s token).1]))

/-! ### The flash window (R451, R462) -/

/-- Two runs of bytes meet. -/
def runsMeet (a n b m : Nat) : Bool := decide (a < b + m) && decide (b < a + n)

/-- A write or erase there is refused: the running slot, the certificate, the helper data. -/
def flashGuarded (s : State) (a n : Nat) : Bool :=
  runsMeet a n (slotBase s.sec.slot) (2 ^ 25) || runsMeet a n certBase 4096 || runsMeet a n helperBase 4096

/-- A write of `SFCMD`: one operation at a time, on the address as it stands now. -/
def writeSfcmd (s : State) (op : Nat) : State :=
  let a := s.sec.fAddr.toNat
  let start (o : FlashOp) (at_ : Nat) : State := { s with sec := { s.sec with fOp := o, fOpAddr := BitVec.ofNat 27 at_ } }
  if s.sec.fOp ≠ .none then secRefused s
  else match op with
    | 1 => if flashGuarded s (a / 65536 * 65536) 65536 then secRefused s else start .erase (a / 65536 * 65536)
    | 2 => if flashGuarded s a 4096 then secRefused s else start .program a
    | 3 => start .read a
    | _ => s

/-- SFCMD_ERASE. -/
def execSfcmdErase (host : Nat) (s : State) : Res := setupWrite host s (writeSfcmd s 1)

/-- SFCMD_PROGRAM. -/
def execSfcmdProgram (host : Nat) (s : State) : Res := setupWrite host s (writeSfcmd s 2)

/-- SFCMD_READ. -/
def execSfcmdRead (host : Nat) (s : State) : Res := setupWrite host s (writeSfcmd s 3)

/-- The 4 KiB of `SFBUF`. -/
def bufferBytes (s : State) : Bytes := (List.range 1024).flatMap (fun i => leBytes 4 (tget s.sec.fBuf i 0).toNat)

/-- The effect of the operation in progress: programming clears bits only. -/
def finishFlash (s : State) : State :=
  let a := s.sec.fOpAddr.toNat
  let c := s.sec
  match c.fOp with
  | .none => s
  | .erase => { s with sec := { c with fOp := .none, flash := memClear c.flash a 65536 } }
  | .program => { s with sec := { c with
      fOp := .none, flash := memWrite erasedByte c.flash a (List.zipWith (· &&& ·) (flashBytes s a 4096) (bufferBytes s)) } }
  | .read => { s with sec := { c with
      fOp := .none
      fBuf := (List.range 1024).map (fun i => (i, BitVec.ofNat 32 (leNat (flashBytes s (a + 4 * i) 4)))) } }

/-- FLASH_OP_COMPLETE: a floor advance accepted before goes first. -/
def execFlashOpComplete (s : State) : Res := ifDue (s.sec.fOp != .none && !(s.sec.advancing && s.sec.floorAhead)) s (finishFlash s)

end Sys2Proof.Machine
end

