-- ==== Sys2Proof/Machine/Registers.lean ====
section
/-! DEFINITION. Reading the set-up registers (R4, R5, R474): the value at each BAR0 offset, block by block, and what a
read of an RC field clears. Reserved offsets and bits read as zero. -/

namespace Sys2Proof.Machine

/-- A register from (lowest bit, value) fields. -/
def regOf (fs : List (Nat × Nat)) : Nat := fs.foldl (fun n f => n + f.2 * 2 ^ f.1) 0

/-- The low and high words of a 64-bit address register. -/
def loWord (a : W64) : Nat := a.toNat % 2 ^ 32
def hiWord (a : W64) : Nat := a.toNat / 2 ^ 32

/-- Whether an offset lies among `n` registers from `base`, `stride` apart, and its number there. -/
def indexAt (off base stride n : Nat) : Option Nat :=
  if base ≤ off ∧ (off - base) / stride < n then some ((off - base) / stride) else none

/-- The byte of a temperature, two's complement. -/
def tempByte (t : Int) : Nat := wrap 8 t

/-! ### ID and HIF (R475) -/

/-- Tiles that are not OFF. -/
def usableTiles (s : State) : Nat := ((List.range 1152).filter (fun t => (s.tile t).mode != 2)).length

/-- `ID`; the port is the one through which the read arrives. -/
def readId (s : State) (host off : Nat) : Nat :=
  match off with
  | 0x00 => 0x24161F3A
  | 0x04 => 0x00000100
  | 0x08 => Config.serial.toNat % 2 ^ 32
  | 0x0C => Config.serial.toNat / 2 ^ 32
  | 0x10 => host
  | 0x14 => usableTiles s
  | _ => 0

/-- `HLINKp`. -/
def readHlink (h : HostPort) : Nat := regOf [(0, h.speed.toNat), (3, b2n h.flit), (4, h.width.toNat), (8, b2n h.up)]

/-- `HIF`. -/
def readHif (s : State) (off : Nat) : Nat :=
  match off with
  | 0x00 => b2n s.host.primary
  | 0x04 => regOf [(19, b2n s.host.offer.isSome)]
  | 0x10 => readHlink (s.hport 0)
  | 0x14 => readHlink (s.hport 1)
  | 0x20 => (s.hport 0).win.toNat
  | 0x24 => (s.hport 1).win.toNat
  | _ => 0

/-! ### RING (R476) -/

/-- Stages in doubt, in order. -/
def doubtful (s : State) : List Stage := s.cmd.stages.filter (·.inDoubt)

/-- The stage shown. -/
def shownStage (s : State) : Option Stage := (doubtful s)[s.cmd.rsdIdx.toNat]?

/-- `STATE` of a ring pair. -/
def ringCode (p : RingPhase) : Nat := match p with | .disabled => 0 | .active => 1 | .stopped => 2

/-- Registers of a ring pair. -/
def ringReg (s : State) (ring off : Nat) : Nat :=
  let r := s.ring ring
  match off with
  | 0x00 => loWord r.sbase
  | 0x04 => hiWord r.sbase
  | 0x08 => loWord r.cbase
  | 0x0C => hiWord r.cbase
  | 0x10 => r.size.toNat
  | 0x14 => r.next.toNat
  | 0x18 => regOf [(0, b2n (r.phase != .disabled)), (2, ringCode r.phase), (8, ringVector s ring)]
  | 0x1C => r.dup.toNat
  | _ => 0

/-- `RING`. -/
def readRings (s : State) (off : Nat) : Nat :=
  match indexAt off 0x400 0x20 32 with
  | some r => ringReg s r (off % 0x20)
  | none =>
    match indexAt off 0x100 0x40 2 with
    | some p =>
      (match off % 0x40 with
       | 0x0 => loWord (tget s.cmd.doorbell p 0)
       | 0x4 => hiWord (tget s.cmd.doorbell p 0)
       | 0x8 => loWord (tget s.cmd.shadow p 0)
       | 0xC => hiWord (tget s.cmd.shadow p 0)
       | _ => 0)
    | none =>
      match off with
      | 0x00 => regOf [(0, s.cmd.poolFirst.toNat), (16, s.cmd.poolCount.toNat)]
      | 0x04 => s.cmd.budget.toNat
      | 0x08 => s.cmd.watch.toNat
      | 0x10 => (doubtful s).length
      | 0x14 => s.cmd.rsdIdx.toNat
      | 0x18 => (shownStage s).elim 0 (fun g => regOf [(0, g.src % 4096), (16, g.ring % 32)])
      | 0x1C => (shownStage s).elim 0 (fun g => g.pitch.toNat)
      | 0x20 => regOf [(0, s.cmd.rsrSrc.toNat), (16, s.cmd.rsrRing.toNat)]
      | 0x24 => s.cmd.rsrPitch.toNat
      | _ => 0

/-! ### IRQ and ERR (R477) -/

/-- `IRQ`. -/
def readIrq (s : State) (off : Nat) : Nat :=
  match indexAt off 0 0x40 2 with
  | none => 0
  | some p =>
    let h := s.hport p
    match off % 0x40 with
    | 0x0 => regOf [(0, h.modTime.toNat), (16, h.modCount.toNat)]
    | 0x4 => regOf [(0, h.errV.toNat), (8, b2n h.errEn), (9, h.errCls.toNat), (16, h.secV.toNat), (24, b2n h.secEn)]
    | 0x8 => h.sent.toNat
    | _ => 0

/-- `ERR`. -/
def readErr (s : State) (off : Nat) : Nat :=
  match indexAt off 0x4000 64 256 with
  | some i => (s.log.early[i]?).elim 0 (fun r => field (recordBytes r) (off % 64) 4)
  | none =>
    match off with
    | 0x00 => regOf [(0, b2n s.log.en), (1, s.log.region.toNat), (16, s.log.log2n.toNat)]
    | 0x04 => regOf [(0, b2n s.log.ringUp), (1, b2n s.log.halted), (16, s.log.fcode.toNat)]
    | 0x08 => s.log.next.toNat
    | 0x0C => s.log.overCount.toNat
    | 0x10 => s.log.lost.toNat
    | 0x14 => s.log.early.length
    | 0x20 => loWord s.log.mirAddr
    | 0x24 => hiWord s.log.mirAddr
    | 0x28 => regOf [(0, b2n s.log.mirEn), (1, b2n s.log.mirPort), (2, s.log.mirLog2n.toNat)]
    | _ => 0

/-! ### PWR (R414) -/

/-- `STATE` of the controller. -/
def powerCode (p : PowerPhase) : Nat :=
  match p with | .off => 0 | .enabling => 1 | .run => 2 | .throttle => 3 | .floor => 4 | .tripped => 5

/-- `PSTAT`. -/
def readPstat (s : State) : Nat :=
  let p := s.pwr
  regOf [(0, powerCode p.phase), (3, if p.boost then p.boostPace.toNat else p.comp.toNat), (10, b2n p.boost),
    (11, b2n (p.holdWatts != 0)), (12, b2n (!p.envelope.isEmpty)),
    (13, b2n (p.hints.any (fun h => (hintFloor p.rup.toNat s.ns h).isSome))), (14, b2n (p.fix != 0)), (15, p.bind.toNat),
    (19, b2n p.powerOkLoss)]

/-- `PDIEi`. -/
def readPdie (s : State) (i : Nat) : Nat :=
  let t := tget s.pwr.dieTemp i 0
  regOf [(0, tempByte t), (8, b2n (decide (t ≥ 95))), (9, b2n (s.pwr.throttles.any (·.source == i)))]

/-- `PCOOL`. -/
def readPcool (s : State) : Nat :=
  regOf [(0, s.pwr.flow.toNat), (12, s.pwr.inlet.toNat), (20, s.pwr.outlet.toNat), (28, b2n s.pwr.coolLost)]

/-- `PHOTh`. -/
def readPhot (s : State) (h : Nat) : Nat :=
  let x := tget s.pwr.spots h {}
  regOf [(0, tempByte x.diode), (8, tempByte x.osc), (16, tempByte x.used), (24, b2n x.dis), (25, b2n x.dbad), (26, b2n x.rbad)]

/-- `PWR`. -/
def readPwr (s : State) (off : Nat) : Nat :=
  let p := s.pwr
  match off with
  | 0x00 => p.cap.toNat
  | 0x04 => p.win.toNat
  | 0x08 => regOf [(0, p.rup.toNat), (16, p.rdown.toNat)]
  | 0x0C => p.maxCap.toNat
  | 0x10 => regOf [(0, p.maxUp.toNat), (16, p.maxDown.toNat)]
  | 0x14 => regOf [(0, b2n p.hold), (1, b2n p.boostOk), (2, b2n p.reten), (3, b2n p.hbmSr), (4, b2n p.lswap)]
  | 0x18 => p.fix.toNat
  | 0x1C => p.order.toNat
  | 0x20 => regOf [(0, p.floorLink.toNat), (8, p.floorMem.toNat), (16, p.floorComp.toNat)]
  | 0x24 => regOf [(0, p.tspan.toNat), (8, p.pstep.toNat), (16, p.pmod.toNat)]
  | 0x28 => bits p.rowOff.toNat 31 0
  | 0x2C => bits p.rowOff.toNat 63 32
  | 0x30 => bits p.rowOff.toNat 95 64
  | 0x34 => bits p.rowOff.toNat 127 96
  | 0x40 => readPstat s
  | 0x44 => regOf [(0, p.comp.toNat), (8, p.mem.toNat), (16, p.link.toNat)]
  | 0x48 => regOf [(0, min (p.level / 1000) 4095), (16, min p.avg 4095)]
  | 0x4C => p.holdWatts.toNat
  | 0x50 => p.holdJoule.toNat
  | 0x54 => p.clamps.toNat
  | 0x58 => p.breach.toNat
  | 0x5C => p.hints.length
  | 0x60 => readPcool s
  | _ =>
    match indexAt off 0x100 4 228, indexAt off 0x500 4 18, indexAt off 0x1000 4 1152 with
    | some h, _, _ => readPhot s h
    | _, some i, _ => readPdie s i
    | _, _, some l => physOf s l
    | _, _, _ => 0

/-! ### TIME (R426) -/

/-- `STATE` of the time base. -/
def timeCode (p : TimePhase) : Nat := match p with | .free => 0 | .acquiring => 1 | .locked => 2 | .holdover => 3

/-- `TIME`; `TNOWLO` as a read would latch it. -/
def readTime (s : State) (off : Nat) : Nat :=
  let t := s.time
  match off with
  | 0x00 => regOf [(0, b2n t.cand), (1, t.maxHop.toNat)]
  | 0x04 => t.epoch.toNat
  | 0x08 => regOf [(0, timeCode t.phase), (2, b2n t.selfLead), (3, b2n t.upstream.isSome), (4, t.upstream.getD 0),
      (8, t.leadNum.toNat), (20, t.dist.toNat)]
  | 0x0C => wrap 32 (t.theta / 64000)
  | 0x10 => wrap 32 (t.freq * 1600000000 / 2 ^ 47)
  | 0x14 => t.steps.toNat
  | 0x18 => t.setLo.toNat
  | 0x1C => t.setHi.toNat
  | 0x20 => s.ns % 2 ^ 32
  | 0x24 => t.latchHi.toNat
  | 0x28 => t.latchF.toNat
  | _ => (indexAt off 0x100 4 16).elim 0 (fun n => (tget s.time.asym n 0).toNat)

/-! ### SEC (R462) -/

/-- `SSTAT`. -/
def readSstat (s : State) : Nat :=
  regOf [(0, b2n s.sec.slot), (1, b2n s.sec.noCfg), (2, b2n s.sec.owned), (3, b2n s.sec.debug), (4, b2n s.sec.certBad)]

/-- `SBOOT`. -/
def readSboot (s : State) : Nat :=
  regOf [(0, s.sec.reasonA.toNat), (4, s.sec.reasonB.toNat), (8, s.sec.reason0.toNat), (12, s.sec.reason1.toNat)]

/-- Word w of bytes. -/
def secWord (b : Bytes) (w : Nat) : Nat := field b (4 * w) 4

/-- `SEC`. -/
def readSec (s : State) (off : Nat) : Nat :=
  let c := s.sec
  match off with
  | 0x00 => readSstat s
  | 0x04 => readSboot s
  | 0x08 => c.floor.toNat
  | 0x0C => c.target.toNat
  | 0x10 => c.svn.toNat
  | 0x14 => c.bsvn.toNat
  | 0x18 => regOf [(0, b2n c.advancing), (1, min (certLength s) 4095)]
  | 0x40 => c.attLo.toNat
  | 0x44 => c.attHi.toNat
  | 0x48 => regOf [(1, b2n c.attBusy), (2, b2n c.attDone)]
  | 0x320 => c.mrIndex.toNat
  | 0x420 => c.dtLo.toNat
  | 0x424 => c.dtHi.toNat
  | 0x800 => c.fAddr.toNat
  | 0x804 => regOf [(31, b2n (c.fOp != .none))]
  | _ =>
    if let some w := indexAt off 0x20 4 8 then (c.nonce.getD w 0).toNat
    else if let some w := indexAt off 0x100 4 128 then secWord (c.mr.getD (w / 8) []) (w % 8)
    else if let some w := indexAt off 0x300 4 8 then (c.mrd.getD w 0).toNat
    else if let some w := indexAt off 0x340 4 16 then secWord (identityBytes s) w
    else if let some w := indexAt off 0x400 4 8 then secWord (beBytes 32 c.challenge.toNat) w
    else if let some w := indexAt off 0x1000 4 1024 then (tget c.fBuf w 0).toNat
    else if let some w := indexAt off 0x2000 4 1024 then leNat (flashBytes s (certBase + 4 * w) 4)
    else 0

/-! ### MEM (R214) -/

/-- `MREGr`: the shadow and the active entry. -/
def readMreg (s : State) (r : Nat) : Nat :=
  let x := shadowRegion s r
  let a := activeRegion s r
  regOf [(0, x.mode.toNat), (2, x.die.toNat), (6, x.frame.toNat), (16, a.mode.toNat), (18, a.die.toNat), (22, a.frame.toNat)]

/-- The fewest spare rows left in any bank of a stack: those told at training, less the repairs since (R214). -/
def fewestSpares (s : State) (k : Nat) : Nat :=
  (List.range 2048).foldl (fun m i => min m (spareRows s (32 * k + i / 64) (i % 64))) 255

/-- `MSTKs`. -/
def readMstk (s : State) (k : Nat) : Nat :=
  let x := s.stack k
  regOf [(0, x.temp.toNat), (8, x.refresh.toNat), (10, b2n x.stop), (11, b2n x.trained), (16, fewestSpares s k)]

/-- A retirement entry. -/
def readMret (s : State) (i : Nat) : Nat :=
  let e := tget s.hbm.retired i (0, false)
  regOf [(0, e.1.toNat), (31, b2n e.2)]

/-- `MEM`. -/
def readMem (s : State) (off : Nat) : Nat :=
  let h := s.hbm
  match off with
  | 0x04 => regOf [(0, b2n h.commit.isSome), (1, b2n h.refused), (2, h.first.toNat), (13, h.why.toNat)]
  | 0x08 => (h.retired.filter (fun e => e.2.2)).length
  | 0x0C => h.muecnt.toNat
  | _ =>
    if let some k := indexAt off 0x100 4 24 then readMstk s k
    else if let some k := indexAt off 0x200 4 24 then (s.stack k).ce.toNat
    else if let some r := indexAt off 0x1000 4 1536 then readMreg s r
    else if let some i := indexAt off 0x3000 4 4096 then readMret s i
    else 0

/-! ### FAB (R243, R272) -/

/-- `STATE` of a port. -/
def portCode (p : PortPhase) : Nat :=
  match p with | .off => 0 | .train => 1 | .card => 2 | .held => 3 | .timeHold => 4 | .mgmt => 5 | .up => 6

/-- Registers of a Rope port. -/
def readPort (s : State) (n off : Nat) : Nat :=
  let p := s.port n
  match off with
  | 0x00 => regOf [(0, b2n p.en), (1, b2n p.degradeOk)]
  | 0x04 => regOf [(0, portCode p.phase), (3, b2n p.narrow), (4, b2n p.pair), (5, p.why.toNat), (8, p.peer.toNat), (20, p.pport.toNat)]
  | 0x08 => p.fecc.toNat
  | 0x0C => p.fecu.toNat
  | 0x10 => p.replays.toNat
  | 0x14 => p.downs.toNat
  | 0x18 => regOf [(0, p.pre1.toNat), (8, p.mainCur.toNat), (16, p.post1.toNat)]
  | _ => 0

/-- Routes: `RLO` shows what was written to it, `RHI` the committed entry. -/
def readRoute (s : State) (d : Nat) (hi : Bool) : Nat :=
  let e := tget s.fab.routes d {}
  if hi then regOf [(0, bits e.paths.toNat 39 30), (10, b2n e.valid)] else (tget s.fab.rlo d 0).toNat

/-- A cacheable window: `FCWLO` shows what was written to it, `FCWHI` the committed window. -/
def readWindow (s : State) (w : Nat) (hi : Bool) : Nat :=
  let x := tget s.fab.windows w {}
  if hi then regOf [(0, x.count.toNat), (31, b2n x.valid)] else (tget s.fab.cwLo w 0).toNat

/-- `FAB`. -/
def readFab (s : State) (off : Nat) : Nat :=
  let f := s.fab
  match off with
  | 0x00 => regOf [(0, f.devNum.toNat), (15, b2n f.devValid)]
  | 0x04 => f.domain.toNat
  | 0x08 => f.partner.toNat
  | 0x0C => f.hops.toNat
  | 0xC000 => f.loadTo.toNat
  | 0xC004 => f.fenceTo.toNat
  | 0xC008 => regOf [(0, f.rlcRegion.toNat), (11, f.rlcSize.toNat)]
  | 0xC010 => f.rlcHit.toNat
  | 0xC014 => f.rlcMiss.toNat
  | 0xC018 => f.busy.toNat
  | 0xC01C => (f.replyCache.filter (fun e => !s.passed e.at_ 4000)).length
  | 0xC020 => f.rcWait.toNat
  | 0xC024 => f.late.toNat
  | 0xC028 => f.ownViol.toNat
  | 0xC400 => f.ownSel.toNat
  | 0xC404 => (ownEntry s f.ownSel.toNat).toNat
  | _ =>
    if let some d := indexAt off 0x10 4 7 then (tget f.drops (d + 1) 0).toNat
    else if let some n := indexAt off 0x100 0x40 16 then readPort s n (off % 0x40)
    else if let some d := indexAt off 0x4000 8 4095 then readRoute s d (off % 8 == 4)
    else if let some w := indexAt off 0xC100 8 64 then readWindow s w (off % 8 == 4)
    else 0

/-! ### RED (R300) -/

/-- `STATE` of a bucket. -/
def bucketCode (p : BucketPhase) : Nat :=
  match p with | .free => 0 | .declared => 1 | .armed => 2 | .fired => 3 | .closed => 4

/-- This part is a PUSHED member of the bucket. -/
def pushedHere (s : State) (b : Bucket) : Bool := b.record.members.any (fun m => m.1 == ownDev s && m.2)

/-- Registers of a bucket. -/
def bucketReg (s : State) (k off : Nat) : Nat :=
  let b := s.bucket k
  match off with
  | 0x00 => regOf [(0, bucketCode b.phase), (3, b2n b.record.ring_), (4, b2n (pushedHere s b)), (5, b2n b.pushFired), (6, b2n b.heldArm)]
  | 0x04 => b.step.toNat
  | 0x08 => b.onTime.length % 65536
  | 0x10 => bits b.chain.toNat 31 0
  | 0x14 => bits b.chain.toNat 63 32
  | 0x18 => bits b.chain.toNat 95 64
  | 0x1C => bits b.chain.toNat 127 96
  | _ => 0

/-- `RED`. -/
def readRed (s : State) (off : Nat) : Nat :=
  let r := s.red
  match off with
  | 0x00 => r.ringTo.toNat
  | 0x04 => r.rescale.toNat
  | 0x08 => r.late.toNat
  | 0x0C => r.drop.toNat
  | 0x10 => r.stray.toNat
  | 0x14 => r.nf.toNat
  | 0x18 => r.badPk.toNat
  | _ => (indexAt off 0x1000 0x20 256).elim 0 (fun k => bucketReg s k (off % 0x20))

/-! ### SNAP (R383) -/

/-- `STATE` of a set and `ROLE` of the pair. -/
def setCode (p : SetPhase) : Nat :=
  match p with | .free => 0 | .ready => 1 | .freezing => 2 | .draining => 3 | .invalid => 4 | .recv => 5
def roleCode (p : PairRole) : Nat := match p with | .running => 0 | .standby => 1 | .promoted => 2

/-- Registers of a set. -/
def setRegs (s : State) (k off : Nat) : Nat :=
  let x := s.snapSet k
  match off with
  | 0x0 => regOf [(0, setCode x.phase), (3, b2n x.frozen), (4, roleCode s.snap.role)]
  | 0x4 => x.imgStep.toNat
  | 0x8 => x.snapNo.toNat
  | 0xC => x.jepoch.toNat % 2 ^ 32
  | _ => 0

/-- `SNAP`. -/
def readSnap (s : State) (off : Nat) : Nat :=
  let n := s.snap
  match off with
  | 0x00 => regOf [(0, b2n n.en), (1, n.split.toNat), (3, b2n n.policy)]
  | 0x04 => regOf [(0, n.present.toNat), (4, n.usable.toNat)]
  | 0x08 => regOf [(0, n.qpairs.toNat), (16, n.depth.toNat)]
  | 0x0C => n.work.toNat
  | 0x10 => b2n n.sharedFeed
  | 0x14 => n.nerr.toNat
  | 0x18 => n.skew.toNat
  | 0x1C => regOf [(0, n.skewTable.toNat), (2, n.skewTile.toNat), (13, n.skewStream.toNat)]
  | _ =>
    if let some k := indexAt off 0x100 0x10 16 then setRegs s k (off % 0x10)
    else if let some c := indexAt off 0x1000 8 64 then
      (if off % 8 = 4 then hiWord (tget n.cursors c 0) else loWord (tget n.cursors c 0))
    else 0

/-! ### TILE (R69, R172) -/

/-- Array registers of a tile. -/
def readArray (s : State) (t off : Nat) : Nat :=
  let x := s.tile t
  match off with
  | 0x00 => regOf [(0, x.mode.toNat), (8, tileWidth x)]
  | 0x04 => badCount x.badMap
  | 0x2C => regOf [(0, x.mismatch.toNat), (16, x.suspect.toNat)]
  | 0x30 => x.ainex.toNat
  | _ => (indexAt off 0x08 4 9).elim 0 (fun k => bits x.badMap.toNat (32 * k + 31) (32 * k))

/-- Threads that are neither free nor exited. -/
def liveThreads (t : Tile) : Nat := (t.threads.filter (fun x => x.2.phase == .ready || x.2.phase == .waiting)).length

/-- Launch registers of a tile. -/
def readLaunch (s : State) (t off : Nat) : Nat :=
  let x := s.tile t
  match off with
  | 0x0 => regOf [(0, x.trun.toNat), (2, liveThreads x), (14, x.parties.toNat)]
  | 0x4 => regOf [(0, x.tfltCode.toNat), (16, x.tfltSlot.toNat)]
  | 0x8 => x.tfpc.toNat
  | 0xC => x.tfiw.toNat
  | _ => 0

/-- `TILE`. -/
def readTiles (s : State) (off : Nat) : Nat :=
  if let some t := indexAt off 0 0x40 1152 then readArray s t (off % 0x40)
  else if let some t := indexAt off 0x12000 0x10 1152 then readLaunch s t (off % 0x10)
  else 0

/-! ### The whole map (R474) -/

/-- The value at a BAR0 offset, read through a port. -/
def readReg (s : State) (host off : Nat) : Nat :=
  if off < 0x1000 then readId s host off
  else if off < 0x2000 then readHif s (off - 0x1000)
  else if off < 0x4000 then readRings s (off - 0x2000)
  else if off < 0x8000 then readIrq s (off - 0x4000)
  else if off < 0x10000 then readErr s (off - 0x8000)
  else if off < 0x18000 then readPwr s (off - 0x10000)
  else if off < 0x20000 then readTime s (off - 0x18000)
  else if off < 0x28000 then readSec s (off - 0x20000)
  else if off < 0x30000 then readMem s (off - 0x28000)
  else if off < 0x40000 then readFab s (off - 0x30000)
  else if off < 0x50000 then readRed s (off - 0x40000)
  else if off < 0x60000 then readSnap s (off - 0x50000)
  else if off < 0x80000 then readTiles s (off - 0x60000)
  else 0

/-! ### What a read clears or latches (R4) -/

/-- Change the log. -/
def modLog (s : State) (f : Log → Log) : State := { s with log := f s.log }
/-- Change the controller. -/
def modPwr (s : State) (f : Power → Power) : State := { s with pwr := f s.pwr }
/-- Change the fabric. -/
def modFab (s : State) (f : Fabric → Fabric) : State := { s with fab := f s.fab }
/-- Change the reduction engine. -/
def modRed (s : State) (f : Reduction → Reduction) : State := { s with red := f s.red }
/-- Change a host port. -/
def modHost (s : State) (p : Nat) (f : HostPort → HostPort) : State := s.setHport p (f (s.hport p))
/-- Change a Rope port. -/
def modPort (s : State) (n : Nat) (f : Port → Port) : State := s.setPort n (f (s.port n))

/-- Put a value into an RC counter of the fabric. -/
def setFabRc (s : State) (off v : Nat) : State :=
  let w : W32 := BitVec.ofNat 32 v
  match off with
  | 0xC010 => modFab s (fun f => { f with rlcHit := w })
  | 0xC014 => modFab s (fun f => { f with rlcMiss := w })
  | 0xC018 => modFab s (fun f => { f with busy := w })
  | 0xC020 => modFab s (fun f => { f with rcWait := w })
  | 0xC024 => modFab s (fun f => { f with late := w })
  | 0xC028 => modFab s (fun f => { f with ownViol := w })
  | _ =>
    if let some d := indexAt off 0x10 4 7 then modFab s (fun f => { f with drops := tset f.drops (d + 1) w })
    else if let some n := indexAt off 0x100 0x40 16 then
      (match off % 0x40 with
       | 0x08 => modPort s n (fun p => { p with fecc := w })
       | 0x0C => modPort s n (fun p => { p with fecu := w })
       | 0x10 => modPort s n (fun p => { p with replays := w })
       | 0x14 => modPort s n (fun p => { p with downs := BitVec.ofNat 16 v })
       | _ => s)
    else s

/-- Put a value into an RC counter of the reduction engine. -/
def setRedRc (s : State) (off v : Nat) : State :=
  let w : W32 := BitVec.ofNat 32 v
  match off with
  | 0x04 => modRed s (fun r => { r with rescale := w })
  | 0x08 => modRed s (fun r => { r with late := w })
  | 0x0C => modRed s (fun r => { r with drop := w })
  | 0x10 => modRed s (fun r => { r with stray := w })
  | 0x14 => modRed s (fun r => { r with nf := w })
  | 0x18 => modRed s (fun r => { r with badPk := w })
  | _ => s

/-- Put a value into an RC counter of a tile: the mismatch count, not `SUSPECT`. -/
def setTileRc (s : State) (off v : Nat) : State :=
  match indexAt off 0 0x40 1152 with
  | some t =>
    (match off % 0x40 with
     | 0x2C => s.setTile t { s.tile t with mismatch := BitVec.ofNat 16 v }
     | 0x30 => s.setTile t { s.tile t with ainex := BitVec.ofNat 32 v }
     | _ => s)
  | none => s

/-- An offset holds an RC field. -/
def isRc (off : Nat) : Bool :=
  [0x4008, 0x4048, 0x800C, 0x8010, 0x10050, 0x10054, 0x10058, 0x18014, 0x2800C, 0x50014, 0x3C010, 0x3C014, 0x3C018, 0x3C020,
    0x3C024, 0x3C028, 0x40004, 0x40008, 0x4000C, 0x40010, 0x40014, 0x40018].contains off ||
  ((indexAt off 0x2400 0x20 32).isSome && off % 0x20 == 0x1C) || ((indexAt off 0x28200 4 24).isSome && off % 4 == 0) ||
  ((indexAt off 0x30010 4 7).isSome && off % 4 == 0) ||
  ((indexAt off 0x30100 0x40 16).isSome && [0x08, 0x0C, 0x10, 0x14].contains (off % 0x40)) ||
  ((indexAt off 0x60000 0x40 1152).isSome && [0x2C, 0x30].contains (off % 0x40))

/-- The RC field at an offset; `ACHK` shares its register with `SUSPECT`. -/
def rcValue (s : State) (off : Nat) : Nat := if 0x60000 ≤ off ∧ off % 0x40 = 0x2C then readReg s 0 off % 65536 else readReg s 0 off

/-- Put a value into the RC field at an offset. -/
def setRc (s : State) (off v : Nat) : State :=
  let w : W32 := BitVec.ofNat 32 v
  if 0x2000 ≤ off ∧ off < 0x4000 then
    (match indexAt (off - 0x2000) 0x400 0x20 32 with
     | some r => s.setRing r { s.ring r with dup := w }
     | none => s)
  else if off < 0x8000 then modHost s (if off = 0x4048 then 1 else 0) (fun h => { h with sent := w })
  else if off = 0x800C then modLog s (fun l => { l with overCount := w })
  else if off = 0x8010 then modLog s (fun l => { l with lost := w })
  else if off = 0x10050 then modPwr s (fun p => { p with holdJoule := w })
  else if off = 0x10054 then modPwr s (fun p => { p with clamps := w })
  else if off = 0x10058 then modPwr s (fun p => { p with breach := w })
  else if off = 0x18014 then { s with time := { s.time with steps := w } }
  else if off = 0x2800C then { s with hbm := { s.hbm with muecnt := w } }
  else if 0x28200 ≤ off ∧ off < 0x28260 then
    s.setStack ((off - 0x28200) / 4) { s.stack ((off - 0x28200) / 4) with ce := w }
  else if 0x30000 ≤ off ∧ off < 0x40000 then setFabRc s (off - 0x30000) v
  else if 0x40000 ≤ off ∧ off < 0x50000 then setRedRc s (off - 0x40000) v
  else if off = 0x50014 then { s with snap := { s.snap with nerr := w } }
  else setTileRc s (off - 0x60000) v

/-- What a read of the RC field at an offset returns: its value before this control cycle's setting events (R6). -/
def rcShown (s : State) (off : Nat) : Nat := min (tget s.counts off 0) (rcValue s off)

/-- A read of an RC field clears what it returns; this control cycle's setting events stay (R6). -/
def clearRc (s : State) (off : Nat) : State :=
  { setRc s off (rcValue s off - rcShown s off) with counts := tdel s.counts off }

/-- What a read at an offset does beside returning the value. -/
def afterRead (s : State) (off : Nat) : State :=
  if off = tnowloAt then (latchNow s).2 else if isRc off then clearRc s off else s

/-- The value that a read through a port returns. -/
def readValue (s : State) (host off : Nat) : Nat :=
  if isRc off then readReg s host off - rcValue s off + rcShown s off else readReg s host off

/-- The RC fields that a control cycle begins with: offset and value of each that is not zero, for the units listed. -/
def rcCounts (s : State) : Table Nat :=
  let fixed := [0x4008, 0x4048, 0x800C, 0x8010, 0x10050, 0x10054, 0x10058, 0x18014, 0x2800C, 0x50014, 0x3C010, 0x3C014, 0x3C018,
    0x3C020, 0x3C024, 0x3C028, 0x40004, 0x40008, 0x4000C, 0x40010, 0x40014, 0x40018]
  let offs := fixed ++ s.cmd.rings.map (fun r => 0x241C + 0x20 * r.1) ++ s.hbm.stk.map (fun k => 0x28200 + 4 * k.1) ++
    s.fab.drops.map (fun d => 0x3000C + 4 * d.1) ++
    s.fab.ports.flatMap (fun n => [0x08, 0x0C, 0x10, 0x14].map (0x30100 + 0x40 * n.1 + ·)) ++
    s.tiles.flatMap (fun t => [0x2C, 0x30].map (0x60000 + 0x40 * t.1 + ·))
  (offs.map (fun o => (o, rcValue s o))).filter (fun x => x.2 != 0)

/-- A BAR0 access of a bad size or alignment moves nothing (R468). -/
def badAccess (s : State) (host off : Nat) (isWrite : Bool) : State :=
  note (if isWrite then s else s.emit (.barUnsupported host off)) 0x0B02 2 unitHost

/-- BAR0_BAD_ACCESS: 4-byte and 8-byte accesses, aligned, are no bad access. -/
def execBar0BadAccess (host offset size : Nat) (isWrite : Bool) (s : State) : Res :=
  portRead host s <|
    if (size = 4 ∨ size = 8) ∧ offset % size = 0 then s else badAccess s host offset isWrite

/-- A read of BAR0 returns the value, and clears an RC field. -/
def readBar0 (s : State) (host offset : Nat) : State :=
  if offset ≥ 2 ^ 20 then s
  else if offset % 4 ≠ 0 then badAccess s host offset false
  else (afterRead s offset).emit (.barRead host offset (BitVec.ofNat 32 (readValue s host offset)))

/-- A read of the MSI-X table or the PBA. -/
def readBar4 (s : State) (host offset : Nat) : State :=
  if offset ≥ 2 ^ 13 ∨ offset % 4 ≠ 0 then s
  else s.emit (.spaceRead host .bar4 offset (BitVec.ofNat 32 (bar4Value (s.hport host) offset)))

/-- A read of configuration space; the bits of which the spec states nothing are free. -/
def readConfig (s : State) (host offset : Nat) : State :=
  if offset ≥ 2 ^ 12 ∨ offset % 4 ≠ 0 then s
  else
    let m := (cfgRow offset).open_
    let d := s.draw
    let v := cfgValue (s.hport host) offset
    if m = 0 then s.emit (.spaceRead host .config offset (BitVec.ofNat 32 v))
    else d.2.emit (.spaceRead host .config offset (BitVec.ofNat 32 (v ||| (d.1.toNat &&& m))))

/-- RC_REGISTER_READ: a 4-byte read of a port's BAR0, BAR4 or configuration space. -/
def execRcRegisterRead (host offset : Nat) (s : State) (space : HostSpace := .bar0) : Res :=
  portRead host s <|
    match space with
    | .bar0 => readBar0 s host offset
    | .bar4 => readBar4 s host offset
    | .config => readConfig s host offset

end Sys2Proof.Machine
end

