-- ==== Sys2Proof/Machine/RegWrites.lean ====
section
/-! DEFINITION. Writing the set-up registers (R4 to R7, R474 to R477): which port may write, what each block refuses, and
what a write sets. A register with rows of its own acts as its row does. -/

namespace Sys2Proof.Machine

/-! ### Refused writes (R7) -/

def hostRefused (s : State) : State := note s 0x0B02 3 unitHost
def ringRefused (s : State) : State := note s 0x060D 0 unitHost
def fabRefused (s : State) : State := note s 0x040A 0 unitHost
def timeRefused (s : State) : State := note s 0x0902 0 unitService
def redRefused (s : State) : State := note s 0x0505 0 unitHost
def snapRefused (s : State) : State := note s 0x0706 0 unitHost


/-- A 64-bit address with its low or its high word replaced. -/
def withLo (a : W64) (v : Nat) : W64 := BitVec.ofNat 64 (a.toNat / 2 ^ 32 * 2 ^ 32 + v % 2 ^ 32)
def withHi (a : W64) (v : Nat) : W64 := BitVec.ofNat 64 (a.toNat % 2 ^ 32 + v % 2 ^ 32 * 2 ^ 32)

/-! ### RING (R325, R343, R476) -/

/-- A staging pool of `n` regions from `f` overlaps the log ring, the work region or an active line cache. -/
def poolOverlaps (s : State) (f n : Nat) : Bool :=
  let meets (a len : Nat) : Bool := overlaps (f * 2 ^ 30) (n * 2 ^ 30) a len
  meets (s.log.region.toNat * 2 ^ 30) (logBytes s) || meets (s.snap.work.toNat * 2 ^ 30) (2 ^ 30) ||
    (decide (rlcBytes s > 0) && meets (s.fab.rlcRegion.toNat * 2 ^ 30) (rlcBytes s))

/-- `RSPOOL`. -/
def writePool (s : State) (v : Nat) : State :=
  let f := bits v 10 0
  let n := bits v 23 16
  let changed := f != s.cmd.poolFirst.toNat || n != s.cmd.poolCount.toNat
  if n = 0 ∨ n > 128 ∨ f + n > 1536 ∨ poolOverlaps s f n = true ∨ (changed && (anyPitch s || !s.cmd.stages.isEmpty)) = true then ringRefused s
  else { s with cmd := { s.cmd with poolFirst := BitVec.ofNat 11 f, poolCount := BitVec.ofNat 8 n } }

/-- Global registers of `RING`. -/
def writeRingGlobal (s : State) (off v : Nat) : Option State :=
  match off with
  | 0x00 => some (writePool s v)
  | 0x04 => some { s with cmd := { s.cmd with budget := BitVec.ofNat 8 v } }
  | 0x08 =>
    let p := bits v 4 0
    some (if 1 ≤ p ∧ p ≤ 16 then { s with cmd := { s.cmd with watch := BitVec.ofNat 5 p } } else ringRefused s)
  | 0x14 => some { s with cmd := { s.cmd with rsdIdx := BitVec.ofNat 10 v } }
  | 0x20 => some { s with cmd := { s.cmd with rsrSrc := BitVec.ofNat 12 v, rsrRing := BitVec.ofNat 5 (bits v 20 16) } }
  | 0x24 => some { s with cmd := { s.cmd with rsrPitch := BitVec.ofNat 16 v } }
  | 0x28 => some (writeRsrgo s (bits v 1 0))
  | _ => none

/-- An address of a port's doorbell or shadow-head block: aligned to 64 bytes, and changed only while none of the port's
ring pairs is ACTIVE. -/
def blockAddrOk (s : State) (p : Nat) (old new : W64) : Bool := decide (new.toNat % 64 = 0) && (old == new || (activeRings s p).isEmpty)

/-- Registers of a port in `RING`. -/
def writeRingPort (s : State) (p off v : Nat) : Option State :=
  let d := tget s.cmd.doorbell p 0
  let h := tget s.cmd.shadow p 0
  let bell (a : W64) : State := if blockAddrOk s p d a then { s with cmd := { s.cmd with doorbell := tset s.cmd.doorbell p a } } else ringRefused s
  let head (a : W64) : State := if blockAddrOk s p h a then { s with cmd := { s.cmd with shadow := tset s.cmd.shadow p a } } else ringRefused s
  match off with
  | 0x0 => some (bell (withLo d v))
  | 0x4 => some (bell (withHi d v))
  | 0x8 => some (head (withLo h v))
  | 0xC => some (head (withHi h v))
  | _ => none

/-- A ring size: a power of two from 64 to 65,536. -/
def sizeOk (n : Nat) : Bool := (List.range 11).any (fun k => n == 2 ^ (k + 6))

/-- Registers of a ring pair: a base, size or `NEXT` does not change while it is ACTIVE. -/
def writeRingPair (s : State) (r off v : Nat) : Option State :=
  let x := s.ring r
  let put (y : RingPair) (ok : Bool) : Option State :=
    some (if ok && (x.phase != .active || x == y) then s.setRing r y else ringRefused s)
  match off with
  | 0x00 => put { x with sbase := withLo x.sbase v } (decide (v % 4096 = 0))
  | 0x04 => put { x with sbase := withHi x.sbase v } true
  | 0x08 => put { x with cbase := withLo x.cbase v } (decide (v % 4096 = 0))
  | 0x0C => put { x with cbase := withHi x.cbase v } true
  | 0x10 => put { x with size := BitVec.ofNat 17 v } (sizeOk (bits v 16 0))
  | 0x14 => put { x with next := BitVec.ofNat 32 v } true
  | 0x18 => some (writeRctl s r (BitVec.ofNat 32 v))
  | _ => none

/-! ### IRQ and ERR (R477) -/

/-- Registers of a port in `IRQ`. -/
def writeIrq (s : State) (p off v : Nat) : Option State :=
  match off with
  | 0x0 => some (if bits v 25 16 = 0 then hostRefused s
      else modHost s p (fun h => { h with modTime := BitVec.ofNat 10 v, modCount := BitVec.ofNat 10 (bits v 25 16) }))
  | 0x4 => some (modHost s p (fun h => { h with
      errV := BitVec.ofNat 8 v, errEn := bit v 8, errCls := BitVec.ofNat 2 (bits v 10 9), secV := BitVec.ofNat 8 (bits v 23 16), secEn := bit v 24 }))
  | _ => none

/-- `ELOG`: in range, unmoved while enabled, and clear of the staging pool. -/
def writeElog (s : State) (v : Nat) : State :=
  let reg := bits v 11 1
  let lg := bits v 20 16
  let moved := reg != s.log.region.toNat || lg != s.log.log2n.toNat
  if reg > 1535 ∨ lg < 16 ∨ lg > 24 ∨ (s.log.en && moved) = true ∨ inPool s (reg * 2 ^ 30) (64 * 2 ^ lg) = true then hostRefused s
  else modLog s (fun l => { l with
    en := bit v 0, region := BitVec.ofNat 11 reg, log2n := BitVec.ofNat 5 lg, ringUp := l.ringUp && bit v 0, copied := if moved then 0 else l.copied })

/-- `EMIRCTL`: in range, and unmoved while enabled; the early buffer's records are mirrored when mirroring begins. -/
def writeEmirctl (s : State) (v : Nat) : State :=
  let lg := bits v 6 2
  let moved := bit v 1 != s.log.mirPort || lg != s.log.mirLog2n.toNat
  if lg < 6 ∨ lg > 16 ∨ (s.log.mirEn && moved) = true then hostRefused s
  else mirrorEarly (modLog s (fun l => { l with mirEn := bit v 0, mirPort := bit v 1, mirLog2n := BitVec.ofNat 5 lg }))

/-- `ERR`. -/
def writeErr (s : State) (off v : Nat) : Option State :=
  match off with
  | 0x00 => some (writeElog s v)
  | 0x20 => some (if v % 64 = 0 then modLog s (fun l => { l with mirAddr := withLo l.mirAddr v }) else hostRefused s)
  | 0x24 => some (modLog s (fun l => { l with mirAddr := withHi l.mirAddr v }))
  | 0x28 => some (writeEmirctl s v)
  | _ => none

/-- ELOG_WRITE. -/
def execElogWrite (host : Nat) (value : W32) (s : State) : Res := setupWrite host s (writeElog s value.toNat)

/-- EMIRCTL_WRITE. -/
def execEmirctlWrite (host : Nat) (value : W32) (s : State) : Res := setupWrite host s (writeEmirctl s value.toNat)

/-! ### PWR (R414) -/

/-- `PCFG`: the lead-swap map returns to identity when `LSWAP` is written 0 (R404), and every bank in retention wakes when `RETEN` is
(R181). -/
def writePcfg (s : State) (v : Nat) : State :=
  let s1 := modPwr s (fun p => { p with
    hold := bit v 0, boostOk := bit v 1, reten := bit v 2, hbmSr := bit v 3, lswap := bit v 4, lmap := if bit v 4 then p.lmap else [] })
  let s2 := if bit v 2 then s1 else wakeAllBanks s1
  if bit v 5 then clearEnvelope s2 else s2

/-- `PRAMP`. -/
def writePramp (s : State) (v : Nat) : State :=
  let u := bits v 12 0
  let d := bits v 28 16
  if 5 ≤ u ∧ u ≤ s.pwr.maxUp.toNat ∧ 5 ≤ d ∧ d ≤ s.pwr.maxDown.toNat then modPwr s (fun p => { p with rup := BitVec.ofNat 13 u, rdown := BitVec.ofNat 13 d })
  else powerRefused s

/-- `PORDER`: the three differ and none is 3. -/
def writePorder (s : State) (v : Nat) : State :=
  let a := bits v 1 0
  let b := bits v 3 2
  let c := bits v 5 4
  if a < 3 ∧ b < 3 ∧ c < 3 ∧ a ≠ b ∧ b ≠ c ∧ a ≠ c then modPwr s (fun p => { p with order := BitVec.ofNat 6 v }) else powerRefused s

/-- `PFLOOR`. -/
def writePfloor (s : State) (v : Nat) : State :=
  let ok (n : Nat) : Bool := decide (16 ≤ n) && decide (n ≤ 64)
  let l := bits v 6 0
  let m := bits v 14 8
  let c := bits v 22 16
  if ok l && ok m && ok c then modPwr s (fun p => { p with floorLink := BitVec.ofNat 7 l, floorMem := BitVec.ofNat 7 m, floorComp := BitVec.ofNat 7 c })
  else powerRefused s

/-- `PSTAG`. -/
def writePstag (s : State) (v : Nat) : State :=
  let t := bits v 6 0
  let m := bits v 21 16
  if t ≤ 64 ∧ 1 ≤ m ∧ m ≤ 32 then modPwr s (fun p => { p with tspan := BitVec.ofNat 7 t, pstep := BitVec.ofNat 4 (bits v 11 8), pmod := BitVec.ofNat 6 m })
  else powerRefused s

/-- `PROWOFFk`: rows whose bit becomes 1 switch off when no launch runs on them (R403). -/
def writeRowOff (s : State) (k v : Nat) : State :=
  let old := s.pwr.rowOff.toNat
  let n := rowDomains.foldl (fun n d => n + (if d / 32 = k then b2n (bit v (d % 32)) else b2n (bit old d)) * 2 ^ d) 0
  releaseRows (modPwr s (fun p => { p with rowOff := BitVec.ofNat 128 n }))

/-- `PWR`, but for the registers with rows of their own. -/
def writePwr (s : State) (off v : Nat) : Option State :=
  match off with
  | 0x08 => some (writePramp s v)
  | 0x14 => some (writePcfg s v)
  | 0x1C => some (writePorder s v)
  | 0x20 => some (writePfloor s v)
  | 0x24 => some (writePstag s v)
  | 0x28 => some (writeRowOff s 0 v)
  | 0x2C => some (writeRowOff s 1 v)
  | 0x30 => some (writeRowOff s 2 v)
  | 0x34 => some (writeRowOff s 3 v)
  | 0x40 => some (if bit v 19 && s.pwr.lossAt != some s.clk then modPwr s (fun p => { p with powerOkLoss := false }) else s)
  | _ => none

/-! ### TIME (R426) -/

/-- `TIME`, but for the registers with rows of their own. -/
def writeTime (s : State) (off v : Nat) : Option State :=
  match off with
  | 0x00 => some (if bits v 4 1 = 0 then timeRefused s
      else { s with time := { s.time with cand := bit v 0, maxHop := BitVec.ofNat 4 (bits v 4 1) } })
  | 0x18 => some { s with time := { s.time with setLo := BitVec.ofNat 32 v } }
  | _ => (indexAt off 0x100 4 16).map (fun n => { s with time := { s.time with asym := tset s.time.asym n (BitVec.ofNat 16 v) } })

/-! ### SEC (R462) -/

/-- Change the SEC block. -/
def modSec (s : State) (f : Security → Security) : State := { s with sec := f s.sec }

/-- `SATT`: `DONE` is cleared by writing 1, and `GO` requests a report; a write that is refused changes nothing (R7). -/
def writeSatt (s : State) (host v : Nat) : State :=
  let s1 := if bit v 2 && s.sec.doneAt != some s.clk && !(bit v 0 && reportRefused s) then modSec s (fun c => { c with attDone := false }) else s
  if bit v 0 then requestReport s1 host else s1

/-- `SEC`. A write of `SDGO` reads a token, which comes with the row of its own: here it moves nothing. -/
def writeSec (s : State) (host off v : Nat) : Option State :=
  match off with
  | 0x0C => some (writeSfadv s (BitVec.ofNat 32 v))
  | 0x40 => some (if v % 64 = 0 then modSec s (fun c => { c with attLo := BitVec.ofNat 32 v }) else secRefused s)
  | 0x44 => some (modSec s (fun c => { c with attHi := BitVec.ofNat 32 v }))
  | 0x48 => some (writeSatt s host v)
  | 0x320 => some (writeSmrx s (BitVec.ofNat 32 v))
  | 0x420 => some (modSec s (fun c => { c with dtLo := BitVec.ofNat 32 v }))
  | 0x424 => some (modSec s (fun c => { c with dtHi := BitVec.ofNat 32 v }))
  | 0x800 => some (if bits v 26 0 % 4096 = 0 then modSec s (fun c => { c with fAddr := BitVec.ofNat 27 v }) else secRefused s)
  | 0x804 => some (writeSfcmd s (bits v 1 0))
  | _ =>
    if let some w := indexAt off 0x20 4 8 then some (modSec s (fun c => { c with nonce := c.nonce.set w (BitVec.ofNat 32 v) }))
    else if let some w := indexAt off 0x300 4 8 then some (modSec s (fun c => { c with mrd := c.mrd.set w (BitVec.ofNat 32 v) }))
    else if let some w := indexAt off 0x1000 4 1024 then some (modSec s (fun c => { c with fBuf := tset c.fBuf w (BitVec.ofNat 32 v) }))
    else none

/-! ### MEM, FAB, RED, SNAP, HIF -/

/-- `MEM`, but for the commit and the retirement entries: reserved shadow values are kept, to be refused at commit
(R214). -/
def writeMem (s : State) (off v : Nat) : Option State :=
  if off = 0x04 then some (if bit v 1 && s.hbm.refusedAt != some s.clk then { s with hbm := { s.hbm with refused := false } } else s)
  else (indexAt off 0x1000 4 1536).map (fun r =>
    let e : Region := ⟨BitVec.ofNat 2 v, BitVec.ofNat 4 (bits v 5 2), BitVec.ofNat 7 (bits v 12 6)⟩
    { s with hbm := { s.hbm with shadow := tset s.hbm.shadow r e } })

/-- A timeout in µs within 100 to 100,000. -/
def timeoutOk (n : Nat) : Bool := decide (100 ≤ n) && decide (n ≤ 100000)

/-- `FAB`, but for the registers with rows of their own. -/
def writeFab (s : State) (off v : Nat) : Option State :=
  match off with
  | 0x0C => some (if bits v 7 0 = 0 then fabRefused s else modFab s (fun f => { f with hops := BitVec.ofNat 8 v }))
  | 0xC000 => some (if timeoutOk (bits v 16 0) then modFab s (fun f => { f with loadTo := BitVec.ofNat 17 v }) else fabRefused s)
  | 0xC004 => some (if timeoutOk (bits v 16 0) then modFab s (fun f => { f with fenceTo := BitVec.ofNat 17 v }) else fabRefused s)
  | 0xC400 => some (if bits v 19 0 ≤ 793343 then modFab s (fun f => { f with ownSel := BitVec.ofNat 20 v }) else fabRefused s)
  | _ =>
    if let some n := indexAt off 0x100 0x40 16 then
      (match off % 0x40 with
       | 0x00 => some (writePctl s n (BitVec.ofNat 32 v))
       | 0x18 => some (modPort s n (fun p => { p with
           pre1 := BitVec.ofNat 6 v, mainCur := BitVec.ofNat 6 (bits v 13 8), post1 := BitVec.ofNat 6 (bits v 21 16) }))
       | _ => none)
    else if let some d := indexAt off 0x4000 8 4095 then
      (if off % 8 = 0 then some (modFab s (fun f => { f with rlo := tset f.rlo d (BitVec.ofNat 30 v) })) else none)
    else if let some w := indexAt off 0xC100 8 64 then
      (if off % 8 = 4 then none
       else if bits v 19 0 > 786431 ∨ bits v 31 20 = 0xFFF then some (fabRefused s)
       else some (modFab s (fun f => { f with cwLo := tset f.cwLo w (BitVec.ofNat 32 v) })))
    else none

/-- `RED`. -/
def writeRed (s : State) (off v : Nat) : Option State :=
  if off = 0 then some (if timeoutOk (bits v 16 0) then modRed s (fun r => { r with ringTo := BitVec.ofNat 17 v }) else redRefused s)
  else none

/-- `SNAP`, but for `SNCTL`: no change of queues or of the work region while `EN` = 1. -/
def writeSnap (s : State) (off v : Nat) : Option State :=
  match off with
  | 0x08 =>
    let q := bits v 6 0
    let d := bits v 26 16
    some (if s.snap.en = false ∧ 1 ≤ q ∧ q ≤ 64 ∧ 2 ≤ d ∧ d ≤ 1024 then
      { s with snap := { s.snap with qpairs := BitVec.ofNat 7 q, depth := BitVec.ofNat 11 d } } else snapRefused s)
  | 0x0C => some (if s.snap.en = false ∧ bits v 10 0 ≤ 1535 then
      { s with snap := { s.snap with work := BitVec.ofNat 11 v } } else snapRefused s)
  | _ => none

/-- `HIF`: a window's base. -/
def writeHif (s : State) (off v : Nat) : Option State :=
  let put (p : Nat) : Option State := some (if bits v 10 0 ≤ 1535 then modHost s p (fun h => { h with win := BitVec.ofNat 11 v }) else hostRefused s)
  match off with
  | 0x20 => put 0
  | 0x24 => put 1
  | _ => none

/-! ### REGISTER_WRITE -/

/-- A write that only the primary may make; `none` is a register that no write changes. -/
def primaryWrite (host : Nat) (s : State) (r : Option State) : Res :=
  match r with
  | some t => setupWrite host s t
  | none => onUnit 2 host (.next s)

/-- A write of a port's own register. -/
def ownWrite (host p : Nat) (s : State) (r : Option State) : Res :=
  match r with
  | some t => portWrite host p s t
  | none => onUnit 2 host (.next s)

/-- `HOVER`: one of `OFFER`, `ACCEPT`, `CLAIM` (R475). -/
def writeHover (host v : Nat) (s : State) : Res :=
  let token := BitVec.ofNat 16 v
  match bits v 18 16 with
  | 0 => onUnit 2 host (.next s)
  | 1 => execHoverOffer host token s
  | 2 => execHoverAccept host token s
  | 4 => execHoverClaim host s
  | _ => handoverWrite host s (handoverFault s 4)

/-- `RING`. -/
def writeRingBlock (host off v : Nat) (s : State) : Res :=
  match indexAt off 0x400 0x20 32, indexAt off 0x100 0x40 2 with
  | some r, _ => ownWrite host (r / 16) s (writeRingPair s r (off % 0x20) v)
  | none, some p => ownWrite host p s (writeRingPort s p (off % 0x40) v)
  | none, none => primaryWrite host s (writeRingGlobal s off v)

/-- `PWR`. -/
def writePwrBlock (host off v : Nat) (s : State) : Res :=
  match off with
  | 0x00 => execPcapWrite host (BitVec.ofNat 32 v) s
  | 0x04 => execPwinWrite host (BitVec.ofNat 32 v) s
  | 0x18 => execPfixWrite host (BitVec.ofNat 32 v) s
  | _ => primaryWrite host s (writePwr s off v)

/-- `TIME`. -/
def writeTimeBlock (host off v : Nat) (s : State) : Res :=
  match off with
  | 0x04 => execTepochWrite host (BitVec.ofNat 32 v) s
  | 0x1C => execTsethiWrite host (BitVec.ofNat 32 v) s
  | _ => primaryWrite host s (writeTime s off v)

/-- `MEM`. -/
def writeMemBlock (host off v : Nat) (s : State) : Res :=
  match off, indexAt off 0x3000 4 4096 with
  | 0x00, _ => if bit v 0 then execMrcommitGo host s else primaryWrite host s (some s)
  | _, some i => execMretWrite host i (BitVec.ofNat 32 v) s
  | _, none => primaryWrite host s (writeMem s off v)

/-- `FAB`. -/
def writeFabBlock (host off v : Nat) (s : State) : Res :=
  if off = 0 then execFdevWrite host (BitVec.ofNat 32 v) s
  else if off = 0xC008 then execFrlcWrite host (BitVec.ofNat 32 v) s
  else
    match indexAt off 0x4000 8 4095, indexAt off 0xC100 8 64 with
    | some d, _ => if off % 8 = 4 then execRhiWrite host d (BitVec.ofNat 32 v) s else primaryWrite host s (writeFab s off v)
    | none, some w => if off % 8 = 4 then execFcwhiWrite host w (BitVec.ofNat 32 v) s else primaryWrite host s (writeFab s off v)
    | none, none => primaryWrite host s (writeFab s off v)

/-- The write, by block. -/
def writeReg (host off v : Nat) (s : State) : Res :=
  if off < 0x1000 then onUnit 2 host (.next s)
  else if off = 0x1004 then writeHover host v s
  else if off < 0x2000 then primaryWrite host s (writeHif s (off - 0x1000) v)
  else if off < 0x4000 then writeRingBlock host (off - 0x2000) v s
  else if off < 0x8000 then
    (match indexAt (off - 0x4000) 0 0x40 2 with
     | some p => ownWrite host p s (writeIrq s p (off % 0x40) v)
     | none => onUnit 2 host (.next s))
  else if off < 0x10000 then primaryWrite host s (writeErr s (off - 0x8000) v)
  else if off < 0x18000 then writePwrBlock host (off - 0x10000) v s
  else if off < 0x20000 then writeTimeBlock host (off - 0x18000) v s
  else if off < 0x28000 then primaryWrite host s (writeSec s host (off - 0x20000) v)
  else if off < 0x30000 then writeMemBlock host (off - 0x28000) v s
  else if off < 0x40000 then writeFabBlock host (off - 0x30000) v s
  else if off < 0x50000 then primaryWrite host s (writeRed s (off - 0x40000) v)
  else if off = 0x50000 then execSnctlEnWrite host (BitVec.ofNat 32 v) s
  else if off < 0x60000 then primaryWrite host s (writeSnap s (off - 0x50000) v)
  else onUnit 2 host (.next s)

/-- A write of BAR0. -/
def writeBar0 (host offset : Nat) (value : W32) (s : State) : Res :=
  if offset ≥ 2 ^ 20 then onUnit 2 host (.next s)
  else if offset % 4 ≠ 0 then portRead host s (badAccess s host offset true)
  else writeReg host offset value.toNat s

end Sys2Proof.Machine
end

