-- ==== Sys2Proof/Machine/Host.lean ====
section
/-! DEFINITION. Host attachment (chapter 18): the BAR2 window, port resets, link training, interrupt vectors, and the
coming up of the log ring (R440). -/

namespace Sys2Proof.Machine

/-! ### BAR2 (R469) -/

/-- HBM offset of a BAR2 offset. -/
def windowOff (s : State) (host x : Nat) : Nat := (s.hport host).win.toNat * 2 ^ 30 + x

/-- The access lies beyond BAR2 as it is sized now, so it is no access of the window (R467; PRESUMED, log entry 124). -/
def beyondBar (s : State) (host off len : Nat) : Bool := decide (off + len > bar2Size (s.hport host))

/-- The access reaches beyond HBM. -/
def beyondHbm (off len : Nat) : Bool := decide (off ≥ hbmBytes) || decide (off + len > hbmBytes)

/-- A refusal of BAR2 is logged with its own code at the host die, and stops no unit. -/
def windowRefused (s : State) (code off : Nat) : State :=
  record s { code := code, unit := unitHost, kind := 1, data := dataAddr (mkAddr 0xFFF 0 off) }

/-- BAR2_READ: committed memory; a line whose check fails leaves as poisoned data (R432). A stack that sleeps wakes
first. -/
def execBar2Read (host offset length : Nat) (s : State) : Res :=
  portRead host s <|
    let off := windowOff s host offset
    if beyondBar s host offset length then s.emit (.bar2Unsupported host)
    else if beyondHbm off length then note (s.emit (.bar2Unsupported host)) 0x0B02 1 unitHost
    else
      let code := refusal s .engine .read none 0 off length
      if code ≠ 0 then windowRefused (s.emit (.bar2Abort host)) code off
      else if !unitReady s 0 off length then wakeUnit s 0 off length
      else
        let m := memRead' s none 0 off length false
        let bad := m.2.1 != .good
        let s1 := m.2.2.emit (.bar2 host m.1 bad)
        if bad then record s1 { code := 0x0205, detail := 4, unit := unitHost, kind := 1, data := dataAddr (mkAddr 0xFFF 0 off) } else s1

/-- BAR2_WRITE: a poisoned TLP enters marked bad (R432). -/
def execBar2Write (host offset : Nat) (data : Bytes) (poisoned : Bool) (s : State) : Res :=
  portRead host s <|
    let off := windowOff s host offset
    let n := data.length
    if beyondBar s host offset n then s
    else if beyondHbm off n then note s 0x0B02 1 unitHost
    else
      let code := refusal s .engine .write none 0 off n
      if code ≠ 0 then windowRefused s code off
      else if !unitReady s 0 off n then wakeUnit s 0 off n
      else
        let s1 := memWrite' s none 0 off data poisoned
        if poisoned then record s1 { code := 0x0205, detail := 5, unit := unitHost, kind := 1, data := dataAddr (mkAddr 0xFFF 0 off) } else s1

/-! ### Port resets (R470, R471) -/

/-- The state an outcome goes on in. -/
def goOn (s : State) (r : Res) : State :=
  match r with
  | .next t => t
  | _ => s

/-- Complete the pending reads of a port's host memory with FLT_HOST_XFER; a tile that has stopped raises nothing. -/
def cutReads (s : State) (p : Nat) : State :=
  let running (u : State) (t : Nat) : Bool := (u.tile t).trun != 3
  let s1 := s.reqs.foldl (fun u r =>
    match r.issuer with
    | .thread t k => if addrSpace r.addr == 3 + p && running u t then goOn u (threadReadFails t k u) else u
    | _ => u) s
  s1.tiles.foldl (fun u x =>
    x.2.copies.foldl (fun w c => if addrSpace c.block.src == 3 + p && running w x.1 then goOn w (copyReadFails x.1 c.id w) else w) u) s1

/-- The registers of a ring pair at reset; its pitch ends as it does. -/
def resetRingRegs (r : RingPair) : RingPair := { phase := r.phase, descs := r.descs, pitch := r.pitch, deferred := r.deferred, sent := r.sent }

/-- Reset the RING registers of a port. -/
def resetRings (s : State) (p : Nat) : State :=
  let s1 := { s with cmd := { s.cmd with doorbell := tdel s.cmd.doorbell p, shadow := tdel s.cmd.shadow p, polled := tdel s.cmd.polled p } }
  ((List.range 16).map (16 * p + ·)).foldl (fun u r => if (tget? u.cmd.rings r).isSome then u.setRing r (resetRingRegs (u.ring r)) else u) s1

/-- Reset the IRQ registers, the window and the vectors of a port; its link stays as it is. -/
def resetHostRegs (h : HostPort) : HostPort :=
  { speed := h.speed, flit := h.flit, width := h.width, up := h.up, perst := h.perst, downAt := h.downAt, cfg := h.cfg }

/-- Port p is reset; `cfg` gives its configuration space. -/
def resetPort (s : State) (p detail : Nat) (cfg : HostPort → Table W32) : State :=
  let rs := ((List.range 16).map (16 * p + ·)).filter (fun r => (s.ring r).phase != .disabled)
  let s1 := cutReads (rs.foldl disableRing s) p
  let mine (a : Attest) : Bool := match a.for_ with | .host q _ => q == p | .management _ => false
  let s2 := resetRings { s1 with
    log := { s1.log with mirEn := s1.log.mirEn && b2n s1.log.mirPort != p }
    sec := { s1.sec with attests := s1.sec.attests.filter (fun a => !mine a), attBusy := s1.sec.attBusy && !s1.sec.attests.any mine } } p
  note (modHost s2 p (fun h => { resetHostRegs h with cfg := cfg h })) 0x0B04 detail unitHost

/-- A Function Level Reset, or the entry to D3hot that acts as one (R465, R470). -/
def functionReset (s : State) (host : Nat) (d3hot : Bool) : State := resetPort s host 3 (fun h => cfgAfterFlr h d3hot)

/-- FUNCTION_LEVEL_RESET: an FLR, or the entry to D3hot. -/
def execFunctionLevelReset (host : Nat) (s : State) (d3hot : Bool := false) : Res := portRead host s (functionReset s host d3hot)

/-- The port's domain is on. -/
def hostPowered (s : State) (p : Nat) : Bool := s.pwr.domains.contains (153 + p)

/-- PERST_ASSERT: the link is down with the reset. -/
def execPerstAssert (host : Nat) (s : State) : Res :=
  onUnit 2 host <|
    let down (u : State) : State := modHost u host (fun h => { h with
      perst := true, up := false, speed := 0, flit := false, width := 0, downAt := if h.up then u.clk else h.downAt })
    .next (if hostPowered s host then down (resetPort s host 4 (fun _ => [])) else down s)

/-- Widths and speeds of R463. -/
def linkOk (speed : BitVec 3) (lanes : BitVec 4) : Bool :=
  decide (1 ≤ speed.toNat) && decide (speed.toNat ≤ 6) && [1, 2, 4, 8].contains lanes.toNat

/-- HBM training has ended on every stack. -/
def trainingEnded (s : State) : Bool := (List.range 24).all (fun k => (s.stack k).trained || (s.stack k).failed)

/-- HOST_LINK_TRAIN: after PERSTp_N rises, with the port's domain on and HBM training ended; FLIT mode at 64 GT/s
(R463, R472). -/
def execHostLinkTrain (host : Nat) (speed : BitVec 3) (lanes : BitVec 4) (s : State) : Res :=
  onUnit 2 host <|
    ifDue (hostPowered s host && !(s.hport host).up && linkOk speed lanes && trainingEnded s) s
      (mirrorEarly (modHost s host (fun h => { h with perst := false, up := true, speed := speed, width := lanes, flit := speed == 6 })))

/-! ### Vectors (R473) -/

/-- MSIX_MODERATION_TIMER. -/
def execMsixModerationTimer (host vector : Nat) (s : State) : Res :=
  onUnit 2 host <| onUnit 256 vector <|
    let x := vectorOf s host vector
    ifDue (x.timing && decide (x.count > 0) && s.passed x.firstAt (s.hport host).modTime.toNat) s (vectorFire s host vector)

/-- Unmask a vector: with its PBA bit set, one message goes out at once. -/
def unmask (s : State) (host vector : Nat) : State :=
  let x := vectorOf s host vector
  if x.pba then sendMessage (setVector s host vector { x with masked := false, pba := false, count := 0, timing := false }) host vector
  else setVector s host vector { x with masked := false }

/-- MSIX_VECTOR_UNMASK. -/
def execMsixVectorUnmask (host vector : Nat) (s : State) : Res := onUnit 256 vector <| portRead host s <| unmask s host vector

/-! ### BAR4 and configuration space (R465 to R467) -/

/-- A write of BAR4: an entry's address, data or mask bit; the PBA is read only. -/
def writeBar4 (s : State) (host offset v : Nat) : State :=
  let k := offset / 16
  let x := vectorOf s host k
  if offset ≥ 0x1000 ∨ offset % 4 ≠ 0 then s
  else match offset % 16 with
    | 0 => setVector s host k { x with addr := BitVec.ofNat 64 (x.addr.toNat / 2 ^ 32 * 2 ^ 32 + v / 4 * 4) }
    | 4 => setVector s host k { x with addr := BitVec.ofNat 64 (v * 2 ^ 32 + x.addr.toNat % 2 ^ 32) }
    | 8 => setVector s host k { x with data := BitVec.ofNat 32 v }
    | _ => if bit v 0 then setVector s host k { x with masked := true } else if x.masked then unmask s host k else s

/-- The port reports its latency tolerance, 1 µs, when reporting is turned on (R465). -/
def reportTolerance (s : State) (host offset before v : Nat) : State :=
  if offset = 0x88 ∧ bit v 10 ∧ !bit before 10 then s.emit (.tolerance host 1000 1000) else s

/-- A write of configuration space: `Initiate FLR` and the entry to D3hot act as the reset they are, and the return to D0
resets the space (No_Soft_Reset is 0). -/
def writeConfig (s : State) (host offset v : Nat) : State :=
  let h := s.hport host
  if offset ≥ 2 ^ 12 ∨ offset % 4 ≠ 0 then s
  else if offset = 0x68 ∧ bit v 15 then functionReset s host false
  else if offset = 0x44 ∧ v % 4 = 3 ∧ powerState h = 0 then functionReset s host true
  else if offset = 0x44 ∧ v % 4 = 0 ∧ powerState h = 3 then modHost s host (fun x => { x with cfg := [] })
  else reportTolerance (modHost s host (fun x => cfgStore x offset v)) host offset (cfgWord h offset) v

/-- REGISTER_WRITE: a 4-byte write of a port's BAR0, BAR4 or configuration space. -/
def execRegisterWrite (host offset : Nat) (value : W32) (s : State) (space : HostSpace := .bar0) : Res :=
  match space with
  | .bar0 => writeBar0 host offset value s
  | .bar4 => portRead host s (writeBar4 s host offset value.toNat)
  | .config => portRead host s (writeConfig s host offset value.toNat)

/-! ### The log ring comes up (R440) -/

/-- Every stack has trained. -/
def hbmTrained (s : State) : Bool := (List.range 24).all (fun k => (s.stack k).trained)

/-- LOG_RING_UP: the early buffer's records that the ring does not hold go to it, with their `LSEQ`; the buffer keeps
them. -/
def execLogRingUp (s : State) : Res :=
  ifDue (s.log.en && !s.log.ringUp && hbmTrained s) s <|
    let s1 := (s.log.early.drop s.log.copied).foldl writeRing s
    modLog s1 (fun l => { l with ringUp := true, copied := l.early.length })

end Sys2Proof.Machine
end

