-- ==== Sys2Proof/Machine/Pins.lean ====
section
/-! DEFINITION. The pins and the power-up order (R415, R416, R484 to R489): auxiliary power, the clock, PWR_OK, the
domains, HBM training and RESET_N. -/

namespace Sys2Proof.Machine

/-! ### What a loss of power or a reset leaves -/

/-- A flash operation that power loss or reset cuts off leaves its bytes at free values (DESIGN CHOICE, log entry 4). -/
def flashInterrupted (s : State) : State :=
  let a := s.sec.fOpAddr.toNat
  let free (n : Nat) : State :=
    { s with
      free := s.free + n
      sec := { s.sec with
        fOp := .none
        flash := memWrite erasedByte s.sec.flash a ((List.range n).map (fun i => BitVec.ofNat 8 (Config.freeWord (s.free + i)).toNat)) } }
  match s.sec.fOp with
  | .erase => free 65536
  | .program => free 4096
  | _ => s

/-- Everything at reset but what lies outside the part's volatile state: the flash and its authenticated storage, the
drives, and the host reset pins. -/
def freshPart (s : State) : State :=
  { clk := s.clk
    free := s.free
    out := s.out
    pending := s.pending
    snap := { drives := s.snap.drives }
    host := freshHost s
    sec := { flash := s.sec.flash, owner := s.sec.owner, ownerKey := s.sec.ownerKey, floor := s.sec.floor } }

/-! ### Auxiliary power -/

/-- VAUX_RISE: the service die wakes and latches the straps; a fresh debug challenge is drawn (R460). -/
def execVauxRise (straps : BitVec 4) (s : State) : Res :=
  ifDue (!s.pins.vaux) s
    (newChallenge { freshPart s with pins := { vaux := true, powerOk := s.pins.powerOk, straps := straps } })

/-- VAUX_REMOVE: the converters stop; nothing is recorded. -/
def execVauxRemove (s : State) : Res :=
  ifDue s.pins.vaux s
    (let s1 := flashInterrupted (floorInterrupted s)
     { freshPart s1 with pins := { powerOk := s.pins.powerOk } })

/-! ### The clock (R415, R416) -/

/-- The FATAL fault of a lost clock. -/
def clockFault (s : State) : State :=
  fatal { s with log := { s.log with ringUp := false } } { code := 0x0903, unit := unitService }

/-- ROOT_PLL_LOCK: by T0 + 1 s the PLL has locked, or boot stops. -/
def execRootPllLock (locked : Bool) (s : State) : Res :=
  ifDue (s.pins.vaux && !s.pins.resetLow && !s.time.pllLocked && !s.time.clockLost) s
    (if locked then { s with time := { s.time with pllLocked := true } }
     else
       let s1 := clockFault s
       { s1 with time := { s1.time with clockLost := true }, sec := { s1.sec with bootFailed := true } })

/-- CLOCK_LOSS: every VIN12 domain switches off, as in a trip but without THERMTRIP_N. -/
def execClockLoss (s : State) : Res :=
  ifDue (s.pins.vaux && s.time.pllLocked) s
    (let s1 := domainsOff (clockFault s)
     { s1 with
       time := { s1.time with pllLocked := false, clockLost := true }
       pwr := { s1.pwr with phase := if s1.pwr.phase = .tripped then .tripped else .off } })

/-! ### PWR_OK (R486) -/

/-- Enabling may run: the firmware is verified, the clock runs, and neither RESET_N nor a trip holds the part. -/
def mayEnable (s : State) : Bool := s.pins.vaux && s.sec.verified && s.time.pllLocked && !s.pins.resetLow && !s.pins.tripLow

/-- PWR_OK_RISE: after an earlier loss, enabling starts again without a new verification. -/
def execPwrOkRise (s : State) : Res :=
  ifDue (!s.pins.powerOk) s
    (let s1 := { s with pins := { s.pins with powerOk := true } }
     if mayEnable s && s.pwr.phase == .off then { s1 with pwr := { s1.pwr with phase := .enabling } } else s1)

/-- PWR_OK_FALL. -/
def execPwrOkFall (s : State) : Res :=
  ifDue s.pins.powerOk s
    (let s1 := { s with pins := { s.pins with powerOk := false } }
     if s.pwr.phase = .off ∨ s.pwr.phase = .tripped then s1
     else
       let s2 := domainsOff s1
       { s2 with pwr := { s2.pwr with phase := .off, powerOkLoss := true, lossAt := some s.clk } })

/-! ### The order of R485 -/

/-- The domains in the order in which they are enabled. Rope ports follow their `PCTL.EN`. -/
def powerOrder (straps : BitVec 4) : List Nat :=
  (List.range 12).map (9 * · + 8) ++ (List.range 24).map (108 + ·) ++ rowDomains ++ (List.range 4).map (5 * · + 136) ++ [152] ++
    (if straps.getLsbD 1 then [155] else []) ++ [153] ++ (if straps.getLsbD 0 then [154] else [])

/-- A tile after the power-up test: NARROW on its good columns, OFF when W is 0; its banks start to clear. -/
def testTile (s : State) (t : Nat) (bad : BitVec 260) : State :=
  let s1 := clearTile 0 s t
  s1.setTile t { s1.tile t with badMap := bad, mode := if widthFor 0 bad = 0 then 2 else 0 }

/-- The record of a trip goes to the log when the part next reaches RUN (R412). -/
def logTrip (s : State) : State :=
  match s.log.trip with
  | some r => modLog (storeRecord s { r with lseq := s.log.next }) (fun l => { l with trip := none })
  | none => s

/-- The controller reaches RUN when every domain is enabled and HBM has trained; the shares start at their floors. -/
def settleRun (s : State) : State :=
  if s.pwr.phase = .enabling ∧ s.pwr.upDone ≥ (powerOrder s.pins.straps).length ∧ hbmTrained s = true then
    logTrip (modPwr s (fun p => { p with
      phase := .run, own := p.floorComp, comp := p.floorComp, mem := p.floorMem, link := p.floorLink, tickAt := s.clk }))
  else s

/-- One domain is on: a tile row is tested and its banks clear. -/
def enableDomain (s : State) (d : Nat) (tests : Table (BitVec 260)) : State :=
  let s1 := modPwr s (fun p => { p with domains := insertNat d p.domains, upDone := p.upDone + 1 })
  if d < 108 ∧ d % 9 ≠ 8 then
    rowRelease ((rowTiles d).foldl (fun u t => testTile u t (tget tests t 0)) s1) (d / 9 * 96 + d % 9 * 12)
  else s1

/-- DOMAIN_ENABLE: the next domain of the order, once the level is back on the up-ramp (R388). -/
def execDomainEnable (tests : Table (BitVec 260)) (s : State) : Res :=
  match (powerOrder s.pins.straps)[s.pwr.upDone]? with
  | some d => ifDue (mayEnable s && s.pins.powerOk && s.pwr.phase == .enabling && rampUpOk s) s (settleRun (enableDomain s d tests))
  | none => .next s

/-! ### HBM training (R212, R494) -/

/-- The stack's granules hold zeros with clean side-band. -/
def clearStack (s : State) (k : Nat) : State :=
  let keep (g : Nat) : Bool := stackOfPlace g != k
  { s with hbm := { s.hbm with
    mem := s.hbm.mem.filter (fun c => keep (c.1 / 256))
    marks := s.hbm.marks.filter (fun x => keep x.1)
    held := s.hbm.held.filter (fun x => keep x.1)
    writeback := s.hbm.writeback.filter keep
    ueSeen := s.hbm.ueSeen.filter keep
    logged := s.hbm.logged.filter keep } }

/-- HBM_TRAINING_COMPLETE: a trained stack is cleared and tells its repaired rows and its spares; one that fails is
FATAL. -/
def execHbmTrainingComplete (stack : Nat) (ok : Bool) (repaired : List Nat) (spares : Table Nat) (s : State) : Res :=
  onUnit 24 stack <|
    let k := s.stack stack
    ifDue (s.pwr.domains.contains (108 + stack) && !k.trained && !k.failed) s
      (if ok then
        let s1 := clearStack s stack
        let s2 := { s1 with hbm := { s1.hbm with
          repaired := (repaired.filter (fun r => r / 2 ^ 26 == stack)) ++ s1.hbm.repaired
          spares := (List.filter (fun (x : Nat × Nat) => x.1 / 2048 == stack) spares).foldl (fun (t : Table Nat) (x : Nat × Nat) => tset t x.1 x.2) s1.hbm.spares } }
        settleRun (s2.setStack stack { k with trained := true, access := s.clk })
       else fatal (s.setStack stack { k with failed := true }) { code := 0x0307, unit := unitStack stack })

/-! ### RESET_N (R487) -/

/-- RESET_N_ASSERT: the whole part is reset; sensor readings go on, a trip stays until its release condition holds, and
the record of a trip is kept. Each PREPARED stage that it drops is logged first (R347). -/
def execResetNAssert (s : State) : Res :=
  ifDue (s.pins.vaux && !s.pins.resetLow) s
    (let s1 := flashInterrupted (floorInterrupted (dropAllStages s))
     let trip := s.pins.tripLow && !diesCool s
     newChallenge { freshPart s1 with
       pwr := { spots := s.pwr.spots, dieTemp := s.pwr.dieTemp, dieHist := s.pwr.dieHist, phase := if trip then .tripped else .off }
       time := { pllLocked := s.time.pllLocked }
       log := { trip := s.log.trip }
       pins := { vaux := true, powerOk := s.pins.powerOk, straps := s.pins.straps, resetLow := true, tripLow := trip } })

/-- RESET_N_RELEASE: boot may run again, unless THERMTRIP_N is still low. -/
def execResetNRelease (s : State) : Res :=
  ifDue (s.pins.vaux && s.pins.resetLow) s
    (let trip := s.pins.tripLow && !diesCool s
     { s with
       pins := { s.pins with resetLow := false, tripLow := trip }
       pwr := { s.pwr with phase := if trip then .tripped else .off } })

end Sys2Proof.Machine
end

