-- ==== Sys2Proof/Machine/Management.lean ====
section
/-! DEFINITION. The management endpoint (R461): served from VAUX onward, in FATAL halts and in TRIPPED. -/

namespace Sys2Proof.Machine

/-- A management command that only answers, through the endpoint it came through. -/
def answerManagement (s : State) (via : Endpoint) (command : Byte) (data : Bytes) : Res :=
  ifDue (managed s via) s (s.emit (.management via command data))

/-- The record of a trip that the service die keeps, when it has that `LSEQ` (R412; the choice among two records of one
`LSEQ`: DESIGN CHOICE, log entry 120). -/
def tripRecord (s : State) (lseq : W32) : Option LogRecord := s.log.trip.filter (fun r => r.lseq == lseq)

/-- The bytes of a record: the kept record of a trip, else from the early buffer, or from the ring when it holds that
`LSEQ`; none when none does. -/
def recordFor (s : State) (lseq : W32) : Bytes :=
  match tripRecord s lseq with
  | some r => recordBytes r
  | none =>
    match s.log.early.find? (fun r => r.lseq == lseq) with
    | some r => recordBytes r
    | none =>
      let off := s.log.region.toNat * 2 ^ 30 + lseq.toNat % 2 ^ s.log.log2n.toNat * 64
      let b := memRead zeroByte s.hbm.mem (physKey s off) 64
      if s.log.ringUp && field b 0 4 == lseq.toNat then b else []

/-- GET_LOG. -/
def execGetLog (lseq : W32) (s : State) (via : Endpoint := .smbus) : Res := answerManagement s via 0x01 (recordFor s lseq)

/-- GET_SENSORS: `PSTAT`, `PDIE0` to `PDIE17`, `PCOOL`. -/
def execGetSensors (s : State) (via : Endpoint := .smbus) : Res :=
  answerManagement s via 0x02 (leBytes 4 (readPstat s) ++ (List.range 18).flatMap (fun i => leBytes 4 (readPdie s i)) ++ leBytes 4 (readPcool s))

/-- GET_CERT: 64 bytes of the certificate's 4 KiB. -/
def execGetCert (offset : Nat) (s : State) (via : Endpoint := .smbus) : Res := answerManagement s via 0x03 (slice (certBytes s) offset 64)

/-- GET_CHAL. -/
def execGetChal (s : State) (via : Endpoint := .smbus) : Res := answerManagement s via 0x05 (beBytes 32 s.sec.challenge.toNat)

/-- GET_BOOT: `SSTAT`, `SBOOT`, `SFLOOR`, `SSVN`. -/
def execGetBoot (s : State) (via : Endpoint := .smbus) : Res :=
  answerManagement s via 0x07 (leBytes 4 (readSstat s) ++ leBytes 4 (readSboot s) ++ leBytes 4 s.sec.floor.toNat ++ leBytes 4 s.sec.svn.toNat)

/-- The vendor ID of `ID.IVEND`. -/
def vendorId : Nat := 0x1F3A

/-- MCTP_CONTROL_MESSAGE: control messages, and messages of type 0x7E that carry the vendor ID, are supported; every other
one is answered as unsupported. -/
def execMctpControlMessage (messageType : Byte) (s : State) (vendor : Nat := 0) (via : Endpoint := .smbus) : Res :=
  ifDue (managed s via) s (s.emit (.mctp via messageType (messageType == 0 || (messageType == 0x7E && vendor == vendorId))))

end Sys2Proof.Machine
end

