-- ==== Sys2Proof/Machine/Mesh.lean ====
section
/-! DEFINITION. Delivery of mesh messages (R183 to R185): what a single or a double error does to a message, and where a
thread's request goes: to a tile, on to a controller, or out of the part. -/

namespace Sys2Proof.Machine

/-- The tile at which a message to an address meets its errors: the tile it goes to, or the issuing tile when it goes to a
gateway. -/
def meshTile (s : State) (a : W64) (issuer : Nat) : Nat :=
  if isOwn s a && addrSpace a == 1 then addrTile a else issuer

/-- Deliver a message with the errors it met: a single error is corrected and logged, a double one discards the message and
stops the tile. `go` is none while the message cannot be delivered yet. -/
def meshDeliver (s : State) (tile : Nat) (a : W64) (errors : MeshErrors) (lost : State) (go : State → Option State) : State :=
  match errors with
  | .double => engineRaise lost tile 0x0203 0 1 (dataAddr a)
  | .single => (go (note s 0x0202 0 (unitTile tile))).getD s
  | .none => (go s).getD s

/-- A request reaches the network port of a tile of this part. -/
def requestAtTile (r : MemReq) (s : State) : Option State :=
  let acc : Acc := match r.act with | .read => .read | .write _ => .write | .atomic _ _ _ => .atomic
  let code := refusal s r.issuer acc none 1 (addrOff r.addr) r.len
  if code ≠ 0 then some (raiseAt (dropReq s r.id) r.issuer code 0 r.addr)
  else if r.act.isRead && !lineFree s r then none
  else if !unitReady s 1 (addrOff r.addr) r.len then some (wakeUnit s 1 (addrOff r.addr) r.len)
  else some (performAtTile s r)

/-- A host port has room for one more read: at most `readLimit` are outstanding (R463). -/
def hostRoom (s : State) (p : Nat) : Bool :=
  decide ((s.reqs.filter (fun q => q.away && q.reply == .none && addrSpace q.addr == 3 + p)).length < readLimit (s.hport p))

/-- A request reaches a gateway on its way to another part or a host: it leaves when the fabric agent has room (R137), a host
read when its port has (R463), a load when no posted store to its line is outstanding (R148). -/
def requestAtGateway (r : MemReq) (s : State) : Option State :=
  let host := addrSpace r.addr == 3 || addrSpace r.addr == 4
  if (r.act.isRead && !lineFree s r) || (!host && !agentRoom s ((issuerTile r.issuer).getD 0)) ||
    (host && r.act.isRead && !hostRoom s (addrSpace r.addr - 3)) then none
  else if r.act.isRead && !cacheReady s (r.addr &&& ~~~127#64) then some (wakeCache s r.addr)
  else some (sendAway s r)

/-- A thread's request on its way out; one to HBM goes on to its controller. -/
def deliverRequest (id : Nat) (errors : MeshErrors) (s : State) : State :=
  match reqOf s id with
  | none => s
  | some r =>
    if r.reply != .none || r.away || !firstInOrder s r then s
    else meshDeliver s (meshTile s r.addr ((issuerTile r.issuer).getD 0)) r.addr errors (dropReq s id) (fun u =>
      if !isOwn u r.addr || decide (addrSpace r.addr > 1) then requestAtGateway r u
      else if addrSpace r.addr = 0 then some u else requestAtTile r u)

/-- The answer to a thread's request on its way back. -/
def deliverReply (id : Nat) (errors : MeshErrors) (s : State) : State :=
  match reqOf s id with
  | none => s
  | some r =>
    if replyOf s r = .none then s
    else meshDeliver s ((issuerTile r.issuer).getD 0) r.addr errors (closeReq s id) some

/-- A message of a copy's line: `dest` gives the address that it goes to, none when it comes to the copy's tile. A line whose
message is lost never lands. -/
def deliverLine (tile copy line : Nat) (dest : CopyRun → Nat × W64 → Option W64) (errors : MeshErrors) (s : State) : State :=
  match copyOf s tile copy with
  | none => s
  | some c =>
    match c.todo[line]? with
    | none => s
    | some e =>
      if line ≥ lineWindow s tile copy then s
      else
        let lost := setCopy s tile { c with todo := c.todo.eraseIdx line, lost := true }
        match dest c e with
        | some a => meshDeliver s (meshTile s a tile) a errors lost some
        | none => meshDeliver s tile e.2 errors lost some

/-- The next request of another part on its way from the hub to the tile that it names. -/
def deliverInbound (src : Nat) (errors : MeshErrors) (s : State) : State :=
  match firstDelivered s src 0 with
  | none => s
  | some (k, _) =>
    if packetSpace k = 1 ∧ packetOff k / 2 ^ 24 < 1152 then
      meshDeliver s (packetOff k / 2 ^ 24) (homeAddr k) errors (takeDelivered s src 0) some
    else s

/-- MESH_MESSAGE_DELIVER. -/
def execMeshMessageDeliver (message : MeshMessage) (errors : MeshErrors) (s : State) : Res :=
  .next (match message with
  | .request id => deliverRequest id errors s
  | .reply id => deliverReply id errors s
  | .copyAsk tile copy line => deliverLine tile copy line (fun c e => some (linePart c.block e.1 e.2).src) errors s
  | .copyIn tile copy line => deliverLine tile copy line (fun _ _ => none) errors s
  | .copyOut tile copy line => deliverLine tile copy line (fun _ e => some e.2) errors s
  | .inbound src => deliverInbound src errors s)

end Sys2Proof.Machine
end

