-- ==== Sys2Proof/Machine/Vector.lean ====
section
/-! DEFINITION. The vector engine and the rank unit (chapter 04). An instruction reads its sources when it starts and ends
with VECTOR_COMPLETE, which writes the status record; a register-to-register instruction writes its destination there too
(R111). The other instructions write when they start (DEDUCED, log entry 6). -/

namespace Sys2Proof.Machine

/-! ### Operand specifiers (R109, R110) -/

/-- An operand: a register, an accumulator tile (bank, transposed layout, RB, CB), or none. -/
inductive VSpec where
  | reg (n : Nat)
  | acc (bank lay : Bool) (rb cb : Nat)
  | absent
  deriving DecidableEq, Repr

/-- Rows and columns of 16 × 16 tiles in a layout. -/
def tileRows (lay : Bool) : Nat := if lay then 8 else 16
def tileCols (lay : Bool) : Nat := if lay then 32 else 16
/-- Entries in a row of a layout (R90). -/
def layCols (lay : Bool) : Nat := if lay then 512 else 256
/-- Rows of a layout. -/
def layRows (lay : Bool) : Nat := if lay then 128 else 256

/-- Read a 14-bit specifier; none where a bit is reserved or a tile is out of range. -/
def specOf (n : Nat) : Option VSpec :=
  match n % 4 with
  | 0 => if n / 128 = 0 then some (.reg (bits n 6 2)) else none
  | 1 =>
    let lay := bit n 3
    if bits n 8 4 < tileRows lay ∧ bits n 13 9 < tileCols lay then some (.acc (bit n 2) lay (bits n 8 4) (bits n 13 9)) else none
  | 2 => if n / 4 = 0 then some .absent else none
  | _ => none

/-- The operand is an accumulator tile. -/
def VSpec.isAcc : VSpec → Bool
  | .acc _ _ _ _ => true
  | _ => false

/-- Index of position p (16r + c) of an accumulator tile. -/
def accIndex (lay : Bool) (rb cb p : Nat) : Nat := (16 * rb + p / 16) * layCols lay + 16 * cb + p % 16

/-- The word at position p of an operand. -/
def readSpec (t : Tile) (x : VSpec) (p : Nat) : W32 :=
  match x with
  | .reg n => tget t.vregs (n * 256 + p) 0
  | .acc b lay rb cb => tget (t.accum b) (accIndex lay rb cb p) 0
  | .absent => 0

/-- The 256 words of an operand. -/
def specWords (t : Tile) (x : VSpec) : List W32 := (List.range 256).map (readSpec t x)

/-- Write the 256 words of a destination; their codes are fresh (R434). -/
def writeSpec (t : Tile) (x : VSpec) (ws : List W32) : Tile :=
  match x with
  | .reg n =>
    { t with
      vregs := tsetRun t.vregs (n * 256) ws
      storeMarks := t.storeMarks.filter (fun m => match m.1 with | .register k _ => k != n | _ => true) }
  | .acc b lay rb cb =>
    (List.range 16).foldl (fun u r => u.putAccum b (accIndex lay rb cb (16 * r)) ((ws.drop (16 * r)).take 16)) t
  | .absent => t

/-- The stored codes that reading an operand meets. -/
def specReads (x : VSpec) (m : TileStore) : Bool :=
  match x, m with
  | .reg n, .register k _ => k == n
  | .acc b lay rb cb, .accumulator k e => k == b2n b &&
      decide (16 * rb ≤ e / layCols lay) && decide (e / layCols lay < 16 * rb + 16) &&
      decide (16 * cb ≤ e % layCols lay) && decide (e % layCols lay < 16 * cb + 16)
  | _, _ => false

/-! ### Starting and ending an instruction -/

/-- The head of the vector queue, on a tile that runs or drains, once the instruction before has ended (R112). -/
def vectorHead (s : State) (tile : Nat) : Option W128 :=
  let t := s.tile tile
  if (t.trun = 1 ∨ t.trun = 2) ∧ t.vrun.isNone = true ∧ s.floored = false then t.vqueue.head? else none

/-- The instruction under way. -/
def runVector (s : State) (tile : Nat) (r : VectorRun) : State := s.setTile tile { s.tile tile with vrun := some r }

/-- A refused instruction: one cycle and its fault (R112). -/
def refuseVector (s : State) (tile : Nat) (w : W128) (code : Nat) (addr off : Nat := 0) : State :=
  runVector s tile { word := w, cycles := 1, faddr := BitVec.ofNat 64 addr, foff := off, status := { fault := BitVec.ofNat 16 code } }

/-- Serve the head of the vector queue when it is of the opcode: reserved bits and the status record's place are checked,
then the body runs. -/
def startVector (op tile : Nat) (s : State) (body : W128 → State → State) : Res :=
  onTile tile <|
    match vectorHead s tile with
    | none => .next s
    | some w => ifDue (opOf w == op) s
        (let u := s.setTile tile { s.tile tile with vqueue := (s.tile tile).vqueue.tail }
         if wbits w 127 126 ≠ 0 then refuseVector u tile w 0x010A
         else if areasOk (statusArea w) = false then refuseVector u tile w 0x0105
         else body w u)

/-- The status record of R133. -/
def vectorRecord (r : VectorRun) (cycles : Nat) : Bytes :=
  let x := r.status
  layout 32 [(0, 1, opOf r.word),
    (1, 1, b2n x.nf + 2 * b2n x.sat + 4 * b2n x.invalid + 8 * b2n x.overflow + 16 * b2n x.underflow + 32 * b2n x.inexact + 64 * b2n x.divZero),
    (2, 2, x.fault.toNat), (4, 4, x.nfIndex.toNat), (8, 4, x.nfBlock.toNat), (12, 1, x.nfSrc.toNat), (13, 1, x.invReg.toNat),
    (14, 2, x.invPos.toNat), (16, 4, x.nfCount.toNat), (20, 4, x.satCount.toNat), (24, 4, x.rwords.toNat), (28, 4, cycles)]

/-- An instruction ends: record, counter, the pitch's counts and the report of a non-finite output. -/
def endVector (s : State) (tile : Nat) (r : VectorRun) (cycles : Nat) : State :=
  let x := r.status
  let s1 := completeWord s tile r.word (vectorRecord r (cycles % 2 ^ 32))
  reportNf (addPitchCounts s1 tile x.nfCount.toNat x.satCount.toNat) tile x.nf

/-- Read runs of the tile's SRAM and the codes of accumulators and registers; a bad one ends the instruction with its
record, with nothing written, and stops the tile (R101, R134). -/
def withCodes (s : State) (tile : Nat) (w : W128) (runs : List (Nat × Nat)) (hit : TileStore → Bool) (k : State → State) : State :=
  let t := s.tile tile
  let ended := endVector s tile { word := w, cycles := 1, status := { fault := 0x0201 } } 1
  match runs.find? (fun a => bankBad t a.1 a.2) with
  | some a => bankChecks ended tile a.1 a.2
  | none =>
    if t.storeMarks.any (fun m => hit m.1 && m.2 == .uncorrectable) then storeChecks ended tile hit
    else
      let s1 := runs.foldl (fun u a => bankChecks (u.setTile tile ((u.tile tile).touch u.clk a.1 a.2)) tile a.1 a.2) s
      k (storeChecks s1 tile hit)

/-- The same for whole operands. -/
def withReads (s : State) (tile : Nat) (w : W128) (runs : List (Nat × Nat)) (specs : List VSpec) (k : State → State) : State :=
  withCodes s tile w runs (fun m => specs.any (fun x => specReads x m)) k

/-- Write the destination of a register-to-register instruction (R111). -/
def writeDest (s : State) (tile : Nat) (r : VectorRun) : State :=
  match specOf r.dest with
  | some d => s.setTile tile { writeSpec (s.tile tile) d r.words with vrun := none }
  | none => s.setTile tile { s.tile tile with vrun := none }

/-- VECTOR_COMPLETE: the destination, record, counter, the pitch's counts, the report of a non-finite output, and the
fault. -/
def execVectorComplete (tile stalls : Nat) (s : State) : Res :=
  onTile tile <|
    match (s.tile tile).vrun with
    | none => .next s
    | some r =>
      if s.floored then .next s else
      let x := r.status
      let s2 := endVector (writeDest s tile r) tile r (if x.fault = 0 then r.cycles + stalls else 1)
      .next (if x.fault = 0 then s2
        else if r.faddr = 0 ∧ r.foff = 0 then engineRaise s2 tile x.fault.toNat 0 0 []
        else engineRaise s2 tile x.fault.toNat 0 1 (dataPack r.faddr r.foff))

/-- The opcodes of R113. -/
def vectorOpcodes : List Nat :=
  [0x40, 0x41, 0x42, 0x43, 0x44, 0x45, 0x46, 0x47, 0x48, 0x49, 0x4A, 0x4B, 0x4C, 0x4D, 0x4E, 0x4F, 0x50, 0x51, 0x58, 0x59, 0x5A, 0x60]

/-- VECTOR_RESERVED_OPCODE. -/
def execVectorReservedOpcode (tile : Nat) (s : State) : Res :=
  onTile tile <|
    match vectorHead s tile with
    | none => .next s
    | some w => ifDue (!vectorOpcodes.contains (opOf w)) s
        (refuseVector (s.setTile tile { s.tile tile with vqueue := (s.tile tile).vqueue.tail }) tile w 0x010A)

/-! ### Results and their flags (R58, R60, R119) -/

/-- The exceptions of an element. -/
structure Ieee where
  invalid   : Bool := false
  overflow  : Bool := false
  underflow : Bool := false
  inexact   : Bool := false
  divZero   : Bool := false
  sat       : Bool := false
  deriving DecidableEq, Repr

/-- Both. -/
def Ieee.join (a b : Ieee) : Ieee :=
  ⟨a.invalid || b.invalid, a.overflow || b.overflow, a.underflow || b.underflow, a.inexact || b.inexact,
   a.divZero || b.divZero, a.sat || b.sat⟩

/-- What a rounding notes. -/
def Rounded.flags (r : Rounded) : Ieee := { overflow := r.overflow, underflow := r.underflow, inexact := r.inexact, sat := r.sat }

/-- One lane of a result: its code, its flags, whether it is a non-finite floating-point result, and the first operand
(0 A, 1 B, 2 C) whose value was non-finite. -/
structure Lane where
  code : Nat
  fl   : Ieee := {}
  nf   : Bool := false
  src  : Option Nat := none
  deriving DecidableEq, Repr

/-- An input of a lane: format, code, operand number. -/
abbrev LaneIn := Nat × Nat × Nat

/-- The value of an input. -/
def inNum (i : LaneIn) : FpNum := decodeNum (fmtOf i.1) i.2.1

/-- The first operand that is non-finite. -/
def badOperand (ins : List LaneIn) : Option Nat := (ins.find? (fun i => (inNum i).nonFinite)).map (·.2.2)

/-- Round a result into a lane. The infinity of a division by zero is no non-finite result of R58 (R60, R119; DEDUCED, log entry 105). -/
def laneFrom (fmt : Nat) (satf : Bool) (rnd r : Nat) (ins : List LaneIn) (x : FnResult) : Lane :=
  let y := roundNum (fmtOf fmt) satf rnd r x.1
  { code := y.code
    fl := y.flags.join { invalid := x.2.1 || ins.any (fun i => (inNum i).signals), divZero := x.2.2 }
    nf := (decodeNum (fmtOf fmt) y.code).nonFinite && !x.2.2
    src := badOperand ins }

/-- Bits of a lane of a format. -/
def laneWidth (fmt : Nat) : Nat := match fmt with | 0 => 32 | 1 => 16 | 2 => 16 | _ => 8

/-- Lane k of a word. -/
def laneOf (fmt : Nat) (w : W32) (k : Nat) : Nat := w.toNat / 2 ^ (laneWidth fmt * k) % 2 ^ laneWidth fmt

/-- The word of a position's lanes. -/
def joinLanes (fmt : Nat) (ls : List Lane) : W32 :=
  BitVec.ofNat 32 ((ls.zipIdx.map (fun l => l.1.code * 2 ^ (laneWidth fmt * l.2))).sum)

/-- The lower of two operand numbers. -/
def lowerSrc (a b : Option Nat) : Option Nat :=
  match a, b with
  | some x, some y => some (min x y)
  | some x, none => some x
  | none, y => y

/-- Add one element's lanes to a status: its index under R57, the register it lies in (0x20 for none) and its
position. -/
def addLanes (x : VectorStatus) (index reg pos : Nat) (ls : List Lane) : VectorStatus :=
  let fl : Ieee := ls.foldl (fun f l => f.join l.fl) ({} : Ieee)
  let bad := ls.filter (·.nf)
  let src := bad.foldl (fun m l => lowerSrc m l.src) none
  let x1 := { x with
    sat := x.sat || fl.sat, invalid := x.invalid || fl.invalid, overflow := x.overflow || fl.overflow
    underflow := x.underflow || fl.underflow, inexact := x.inexact || fl.inexact, divZero := x.divZero || fl.divZero
    nfCount := satInc x.nfCount bad.length, satCount := satInc x.satCount (ls.filter (fun l => l.fl.sat)).length }
  let x2 := if bad = [] ∨ (x.nf = true ∧ x.nfIndex.toNat ≤ index) then x1 else
    { x1 with
      nf := true, nfIndex := BitVec.ofNat 32 index
      nfSrc := if src.isSome then 2 else 3
      nfBlock := match src with | some k => BitVec.ofNat 32 k | none => 0xFFFFFFFF }
  match ls.zipIdx.find? (fun l => l.1.fl.invalid) with
  | some l => if x.invalid then x2 else
      { x2 with invReg := BitVec.ofNat 8 (reg + 64 * l.2), invPos := BitVec.ofNat 16 pos }
  | none => x2

/-- The number of a register in `INV_REG`. -/
def VSpec.number : VSpec → Nat
  | .reg n => n
  | _ => 0x20

/-- Random words drawn from a stream of a tile (R53). -/
def drawWords : (n : Nat) → (t : Tile) → (k : Nat) → List W128 × Tile
  | 0, t, _ => ([], t)
  | n + 1, t, k =>
    let d := drawStream t k
    let r := drawWords n d.2 k
    (d.1 :: r.1, r.2)

/-! ### Element-wise arithmetic (R114 to R119) -/

/-- `FMT`. -/
def vFmt (w : W128) : Nat := wbits w 11 8
/-- `RND`. -/
def vRnd (w : W128) : Nat := wbits w 13 12
/-- `SATF` (for packs, `FORM`). -/
def vSatf (w : W128) : Bool := bit w.toNat 14
/-- `AUX`. -/
def vAux (w : W128) : Nat := wbits w 95 81
/-- `RNG` of R114. -/
def vRng (w : W128) : Nat := wbits w 103 96

/-- Destination and sources, when each is present exactly as the instruction lists it. -/
def vOperands (w : W128) (n : Nat) : Option (VSpec × List VSpec) :=
  match specOf (wbits w 38 25), specOf (wbits w 52 39), specOf (wbits w 66 53), specOf (wbits w 80 67) with
  | some d, some a, some b, some c =>
    let fits (i : Nat) (x : VSpec) : Bool := (x == .absent) == decide (n ≤ i)
    if d ≠ .absent ∧ fits 0 a = true ∧ fits 1 b = true ∧ fits 2 c = true then some (d, [a, b, c].take n) else none
  | _, _, _, _ => none

/-- The checks of R113 to R118 for an instruction that computes in `FMT`: `aux` says which `AUX` it accepts, `bitsOnly`
that it copies bits. -/
def arithRefusal (w : W128) (n : Nat) (bitsOnly : Bool) (aux : Nat → Bool) : Nat :=
  if wbits w 107 104 ≠ 0 then 0x010A
  else if formatKnown (vFmt w) = false then 0x0107
  else if vFmt w > 1 ∨ (bitsOnly = true ∧ vFmt w ≠ 0) ∨ vRnd w = 2 ∨ vSatf w = true ∨ vRng w ≠ 0 then 0x010A
  else if aux (vAux w) = false then 0x010A
  else match vOperands w n with
    | none => 0x010A
    | some (d, as) => if vFmt w = 1 ∧ (d :: as).any VSpec.isAcc = true then 0x010A else 0

/-- Start an instruction that writes one operand with its lanes, position by position, in its last cycle (R111). -/
def writeLanes (s : State) (tile : Nat) (w : W128) (d : VSpec) (fmt cycles : Nat) (x0 : VectorStatus) (ls : List (List Lane)) : State :=
  let x := ls.zipIdx.foldl (fun x l => addLanes x l.2 d.number l.2 l.1) x0
  runVector s tile { word := w, cycles := cycles, dest := wbits w 38 25, words := ls.map (joinLanes fmt), status := x }

/-- Lanes in an element. -/
def lanes (fmt : Nat) : Nat := 32 / laneWidth fmt

/-- An instruction that computes each lane of its destination from the same lane of its sources. -/
def execLanes (op n cycles tile : Nat) (aux : Nat → Bool) (s : State) (f : W128 → List LaneIn → Lane) : Res :=
  startVector op tile s (fun w u =>
    let code := arithRefusal w n false aux
    match vOperands w n with
    | none => refuseVector u tile w code
    | some (d, as) =>
      if code ≠ 0 then refuseVector u tile w code
      else withReads u tile w [] as (fun v =>
        let t := v.tile tile
        let fmt := vFmt w
        writeLanes v tile w d fmt cycles {} ((List.range 256).map (fun p => (List.range (lanes fmt)).map (fun k =>
          f w (as.zipIdx.map (fun a => (fmt, laneOf fmt (readSpec t a.1 p) k, a.2))))))))

/-- No `AUX` bit is used. -/
def noAux (a : Nat) : Bool := a == 0

/-- Operand i of a lane. -/
def laneNum (ins : List LaneIn) (i : Nat) : FpNum := (ins[i]?).elim (zeroNum false) inNum

/-- An operation on two values. -/
def execTwo (op tile : Nat) (s : State) (g : FpNum → FpNum → FpNum × Bool) : Res :=
  execLanes op 2 1 tile noAux s (fun w ins =>
    let r := g (laneNum ins 0) (laneNum ins 1)
    laneFrom (vFmt w) false (vRnd w) 0 ins (r.1, r.2, false))

/-- A function of one value. -/
def execFunction (op cycles tile : Nat) (s : State) (g : FpNum → FnResult) : Res :=
  execLanes op 1 cycles tile noAux s (fun w ins => laneFrom (vFmt w) false (vRnd w) 0 ins (g (laneNum ins 0)))

/-- VADD. -/
def execVadd (tile : Nat) (s : State) : Res := execTwo 0x40 tile s addNum
/-- VSUB. -/
def execVsub (tile : Nat) (s : State) : Res := execTwo 0x41 tile s (fun a b => addNum a b.negate)
/-- VMUL. -/
def execVmul (tile : Nat) (s : State) : Res := execTwo 0x42 tile s mulNum
/-- VMIN. -/
def execVmin (tile : Nat) (s : State) : Res := execTwo 0x44 tile s minNum
/-- VMAX. -/
def execVmax (tile : Nat) (s : State) : Res := execTwo 0x45 tile s maxNum
/-- VEXP2. -/
def execVexp2 (tile : Nat) (s : State) : Res := execFunction 0x46 4 tile s exp2Num
/-- VLOG2. -/
def execVlog2 (tile : Nat) (s : State) : Res := execFunction 0x47 4 tile s log2Num
/-- VRCP. -/
def execVrcp (tile : Nat) (s : State) : Res := execFunction 0x48 2 tile s rcpNum
/-- VRSQ. -/
def execVrsq (tile : Nat) (s : State) : Res := execFunction 0x49 2 tile s rsqNum

/-- VFMA. -/
def execVfma (tile : Nat) (s : State) : Res :=
  execLanes 0x43 3 1 tile noAux s (fun w ins =>
    let r := fmaNum (laneNum ins 0) (laneNum ins 1) (laneNum ins 2)
    laneFrom (vFmt w) false (vRnd w) 0 ins (r.1, r.2, false))

/-- VCMP: a mask, which is no floating-point result; only a signalling NaN raises invalid (R118). -/
def execVcmp (tile : Nat) (s : State) : Res :=
  execLanes 0x4A 2 1 tile (fun a => decide (a < 7)) s (fun w ins =>
    { code := if compareNum (vAux w) (laneNum ins 0) (laneNum ins 1) then 2 ^ laneWidth (vFmt w) - 1 else 0
      fl := { invalid := ins.any (fun i => (inNum i).signals) } })

/-- An instruction that copies bits: no NaN is canonicalised and no exception is raised (R115). -/
def execBits (op n tile : Nat) (s : State) (f : Tile → List VSpec → Nat → W32) : Res :=
  startVector op tile s (fun w u =>
    let code := arithRefusal w n true noAux
    match vOperands w n with
    | none => refuseVector u tile w code
    | some (_, as) =>
      if code ≠ 0 then refuseVector u tile w code
      else withReads u tile w [] as (fun v =>
        runVector v tile { word := w, cycles := 1, dest := wbits w 38 25, words := (List.range 256).map (f (v.tile tile) as) }))

/-- Word p of operand i of a list. -/
def wordAt (t : Tile) (as : List VSpec) (i p : Nat) : W32 := readSpec t (as.getD i .absent) p

/-- VSEL. -/
def execVsel (tile : Nat) (s : State) : Res :=
  execBits 0x4B 3 tile s (fun t as p => (wordAt t as 0 p &&& wordAt t as 2 p) ||| (wordAt t as 1 p &&& ~~~(wordAt t as 2 p)))
/-- VTRN. -/
def execVtrn (tile : Nat) (s : State) : Res := execBits 0x4D 1 tile s (fun t as p => wordAt t as 0 (p % 16 * 16 + p / 16))
/-- VMOV. -/
def execVmov (tile : Nat) (s : State) : Res := execBits 0x4F 1 tile s (fun t as p => wordAt t as 0 p)

/-! ### VRED (R117) -/

/-- Combine neighbours; each sum is rounded to the format. -/
def combinePair (kind fmt rnd : Nat) (a b : FpNum) : FpNum × Ieee :=
  match kind with
  | 0 =>
    let r := addNum a b
    let y := roundNum (fmtOf fmt) false rnd 0 r.1
    (decodeNum (fmtOf fmt) y.code, y.flags.join { invalid := r.2 })
  | 1 => let r := maxNum a b; (r.1, { invalid := r.2 })
  | _ => let r := minNum a b; (r.1, { invalid := r.2 })

/-- One level of the pairwise order. -/
def pairUp (kind fmt rnd : Nat) : List FpNum → List FpNum × Ieee
  | a :: b :: r =>
    let x := combinePair kind fmt rnd a b
    let y := pairUp kind fmt rnd r
    (x.1 :: y.1, x.2.join y.2)
  | r => (r, {})

/-- Levels of the pairwise order, from the leaves. -/
def pairwise (kind fmt rnd : Nat) : Nat → List FpNum → List FpNum × Ieee
  | 0, l => (l, {})
  | n + 1, l =>
    let a := pairUp kind fmt rnd l
    let b := pairwise kind fmt rnd n a.1
    (b.1, a.2.join b.2)

/-- Reduce 16 inputs to a lane. -/
def reduceLane (kind fmt rnd : Nat) (ins : List LaneIn) : Lane :=
  let r := pairwise kind fmt rnd 4 (ins.map inNum)
  let l := laneFrom fmt false rnd 0 ins (r.1.headD (zeroNum false), r.2.invalid, false)
  { l with fl := l.fl.join r.2 }

/-- VRED. -/
def execVred (tile : Nat) (s : State) : Res :=
  startVector 0x4C tile s (fun w u =>
    let code := arithRefusal w 1 false (fun a => decide (a < 6))
    match vOperands w 1 with
    | none => refuseVector u tile w code
    | some (d, as) =>
      if code ≠ 0 then refuseVector u tile w code
      else withReads u tile w [] as (fun v =>
        let t := v.tile tile
        let fmt := vFmt w
        let cols := bit (vAux w) 0
        let line (i : Nat) : List Lane := (List.range (lanes fmt)).map (fun k =>
          reduceLane (vAux w / 2) fmt (vRnd w) ((List.range 16).map (fun j =>
            (fmt, laneOf fmt (wordAt t as 0 (if cols then 16 * j + i else 16 * i + j)) k, 0))))
        writeLanes v tile w d fmt 1 {} ((List.range 256).map (fun p =>
          if cols then (if p < 16 then line p else []) else (if p % 16 = 0 then line (p / 16) else [])))))

/-! ### VCVT (R120) -/

/-- Destination format. -/
def cvtTo (w : W128) : Nat := wbits w 84 81
/-- `LANE`. -/
def cvtLane (w : W128) : Nat := wbits w 86 85

/-- FP8 codes. -/
def isFp8 (f : Nat) : Bool := f == 3 || f == 4
/-- 16-bit formats. -/
def isHalf (f : Nat) : Bool := f == 1 || f == 2

/-- The lanes of a destination element, as (source, source lane); none for a pair that is not accepted. A source of
FP8 narrowing is the number of the register after the first. -/
def cvtMap (src dst lane : Nat) : Option (List (Nat × Nat)) :=
  if src = 0 ∧ isHalf dst = true ∧ lane = 0 then some [(0, 0), (1, 0)]
  else if src = 0 ∧ isFp8 dst = true ∧ lane = 0 then some [(0, 0), (1, 0), (2, 0), (3, 0)]
  else if isHalf src = true ∧ dst = 0 ∧ lane < 2 then some [(0, lane)]
  else if isFp8 src = true ∧ dst = 0 then some [(0, lane)]
  else if isHalf src = true ∧ isHalf dst = true ∧ src ≠ dst ∧ lane = 0 then some [(0, 0), (0, 1)]
  else none

/-- Sources that a conversion lists. -/
def cvtSources (w : W128) : Nat := if vFmt w = 0 ∧ isHalf (cvtTo w) = true then 2 else 1

/-- The checks of VCVT. Accumulator tiles are FP32 (R110), so each may stand only where the conversion has FP32, and none
where `FMT` is BF16. -/
def cvtRefusal (w : W128) : Nat :=
  if wbits w 107 104 ≠ 0 ∨ wbits w 95 87 ≠ 0 then 0x010A
  else if formatKnown (vFmt w) = false ∨ formatKnown (cvtTo w) = false then 0x0107
  else if vRnd w = 3 ∧ isFp8 (cvtTo w) = true then 0x0107
  else if (vSatf w = true ∧ isFp8 (cvtTo w) = false) ∨ (vRnd w ≠ 2 ∧ vRng w ≠ 0) then 0x010A
  else if (cvtMap (vFmt w) (cvtTo w) (cvtLane w)).isNone then 0x010A
  else match vOperands w (cvtSources w) with
    | none => 0x010A
    | some (d, as) =>
      if (vFmt w ≠ 0 ∧ as.any VSpec.isAcc = true) ∨ ((cvtTo w ≠ 0 ∨ vFmt w = 1) ∧ d.isAcc = true) then 0x010A
      else if isFp8 (cvtTo w) = true then (match as with | [.reg n] => if n ≤ 28 then 0 else 0x010A | _ => 0x010A)
      else 0

/-- The operands a conversion reads. -/
def cvtReads (w : W128) (as : List VSpec) : List VSpec :=
  match as with
  | [.reg n] => if isFp8 (cvtTo w) then (List.range 4).map (fun k => .reg (n + k)) else as
  | _ => as

/-- VCVT. -/
def execVcvt (tile : Nat) (s : State) : Res :=
  startVector 0x4E tile s (fun w u =>
    let code := cvtRefusal w
    match vOperands w (cvtSources w), cvtMap (vFmt w) (cvtTo w) (cvtLane w) with
    | some (d, as), some m =>
      if code ≠ 0 then refuseVector u tile w code
      else
        let rs := cvtReads w as
        withReads u tile w [] rs (fun v =>
          let n := 256 * m.length
          let q := if vRnd w = 2 then drawWords (n / 16) (v.tile tile) (vRng w) else ([], v.tile tile)
          let rb := randomBytes q.1 n
          let t := v.tile tile
          let one (p : Nat) (k : (Nat × Nat) × Nat) : Lane :=
            let i : LaneIn := (vFmt w, laneOf (vFmt w) (wordAt t rs k.1.1 p) k.1.2, if isFp8 (cvtTo w) then 0 else k.1.1)
            laneFrom (cvtTo w) (vSatf w) (vRnd w) (rb.getD (p * m.length + k.2) 0) [i] (inNum i, false, false)
          writeLanes (v.setTile tile q.2) tile w d (cvtTo w) 1 { rwords := BitVec.ofNat 32 q.1.length }
            ((List.range 256).map (fun p => m.zipIdx.map (one p))))
    | _, _ => refuseVector u tile w (if code = 0 then 0x010A else code))

/-! ### VLD and VST (R121) -/

/-- Offset of element p. -/
def strided (w : W128) (p : Nat) : Int :=
  (wbits w 62 39 : Int) + 4 * ((p / 16 : Nat) * signed 16 (wbits w 78 63) + (p % 16 : Nat) * signed 16 (wbits w 94 79))

/-- The checks of VLD and VST. -/
def moveRefusal (w : W128) (store : Bool) : Nat :=
  match specOf (wbits w 38 25) with
  | some (.reg _) =>
    if wbits w 107 95 ≠ 0 ∨ wbits w 14 8 ≠ 0 then 0x010A
    else if wbits w 62 39 % 4 ≠ 0 then 0x0105
    else if (List.range 256).any (fun p => decide (strided w p < 0) || decide (strided w p ≥ sramBytes) ||
        (store && touchesContext (strided w p).toNat 4)) then 0x0105
    else 0
  | _ => 0x010A

/-- Cycles: one when both strides are zero. -/
def moveCycles (w : W128) : Nat := if wbits w 94 63 = 0 then 1 else 4

/-- VLD. -/
def execVld (tile : Nat) (s : State) : Res :=
  startVector 0x50 tile s (fun w u =>
    let code := moveRefusal w false
    if code ≠ 0 then refuseVector u tile w code
    else
      let at_ := (List.range 256).map (fun p => (strided w p).toNat)
      withReads u tile w (at_.map (fun a => (a, 4))) [] (fun v =>
        let t := v.tile tile
        runVector (v.setTile tile (writeSpec t (.reg (wbits w 31 27)) (at_.map (fun a => BitVec.ofNat 32 (tileNat t a 4))))) tile
          { word := w, cycles := moveCycles w }))

/-- VST: of several elements that name one word, the later in row-major order lands last. -/
def execVst (tile : Nat) (s : State) : Res :=
  startVector 0x51 tile s (fun w u =>
    let code := moveRefusal w true
    if code ≠ 0 then refuseVector u tile w code
    else
      let src : VSpec := .reg (wbits w 31 27)
      withReads u tile w [] [src] (fun v =>
        let t := v.tile tile
        let t1 := (List.range 256).foldl (fun x p =>
          (x.touch v.clk (strided w p).toNat 4).store (strided w p).toNat (leBytes 4 (readSpec t src p).toNat)) t
        runVector (v.setTile tile t1) tile { word := w, cycles := moveCycles w }))

/-! ### Packs (R122 to R128) -/

/-- `NREG`. -/
def pNreg (w : W128) : Nat := wbits w 43 39
/-- `AXIS`, which VSG1 ignores (R128). -/
def pAxis (w : W128) : Bool := bit w.toNat 44 && opOf w != 0x5A
/-- `PASS`. -/
def pPass (w : W128) : Nat := wbits w 46 45
/-- Byte offset of the layout block. -/
def pBlk (w : W128) : Nat := wbits w 64 47 * 64
/-- `VI`. -/
def pVi (w : W128) : Nat := wbits w 73 65
/-- `EOFF`. -/
def pEoff (w : W128) : Nat := wbits w 92 74
/-- `RNG` of R122. -/
def pRng (w : W128) : Nat := wbits w 100 93

/-- The tiles an instruction names (R124); none where one is out of range. -/
def packTiles (w : W128) : Option (List VSpec) :=
  let n := pNreg w
  match specOf (wbits w 38 25) with
  | some (.reg k) => if k + n ≤ 32 then some ((List.range n).map (fun j => .reg (k + j))) else none
  | some (.acc b lay rb cb) =>
    if (if pAxis w then rb + n ≤ tileRows lay else cb + n ≤ tileCols lay) then
      some ((List.range n).map (fun j => if pAxis w then .acc b lay (rb + j) cb else .acc b lay rb (cb + j)))
    else none
  | _ => none

/-- The tile and position of instruction element k (R124). -/
def packPlace (w : W128) (k : Nat) : Nat × Nat :=
  let m := 16 * pNreg w
  let e := k % m
  let v := k / m
  (e / 16, if pAxis w then e % 16 * 16 + v else v * 16 + e % 16)

/-- The layout block (R123). -/
structure PackLayout where
  mb0   : Nat
  mb1   : Nat
  sb    : Nat
  sstr  : Nat
  raddr : Nat
  ilv   : Bool
  v     : Nat
  deriving DecidableEq, Repr

/-- Read a layout block; none where R123 refuses it. An offset that is misaligned is refused under R123 in pack form too
(DEDUCED, log entry 104). -/
def readLayout (b : Bytes) (form : Bool) : Option PackLayout :=
  let x : PackLayout := ⟨field b 0 4, field b 4 4, field b 8 4, field b 12 4, field b 16 4, bit (field b 20 1) 0, if bit (field b 20 1) 1 then 256 else 512⟩
  if field b 20 1 ≥ 4 ∨ allZero b 21 43 = false ∨ x.mb0 % 256 ≠ 0 ∨ x.mb1 % 256 ≠ 0 ∨ x.sb % 64 ≠ 0 ∨ x.sstr % 256 ≠ 0 ∨ x.raddr % 64 ≠ 0 ∨
    (x.ilv = true ∧ form = true) then none else some x

/-- Where slice j, block g of streamed vector i lies. -/
def streamAt (x : PackLayout) (i j g : Nat) : Nat :=
  (if x.ilv && i % 2 == 1 then x.mb1 else x.mb0) + j * x.sstr + i / (if x.ilv then 2 else 1) * x.v + 32 * g
/-- Where its scale lies. -/
def streamScale (x : PackLayout) (i g : Nat) : Nat := x.sb + i * (x.v / 32) + g

/-- Streamed vector and block of instruction block b. -/
def streamBlock (w : W128) (b : Nat) : Nat × Nat := (pVi w + b / (pNreg w / 2), pEoff w + b % (pNreg w / 2))

/-- Pack of slice j, number n. -/
def packAt (x : PackLayout) (j n : Nat) : Nat := x.mb0 + j * x.sstr + 256 * n

/-- First and last pack that an instruction of n elements touches. -/
def packsTouched (w : W128) (n : Nat) : List Nat :=
  let c := tagCap (wbits w 11 8)
  (List.range ((32 * pEoff w + n - 1) / c - 32 * pEoff w / c + 1)).map (· + 32 * pEoff w / c)

/-- The checks of VPACK, VUNPK and VSG1 that need no memory. -/
def packRefusal (w : W128) (kind : Nat) : Nat :=
  let tag := wbits w 11 8
  if wbits w 107 101 ≠ 0 then 0x010A
  else if formatKnown tag = false then 0x0107
  else if pPass w = 0 ∨ pNreg w > 16 ∨ (kind = 1 ∧ vRnd w ≠ 0) then 0x010A
  else if kind = 2 then
    (if tag ≠ 0xD ∨ vSatf w = false ∨ pPass w ≠ 1 ∨ pEoff w % 8 ≠ 0 ∨ (packTiles w).isNone = true then 0x010A else 0)
  else if tag < 0x8 ∨ tag > 0xC ∨ ((pPass w > 1 ∨ vSatf w = false) ∧ tag ≠ 0x8) ∨ pNreg w % 2 = 1 ∨ (packTiles w).isNone = true then 0x010A
  else if kind = 0 ∧ vRnd w = 3 then 0x0107
  else if pBlk w + 64 > sramBytes then 0x0105
  else 0

/-- The areas an instruction of `n` tiles uses, for the checks of R123. -/
def packAreas (w : W128) (kind : Nat) (x : PackLayout) : List (Nat × Nat) :=
  let n := pNreg w
  if vSatf w then
    (List.range (pPass w)).flatMap (fun j => (packsTouched w (256 * n)).map (fun k => (packAt x j k, 256))) ++
      (if kind = 2 then [(x.raddr, 512 * n)] else [])
  else
    (List.range (8 * n)).flatMap (fun b =>
      let p := streamBlock w b
      (streamScale x p.1 p.2, 1) :: (List.range (pPass w)).map (fun j => (streamAt x p.1 j p.2, 32)))

/-- Start an instruction of this layout: the checks, an instruction of no tiles, the layout block, and the areas. -/
def startPack (op kind tile : Nat) (s : State) (body : W128 → List VSpec → PackLayout → State → State) : Res :=
  startVector op tile s (fun w u =>
    let code := packRefusal w kind
    match packTiles w with
    | none => refuseVector u tile w (if code = 0 then 0x010A else code)
    | some ts =>
      if code ≠ 0 then refuseVector u tile w code
      else if pNreg w = 0 then runVector u tile { word := w, cycles := 1 }
      else if pBlk w + 64 > sramBytes then refuseVector u tile w 0x0105
      else withReads u tile w [(pBlk w, 64)] [] (fun v =>
        match readLayout (tileBytes (v.tile tile) (pBlk w) 64) (vSatf w) with
        | none => refuseVector v tile w 0x010A
        | some x =>
          let areas := packAreas w kind x
          if vSatf w = false ∧ 32 * pEoff w + 16 * pNreg w > x.v then refuseVector v tile w 0x010A
          else if areasOk areas = false ∨ (kind ≠ 1 ∧ areas.any (fun a => touchesContext a.1 a.2) = true) then refuseVector v tile w 0x0105
          else body w ts x v))

/-- Values of the instruction's elements, in order. -/
def packSource (t : Tile) (w : W128) (ts : List VSpec) : List FpNum :=
  (List.range (256 * pNreg w)).map (fun k => ofFp32 (wordAt t ts (packPlace w k).1 (packPlace w k).2))

/-- Cut a list into runs of n. -/
def chunks {α : Type} (n : Nat) : (k : Nat) → List α → List (List α)
  | 0, _ => []
  | k + 1, l => l.take n :: chunks n k (l.drop n)

/-- The pack under way: the continued pack, decoded and with the right count, or an empty one. -/
def openPack (t : Tile) (x : PackLayout) (tag j n start cap : Nat) : Except (Nat × Nat × Nat) Pack :=
  if start % cap ≠ 0 ∧ n = start / cap then
    match decodePack tag (tileBytes t (packAt x j n) 256) with
    | .error e => .error (e.1, packAt x j n, e.2)
    | .ok p => if p.count = start % cap then .ok p else .error (0x0107, packAt x j n, 1)
  else .ok { tag := tag, count := 0, scales := [], codes := [] }

/-- Extend a pack by blocks: their scales and codes, and whether one was clamped. -/
def extendPack (p : Pack) (scales codes : List Nat) (sat : Bool) : Pack :=
  { p with
    count := p.count + codes.length
    scales := p.scales.take (liveBlocks p.tag p.count) ++ scales
    codes := p.codes ++ codes
    sat := p.sat || sat }

/-- Blocks of the instruction that pack number n takes: first and how many. -/
def packShare (w : W128) (n blocks : Nat) : Nat × Nat :=
  let tag := wbits w 11 8
  let first := 32 * pEoff w / tagPer tag
  let lo := max first (n * tagBlocks tag)
  let hi := min (first + blocks) ((n + 1) * tagBlocks tag)
  (lo - first, hi - lo)

/-- Lay out the packs of slice j over all packs touched: the writes, or the fault of a continued pack. -/
def layPacks (t : Tile) (w : W128) (x : PackLayout) (tag j blocks : Nat) (scales : List Nat) (codes : List (List Nat)) (sats : List Bool) :
    List Nat → Except (Nat × Nat × Nat) (List (Nat × Bytes))
  | [] => .ok []
  | n :: rest =>
    match openPack t x tag j n (32 * pEoff w) (tagCap tag) with
    | .error e => .error e
    | .ok p =>
      let sh := packShare w n blocks
      let q := extendPack p ((scales.drop sh.1).take sh.2) ((codes.drop sh.1).take sh.2).flatten (((sats.drop sh.1).take sh.2).any id)
      match layPacks t w x tag j blocks scales codes sats rest with
      | .error e => .error e
      | .ok r => .ok ((packAt x j n, encodePack q) :: r)

/-- Several writes to a tile's SRAM. -/
def storeAll (t : Tile) (clk : Nat) (ws : List (Nat × Bytes)) : Tile :=
  ws.foldl (fun u a => (u.touch clk a.1 a.2.length).store a.1 a.2) t

/-- The continued packs an instruction reads. -/
def continuedRuns (w : W128) (x : PackLayout) (cap : Nat) : List (Nat × Nat) :=
  if vSatf w ∧ 32 * pEoff w % cap ≠ 0 then (List.range (pPass w)).map (fun j => (packAt x j (32 * pEoff w / cap), 256)) else []

/-- All slices' packs. -/
def laySlices (t : Tile) (w : W128) (x : PackLayout) (bs : List BlockOut) : (n j : Nat) → Except (Nat × Nat × Nat) (List (Nat × Bytes))
  | 0, _ => .ok []
  | n + 1, j =>
    let tag := wbits w 11 8
    let codes := bs.map (fun b => if pPass w = 1 then producedCodes tag b else b.q.map (sliceOf (pPass w) j))
    match layPacks t w x (if j = 0 then tag else 0xE) j bs.length (bs.map (·.scale)) codes (bs.map (fun b => decide (b.sat ≠ 0)))
      (packsTouched w (256 * pNreg w)) with
    | .error e => .error e
    | .ok a =>
      match laySlices t w x bs n (j + 1) with
      | .error e => .error e
      | .ok r => .ok (a ++ r)

/-- The writes of stream form (R125). -/
def streamWrites (w : W128) (x : PackLayout) (bs : List BlockOut) : List (Nat × Bytes) :=
  bs.zipIdx.flatMap (fun b =>
    let p := streamBlock w b.2
    (streamScale x p.1 p.2, [BitVec.ofNat 8 b.1.scale]) ::
      (List.range (pPass w)).map (fun j => (streamAt x p.1 j p.2, b.1.q.map (fun q => BitVec.ofNat 8 (sliceOf (pPass w) j q)))))

/-- The status of packed blocks: a signalling source raises invalid, a non-finite block counts its elements, clamped
elements count (R13, R58). -/
def packStatus (w : W128) (xs : List FpNum) (bs : List BlockOut) (words : Nat) : VectorStatus :=
  let sat := (bs.map (·.sat)).sum
  let bad := (bs.zipIdx.filter (fun b => b.1.scale == 0xFF)).map (·.2)
  let x : VectorStatus := { sat := decide (sat ≠ 0), satCount := BitVec.ofNat 32 sat, nfCount := BitVec.ofNat 32 (32 * bad.length), rwords := BitVec.ofNat 32 words }
  let y := match bad with
    | [] => x
    | b :: _ => { x with nf := true, nfIndex := BitVec.ofNat 32 (32 * b), nfBlock := 0, nfSrc := 2 }
  match xs.findIdx? (·.signals) with
  | some k => { y with invalid := true, invReg := 0x20, invPos := BitVec.ofNat 16 (packPlace w k).2 }
  | none => y

/-- VPACK. -/
def execVpack (tile : Nat) (s : State) : Res :=
  startPack 0x58 0 tile s (fun w ts x u =>
    let tag := wbits w 11 8
    let cont := continuedRuns w x (tagCap tag)
    withReads u tile w cont ts (fun v =>
      let t := v.tile tile
      let n := 256 * pNreg w
      let xs := packSource t w ts
      let q := if vRnd w = 2 then drawWords (n / 16) t (pRng w) else ([], t)
      let bs := ((chunks 32 (n / 32) xs).zip (chunks 32 (n / 32) (randomBytes q.1 n ++ List.replicate n 0))).map
        (fun c => quantBlock tag (pPass w) (vRnd w) c.1 c.2)
      match (if vSatf w then laySlices t w x bs (pPass w) 0 else .ok (streamWrites w x bs)) with
      | .error e => refuseVector v tile w e.1 (tileAddr tile e.2.1).toNat e.2.2
      | .ok ws => runVector (v.setTile tile (storeAll q.2 v.clk ws)) tile
          { word := w, cycles := pPass w * pNreg w + 2 + cont.length, status := packStatus w xs bs q.1.length }))

/-- The value of an unpacked element and the block it came from, in stream form. -/
def unpackStream (t : Tile) (w : W128) (x : PackLayout) (k : Nat) : FpNum × Nat :=
  let p := streamBlock w (k / 32)
  let sc := tileNat t (streamScale x p.1 p.2) 1
  let q := joinSlices (pPass w) ((List.range (pPass w)).map (fun j => tileNat t (streamAt x p.1 j p.2 + k % 32) 1))
  (scaledNum 0x8 (pPass w) sc q, p.1 * (x.v / 32) + p.2)

/-- Decode the packs of all slices at one place, each lower slice against slice 0 (R78). -/
def slicePacks (t : Tile) (tag : Nat) (x : PackLayout) (n : Nat) (first : Option Pack) : (m j : Nat) → Except (Nat × Nat × Nat) (List Pack)
  | 0, _ => .ok []
  | m + 1, j =>
    match decodePack (if j = 0 then tag else 0xE) (tileBytes t (packAt x j n) 256) with
    | .error e => .error (e.1, packAt x j n, e.2)
    | .ok p =>
      match first.bind (fun f => sliceDiffers p f) with
      | some o => .error (0x0107, packAt x j n, o)
      | none =>
        match slicePacks t tag x n (some (first.getD p)) m (j + 1) with
        | .error e => .error e
        | .ok r => .ok (p :: r)

/-- Decode every pack an unpack touches. -/
def allSlicePacks (t : Tile) (w : W128) (x : PackLayout) : List Nat → Except (Nat × Nat × Nat) (List (List Pack))
  | [] => .ok []
  | n :: rest =>
    match slicePacks t (wbits w 11 8) x n none (pPass w) 0 with
    | .error e => .error e
    | .ok p =>
      match allSlicePacks t w x rest with
      | .error e => .error e
      | .ok r => .ok (p :: r)

/-- The value of an unpacked element and its block, in pack form. -/
def unpackForm (w : W128) (ps : List (List Pack)) (k : Nat) : FpNum × Nat :=
  let tag := wbits w 11 8
  let e := 32 * pEoff w + k
  let n := e / tagCap tag
  let sl := ps.getD (n - 32 * pEoff w / tagCap tag) []
  let i := e % tagCap tag
  match sl with
  | [] => (zeroNum false, 0)
  | p :: _ =>
    let b := n * tagBlocks tag + i / 32
    if pPass w = 1 then (packNum p i, b)
    else if i ≥ p.count then (zeroNum false, b)
    else (scaledNum 0x8 (pPass w) (p.scales.getD (i / 32) 0) (joinSlices (pPass w) (sl.map (fun y => y.codes.getD i 0))), b)

/-- The status of unpacked elements: the smallest index of an element stored as non-finite decides, with its block when the
block is non-finite (R127); one that FP32 cannot hold overflows (DEDUCED, log entry 106). -/
def unpackStatus (w : W128) (vs : List (FpNum × Nat)) : VectorStatus :=
  let bad := (vs.zipIdx.filter (fun v => (ofFp32 (toFp32 v.1.1)).nonFinite)).map (fun v =>
    (256 * (packPlace w v.2).1 + (packPlace w v.2).2, v.1))
  let high := vs.any (fun v => (roundNum fp32 false 0 0 v.1).overflow)
  match bad with
  | [] => {}
  | b :: r =>
    let m := r.foldl (fun a c => if c.1 < a.1 then c else a) b
    { nf := true, nfCount := BitVec.ofNat 32 bad.length, nfIndex := BitVec.ofNat 32 m.1, overflow := high, inexact := high
      nfBlock := if m.2.1.nonFinite then BitVec.ofNat 32 m.2.2 else 0xFFFFFFFF, nfSrc := if m.2.1.nonFinite then 2 else 3 }

/-- Word p of tile j, from the instruction's elements. -/
def unpackedWord (w : W128) (vs : List (FpNum × Nat)) (j p : Nat) : W32 :=
  let v := if pAxis w then p % 16 else p / 16
  let e := 16 * j + (if pAxis w then p / 16 else p % 16)
  toFp32 (vs.getD (v * (16 * pNreg w) + e) (zeroNum false, 0)).1

/-- Write the tiles of an unpack. A pack that the unpack begins within adds no cycle (DEDUCED, log entry 103). -/
def writeUnpacked (s : State) (tile : Nat) (w : W128) (ts : List VSpec) (vs : List (FpNum × Nat)) : State :=
  let t := ts.zipIdx.foldl (fun u d => writeSpec u d.1 ((List.range 256).map (unpackedWord w vs d.2))) (s.tile tile)
  runVector (s.setTile tile t) tile { word := w, cycles := pPass w * pNreg w + 2, status := unpackStatus w vs }

/-- VUNPK. -/
def execVunpk (tile : Nat) (s : State) : Res :=
  startPack 0x59 1 tile s (fun w ts x u =>
    withReads u tile w (packAreas w 1 x) [] (fun v =>
      let t := v.tile tile
      let n := 256 * pNreg w
      if vSatf w then
        match allSlicePacks t w x (packsTouched w n) with
        | .error e => refuseVector v tile w e.1 (tileAddr tile e.2.1).toNat e.2.2
        | .ok ps => writeUnpacked v tile w ts ((List.range n).map (unpackForm w ps))
      else writeUnpacked v tile w ts ((List.range n).map (unpackStream t w x))))

/-! ### VSG1 (R128) -/

/-- A compressed block: magnitude, signs, new residuals, flags, and the first non-finite v. -/
structure SgBlock where
  mag   : Nat
  signs : List Nat
  res   : List Nat
  fl    : List Ieee
  bad   : Bool
  src   : Bool
  deriving DecidableEq, Repr

/-- Sum of magnitudes in the pairwise order, FP32 under RNE, over 256 values. -/
def pairSum (xs : List FpNum) : FpNum × Ieee :=
  let r := pairwise 0 0 0 8 xs
  (r.1.headD (zeroNum false), r.2)

/-- Compress one tile: its values, its residuals, and a random byte each. -/
def sgCompress (rnd : Nat) (g res : List W32) (rb : List Nat) : SgBlock :=
  let ins := (g.map ofFp32).zip (res.map (fun r => decodeNum bf16 r.toNat))
  let vs := ins.map (fun i => let a := addNum i.1 i.2; (roundNum fp32 false 0 0 a.1, a.2))
  let nums := vs.map (fun v => decodeNum fp32 v.1.code)
  let fl0 := vs.map (fun v => v.1.flags.join { invalid := v.2 })
  let put (x : FpNum) (k : Nat) : Rounded := roundNum bf16 false rnd (rb.getD k 0) x
  if nums.any (·.nonFinite) then
    { mag := 0x7FC0, signs := g.map (fun _ => 0), res := g.map (fun _ => 0), fl := fl0, bad := true
      src := ins.any (fun i => i.1.nonFinite || i.2.nonFinite) }
  else
    let s := pairSum (nums.map FpNum.magnitude)
    let m := roundNum bf16 false 0 0 (s.1.scaleBy (-8))
    let common := s.2.join m.flags
    if m.code = 0 then
      let out := nums.zipIdx.map (fun v => put v.1 v.2)
      { mag := 0, signs := g.map (fun _ => 0), res := out.map (·.code)
        fl := (fl0.zip (out.map Rounded.flags)).map (fun f => (f.1.join f.2).join common), bad := false, src := false }
    else
      let sg := nums.map (fun v => b2n v.sign)
      let mag := decodeNum bf16 m.code
      let out := nums.zipIdx.map (fun v => put (addNum v.1 (if v.1.sign then mag else mag.negate)).1 v.2)
      { mag := m.code, signs := sg, res := out.map (·.code)
        fl := (fl0.zip (out.map Rounded.flags)).map (fun f => (f.1.join f.2).join common), bad := scaleBad 0xD m.code, src := false }

/-- The status of compressed tiles: elements in instruction order, element k being entry 16r + c of tile j where
k = 16 r NREG + 16 j + c (R124, R133); the first element of the lowest non-finite tile is its position 0. -/
def sgStatus (n : Nat) (bs : List SgBlock) (x : VectorStatus) : VectorStatus :=
  let y := (List.range (256 * n)).foldl (fun x k =>
    let p := k / (16 * n) * 16 + k % 16
    match bs[k % (16 * n) / 16]? with
    | some b => addLanes x k 0x20 p [{ code := 0, fl := b.fl.getD p {} }]
    | none => x) x
  let bad := bs.zipIdx.filter (·.1.bad)
  match bad with
  | [] => y
  | (b, j) :: _ => { y with
      nfCount := satInc y.nfCount (256 * bad.length), nf := true, nfIndex := BitVec.ofNat 32 (16 * j)
      nfSrc := if b.src then 2 else 3, nfBlock := if b.src then 0 else 0xFFFFFFFF }

/-- VSG1. -/
def execVsg1 (tile : Nat) (s : State) : Res :=
  startPack 0x5A 2 tile s (fun w ts x u =>
    let cont := continuedRuns w x (tagCap 0xD)
    withReads u tile w (cont ++ [(x.raddr, 512 * pNreg w)]) ts (fun v =>
      let t := v.tile tile
      let n := pNreg w
      let q := if vRnd w = 2 then drawWords (16 * n) t (pRng w) else ([], t)
      let rb := randomBytes q.1 (256 * n)
      let bs := ts.zipIdx.map (fun d => sgCompress (vRnd w) (specWords t d.1)
        ((List.range 256).map (fun p => BitVec.ofNat 32 (tileNat t (x.raddr + 512 * d.2 + 2 * p) 2))) (rb.drop (256 * d.2)))
      match layPacks t w x 0xD 0 bs.length (bs.map (·.mag)) (bs.map (·.signs)) (bs.map (fun _ => false)) (packsTouched w (256 * n)) with
      | .error e => refuseVector v tile w e.1 (tileAddr tile e.2.1).toNat e.2.2
      | .ok ws =>
        let rw := bs.zipIdx.map (fun b => (x.raddr + 512 * b.2, b.1.res.flatMap (leBytes 2)))
        runVector (v.setTile tile (storeAll q.2 v.clk (rw ++ ws))) tile
          { word := w, cycles := 2 * n + 2 + cont.length
            status := sgStatus n bs { rwords := BitVec.ofNat 32 q.1.length } }))

/-! ### RMM (R129 to R131) -/

/-- Rows of an output block. -/
def rmmM (w : W128) : Nat := 32 * 2 ^ wbits w 9 8
/-- Columns of an output block. -/
def rmmN (w : W128) : Nat := 32 / 2 ^ wbits w 9 8
/-- `D`. -/
def rmmD (w : W128) : Nat := wbits w 34 25
/-- Output blocks. -/
def rmmBlocks (w : W128) : Nat := wbits w 37 35 + 1
/-- `ACC`. -/
def rmmAcc (w : W128) : Bool := bit w.toNat 10
/-- Byte offset of the operand block. -/
def rmmBlk (w : W128) : Nat := wbits w 55 38 * 64

/-- `XSRC`, `DST`. -/
def rmmXsrc (b : Bytes) : Nat := field b 0 1
def rmmDst (b : Bytes) : Bool := bit (field b 1 1) 0
/-- Elements of a streamed vector. -/
def rmmV (b : Bytes) : Nat := if bit (field b 2 1) 2 then 256 else 512

/-- The runs of SRAM that the operands lie in. -/
def rmmAreas (w : W128) (b : Bytes) : List (Nat × Nat) :=
  let x := match rmmXsrc b with
    | 0 => (List.range (rmmM w)).map (fun i => (field b 4 4 + i * field b 8 4, 2 * rmmD w))
    | 1 => (List.range (rmmM w)).flatMap (fun i =>
        [(field b 4 4 + (field b 12 2 + i) * rmmV b, rmmD w), (field b 8 4 + (field b 12 2 + i) * (rmmV b / 32), (rmmD w + 31) / 32)])
    | _ => []
  x ++ (List.range (rmmD w)).map (fun k => (field b 16 4 + k * field b 20 4, 2 * rmmN w * rmmBlocks w))

/-- The checks of the operand block. -/
def rmmRefusal (w : W128) (b : Bytes) : Nat :=
  let m := rmmM w
  let lay := bit (field b 2 1) 1
  let dlay := bit (field b 3 1) 1
  let cols := rmmN w * rmmBlocks w
  if rmmXsrc b ≥ 3 ∨ field b 1 1 ≥ 2 ∨ field b 2 1 ≥ 8 ∨ field b 3 1 ≥ 128 ∨ field b 14 2 ≠ 0 ∨ allZero b 28 36 = false then 0x010A
  else if (rmmXsrc b = 0 ∧ (field b 4 4 % 2 = 1 ∨ field b 8 4 % 2 = 1)) ∨ (rmmXsrc b = 1 ∧ (field b 4 4 % 256 ≠ 0 ∨ field b 8 4 % 64 ≠ 0)) ∨
    (rmmXsrc b = 2 ∧ field b 8 4 ≠ 0) ∨ field b 16 4 % 2 = 1 ∨ field b 20 4 % 2 = 1 then 0x010A
  else if (rmmXsrc b = 1 ∧ rmmD w > rmmV b) ∨ (rmmXsrc b = 2 ∧ (field b 4 2 + m > layRows lay ∨ field b 6 2 + rmmD w > layCols lay)) then 0x010A
  else if (if rmmDst b then bits (field b 3 1) 6 2 + 4 * rmmBlocks w > 32 else field b 24 2 + m > layRows dlay ∨ field b 26 2 + cols > layCols dlay) then 0x010A
  else if areasOk (rmmAreas w b) = false then 0x0105
  else 0

/-- X(i, k) as BF16 code, with the conversion's flags. -/
def rmmX (t : Tile) (b : Bytes) (i k : Nat) : Nat × Ieee :=
  match rmmXsrc b with
  | 0 => (tileNat t (field b 4 4 + i * field b 8 4 + 2 * k) 2, {})
  | 1 =>
    let v := field b 12 2 + i
    let sc := tileNat t (field b 8 4 + v * (rmmV b / 32) + k / 32) 1
    ((roundNum bf16 false 0 0 (scaledNum 0x8 1 sc (signed 8 (tileNat t (field b 4 4 + v * rmmV b + k) 1)))).code, {})
  | _ =>
    let e := (field b 4 2 + i) * layCols (bit (field b 2 1) 1) + field b 6 2 + k
    let x := ofFp32 (tget (t.accum (bit (field b 2 1) 0)) e 0)
    let y := roundNum bf16 false 0 0 x
    (y.code, y.flags.join { invalid := x.signals })

/-- Y(k, j). -/
def rmmY (t : Tile) (b : Bytes) (k j : Nat) : Nat := tileNat t (field b 16 4 + k * field b 20 4 + 2 * j) 2

/-- The dot product of a row and a column, term by term in FP32 (R131). -/
def rmmDot (t : Tile) (b : Bytes) (i j : Nat) : (n k : Nat) → (s : FpNum) → (fl : Ieee) → FpNum × Ieee
  | 0, _, s, fl => (s, fl)
  | n + 1, k, s, fl =>
    let x := rmmX t b i k
    let r := fmaNum (decodeNum bf16 x.1) (decodeNum bf16 (rmmY t b k j)) s
    let y := roundNum fp32 false 0 0 r.1
    rmmDot t b i j n (k + 1) (decodeNum fp32 y.code) ((fl.join x.2).join (y.flags.join { invalid := r.2 }))

/-- The place of output element f of block q: register and position, or accumulator entry. -/
def rmmReg (b : Bytes) (q f : Nat) : Nat × Nat := (bits (field b 3 1) 6 2 + 4 * q + f / 256, f % 256)
def rmmEntry (w : W128) (b : Bytes) (q f : Nat) : Nat :=
  (field b 24 2 + f / rmmN w) * layCols (bit (field b 3 1) 1) + field b 26 2 + q * rmmN w + f % rmmN w

/-- The word at a destination. -/
def rmmOld (t : Tile) (w : W128) (b : Bytes) (q f : Nat) : W32 :=
  if rmmDst b then tget t.vregs ((rmmReg b q f).1 * 256 + (rmmReg b q f).2) 0
  else tget (t.accum (bit (field b 3 1) 0)) (rmmEntry w b q f) 0

/-- Output element f of block q. -/
def rmmLane (t : Tile) (w : W128) (b : Bytes) (q f : Nat) : Lane :=
  let i := f / rmmN w
  let j := q * rmmN w + f % rmmN w
  let d := rmmDot t b i j (rmmD w) 0 (zeroNum false) {}
  let old := ofFp32 (rmmOld t w b q f)
  let a := if rmmAcc w then addNum old d.1 else (d.1, false)
  let y := roundNum fp32 false 0 0 a.1
  let src := if (List.range (rmmD w)).any (fun k => (decodeNum bf16 (rmmX t b i k).1).nonFinite) then some 0
    else if (List.range (rmmD w)).any (fun k => (decodeNum bf16 (rmmY t b k j)).nonFinite) then some 1
    else if rmmAcc w && old.nonFinite then some 2 else none
  { code := y.code, fl := (y.flags.join { invalid := a.2 }).join d.2, nf := (decodeNum fp32 y.code).nonFinite, src := src }

/-- One block: its values are formed and then written. -/
def rmmBlock (w : W128) (b : Bytes) (a : Tile × VectorStatus) (q : Nat) : Tile × VectorStatus :=
  let n := rmmM w * rmmN w
  let ls := (List.range n).map (rmmLane a.1 w b q)
  let x := ls.zipIdx.foldl (fun x l =>
    addLanes x (q * n + l.2) (if rmmDst b then (rmmReg b q l.2).1 else 0x20)
      (if rmmDst b then (rmmReg b q l.2).2 else (field b 24 2 + l.2 / rmmN w) % 16 * 16 + (field b 26 2 + q * rmmN w + l.2 % rmmN w) % 16) [l.1]) a.2
  let ws := ls.map (fun l => BitVec.ofNat 32 l.code)
  let t := if rmmDst b then (List.range 4).foldl (fun u k => writeSpec u (.reg (bits (field b 3 1) 6 2 + 4 * q + k)) ((ws.drop (256 * k)).take 256)) a.1
    else (List.range (rmmM w)).foldl (fun u i => u.putAccum (bit (field b 3 1) 0) (rmmEntry w b q (i * rmmN w)) ((ws.drop (i * rmmN w)).take (rmmN w))) a.1
  (t, x)

/-- The stored codes that an RMM reads. -/
def rmmStores (w : W128) (b : Bytes) (m : TileStore) : Bool :=
  match m with
  | .register k _ => rmmAcc w && rmmDst b && decide (bits (field b 3 1) 6 2 ≤ k) && decide (k < bits (field b 3 1) 6 2 + 4 * rmmBlocks w)
  | .accumulator k e =>
    let box (bank lay : Bool) (r c nr nc : Nat) : Bool := k == b2n bank && decide (r ≤ e / layCols lay) && decide (e / layCols lay < r + nr) &&
      decide (c ≤ e % layCols lay) && decide (e % layCols lay < c + nc)
    (rmmXsrc b == 2 && box (bit (field b 2 1) 0) (bit (field b 2 1) 1) (field b 4 2) (field b 6 2) (rmmM w) (rmmD w)) ||
    (rmmAcc w && !rmmDst b && box (bit (field b 3 1) 0) (bit (field b 3 1) 1) (field b 24 2) (field b 26 2) (rmmM w) (rmmN w * rmmBlocks w))
  | .counter _ => false
  | .word _ => false

/-- RMM: the blocks in order, each written before the next is formed. -/
def execRmm (tile : Nat) (s : State) : Res :=
  startVector 0x60 tile s (fun w u =>
    if wbits w 9 8 = 3 ∨ wbits w 14 11 ≠ 0 ∨ wbits w 107 56 ≠ 0 ∨ rmmD w > 512 then refuseVector u tile w 0x010A
    else if rmmD w = 0 then runVector u tile { word := w, cycles := 1 }
    else if rmmBlk w + 64 > sramBytes then refuseVector u tile w 0x0105
    else withReads u tile w [(rmmBlk w, 64)] [] (fun v0 =>
      let b := tileBytes (v0.tile tile) (rmmBlk w) 64
      let code := rmmRefusal w b
      if code ≠ 0 then refuseVector v0 tile w code
      else withCodes v0 tile w (rmmAreas w b) (rmmStores w b) (fun v =>
        let r := (List.range (rmmBlocks w)).foldl (rmmBlock w b) (v.tile tile, {})
        runVector (v.setTile tile r.1) tile { word := w, cycles := rmmBlocks w * rmmD w + 8, status := r.2 })))

end Sys2Proof.Machine
end

