-- ==== Sys2Proof/Machine/Dispatch.lean ====
section
/-! DEFINITION. What each command does: one arm a row of the table, each the call of one meaning. -/

namespace Sys2Proof.Machine

open Sys2Proof

/-- The effect of a command on everything but the queue. -/
def exec (i : Instr) (s : State) : Host.Outcome State Fault Refusal :=
  match i with
  | .vauxRise straps => Sys2Proof.Machine.execVauxRise straps s
  | .rootPllLock locked => Sys2Proof.Machine.execRootPllLock locked s
  | .bootVerify floorReadable => Sys2Proof.Machine.execBootVerify floorReadable s
  | .pwrOkRise => Sys2Proof.Machine.execPwrOkRise s
  | .pwrOkFall => Sys2Proof.Machine.execPwrOkFall s
  | .domainEnable tests => Sys2Proof.Machine.execDomainEnable tests s
  | .hbmTrainingComplete stack ok repaired spares => Sys2Proof.Machine.execHbmTrainingComplete stack ok repaired spares s
  | .resetNAssert => Sys2Proof.Machine.execResetNAssert s
  | .resetNRelease => Sys2Proof.Machine.execResetNRelease s
  | .vauxRemove => Sys2Proof.Machine.execVauxRemove s
  | .clockLoss => Sys2Proof.Machine.execClockLoss s
  | .logRingUp => Sys2Proof.Machine.execLogRingUp s
  | .mload tile => Sys2Proof.Machine.execMload tile s
  | .mloadComplete tile stalls => Sys2Proof.Machine.execMloadComplete tile stalls s
  | .mswap tile => Sys2Proof.Machine.execMswap tile s
  | .mrun tile => Sys2Proof.Machine.execMrun tile s
  | .mrunRowWrite tile stalls => Sys2Proof.Machine.execMrunRowWrite tile s stalls
  | .mrunCheckSlot tile stalls => Sys2Proof.Machine.execMrunCheckSlot tile s stalls
  | .mrunComplete tile stalls => Sys2Proof.Machine.execMrunComplete tile stalls s
  | .vadd tile => Sys2Proof.Machine.execVadd tile s
  | .vsub tile => Sys2Proof.Machine.execVsub tile s
  | .vmul tile => Sys2Proof.Machine.execVmul tile s
  | .vfma tile => Sys2Proof.Machine.execVfma tile s
  | .vmin tile => Sys2Proof.Machine.execVmin tile s
  | .vmax tile => Sys2Proof.Machine.execVmax tile s
  | .vexp2 tile => Sys2Proof.Machine.execVexp2 tile s
  | .vlog2 tile => Sys2Proof.Machine.execVlog2 tile s
  | .vrcp tile => Sys2Proof.Machine.execVrcp tile s
  | .vrsq tile => Sys2Proof.Machine.execVrsq tile s
  | .vcmp tile => Sys2Proof.Machine.execVcmp tile s
  | .vsel tile => Sys2Proof.Machine.execVsel tile s
  | .vred tile => Sys2Proof.Machine.execVred tile s
  | .vtrn tile => Sys2Proof.Machine.execVtrn tile s
  | .vcvt tile => Sys2Proof.Machine.execVcvt tile s
  | .vmov tile => Sys2Proof.Machine.execVmov tile s
  | .vld tile => Sys2Proof.Machine.execVld tile s
  | .vst tile => Sys2Proof.Machine.execVst tile s
  | .vpack tile => Sys2Proof.Machine.execVpack tile s
  | .vunpk tile => Sys2Proof.Machine.execVunpk tile s
  | .vsg1 tile => Sys2Proof.Machine.execVsg1 tile s
  | .rmm tile => Sys2Proof.Machine.execRmm tile s
  | .vectorComplete tile stalls => Sys2Proof.Machine.execVectorComplete tile stalls s
  | .nop tile slot => Sys2Proof.Machine.execNop tile slot s
  | .add tile slot => Sys2Proof.Machine.execAdd tile slot s
  | .sub tile slot => Sys2Proof.Machine.execSub tile slot s
  | .mul tile slot => Sys2Proof.Machine.execMul tile slot s
  | .mulh tile slot => Sys2Proof.Machine.execMulh tile slot s
  | .and tile slot => Sys2Proof.Machine.execAnd tile slot s
  | .or tile slot => Sys2Proof.Machine.execOr tile slot s
  | .xor tile slot => Sys2Proof.Machine.execXor tile slot s
  | .shl tile slot => Sys2Proof.Machine.execShl tile slot s
  | .shr tile slot => Sys2Proof.Machine.execShr tile slot s
  | .sar tile slot => Sys2Proof.Machine.execSar tile slot s
  | .min tile slot => Sys2Proof.Machine.execMin tile slot s
  | .max tile slot => Sys2Proof.Machine.execMax tile slot s
  | .minu tile slot => Sys2Proof.Machine.execMinu tile slot s
  | .maxu tile slot => Sys2Proof.Machine.execMaxu tile slot s
  | .addi tile slot => Sys2Proof.Machine.execAddi tile slot s
  | .andi tile slot => Sys2Proof.Machine.execAndi tile slot s
  | .ori tile slot => Sys2Proof.Machine.execOri tile slot s
  | .xori tile slot => Sys2Proof.Machine.execXori tile slot s
  | .shli tile slot => Sys2Proof.Machine.execShli tile slot s
  | .shri tile slot => Sys2Proof.Machine.execShri tile slot s
  | .sari tile slot => Sys2Proof.Machine.execSari tile slot s
  | .shi tile slot => Sys2Proof.Machine.execShi tile slot s
  | .cmp tile slot => Sys2Proof.Machine.execCmp tile slot s
  | .cmpi tile slot => Sys2Proof.Machine.execCmpi tile slot s
  | .plog tile slot => Sys2Proof.Machine.execPlog tile slot s
  | .br tile slot => Sys2Proof.Machine.execBr tile slot s
  | .brl tile slot => Sys2Proof.Machine.execBrl tile slot s
  | .jr tile slot => Sys2Proof.Machine.execJr tile slot s
  | .ldl1 tile slot => Sys2Proof.Machine.execLdl1 tile slot s
  | .ldl2 tile slot => Sys2Proof.Machine.execLdl2 tile slot s
  | .ldl4 tile slot => Sys2Proof.Machine.execLdl4 tile slot s
  | .ldl8 tile slot => Sys2Proof.Machine.execLdl8 tile slot s
  | .ldls1 tile slot => Sys2Proof.Machine.execLdls1 tile slot s
  | .ldls2 tile slot => Sys2Proof.Machine.execLdls2 tile slot s
  | .ldls4 tile slot => Sys2Proof.Machine.execLdls4 tile slot s
  | .stl1 tile slot => Sys2Proof.Machine.execStl1 tile slot s
  | .stl2 tile slot => Sys2Proof.Machine.execStl2 tile slot s
  | .stl4 tile slot => Sys2Proof.Machine.execStl4 tile slot s
  | .stl8 tile slot => Sys2Proof.Machine.execStl8 tile slot s
  | .ldg1 tile slot => Sys2Proof.Machine.execLdg1 tile slot s
  | .ldg2 tile slot => Sys2Proof.Machine.execLdg2 tile slot s
  | .ldg4 tile slot => Sys2Proof.Machine.execLdg4 tile slot s
  | .ldg8 tile slot => Sys2Proof.Machine.execLdg8 tile slot s
  | .ldgs1 tile slot => Sys2Proof.Machine.execLdgs1 tile slot s
  | .ldgs2 tile slot => Sys2Proof.Machine.execLdgs2 tile slot s
  | .ldgs4 tile slot => Sys2Proof.Machine.execLdgs4 tile slot s
  | .stg1 tile slot => Sys2Proof.Machine.execStg1 tile slot s
  | .stg2 tile slot => Sys2Proof.Machine.execStg2 tile slot s
  | .stg4 tile slot => Sys2Proof.Machine.execStg4 tile slot s
  | .stg8 tile slot => Sys2Proof.Machine.execStg8 tile slot s
  | .globalLoadReply tile slot hostData poisoned => Sys2Proof.Machine.execGlobalLoadReply tile slot hostData s poisoned
  | .globalStoreAccept tile slot => Sys2Proof.Machine.execGlobalStoreAccept tile slot s
  | .atoml tile slot => Sys2Proof.Machine.execAtoml tile slot s
  | .atomg tile slot => Sys2Proof.Machine.execAtomg tile slot s
  | .enq tile slot => Sys2Proof.Machine.execEnq tile slot s
  | .waitc tile slot => Sys2Proof.Machine.execWaitc tile slot s
  | .waitcRelease tile slot => Sys2Proof.Machine.execWaitcRelease tile slot s
  | .ctr tile slot => Sys2Proof.Machine.execCtr tile slot s
  | .bar tile slot => Sys2Proof.Machine.execBar tile slot s
  | .yield tile slot => Sys2Proof.Machine.execYield tile slot s
  | .yieldExpire tile slot => Sys2Proof.Machine.execYieldExpire tile slot s
  | .fence tile slot => Sys2Proof.Machine.execFence tile slot s
  | .fenceComplete who => Sys2Proof.Machine.execFenceComplete who s
  | .fenceTimeoutExpire who => Sys2Proof.Machine.execFenceTimeoutExpire who s
  | .time tile slot => Sys2Proof.Machine.execTime tile slot s
  | .rand tile slot => Sys2Proof.Machine.execRand tile slot s
  | .sreg tile slot => Sys2Proof.Machine.execSreg tile slot s
  | .tmap tile slot => Sys2Proof.Machine.execTmap tile slot s
  | .exit tile slot => Sys2Proof.Machine.execExit tile slot s
  | .icacheFill tile slot => Sys2Proof.Machine.execIcacheFill tile slot s
  | .cpy tile => Sys2Proof.Machine.execCpy tile s
  | .csig tile => Sys2Proof.Machine.execCsig tile s
  | .copyLineLand tile copy line hostData poisoned => Sys2Proof.Machine.execCopyLineLand tile copy line hostData s poisoned
  | .copyComplete tile copy stalls => Sys2Proof.Machine.execCopyComplete tile copy stalls s
  | .copyFenceTimeout who => Sys2Proof.Machine.execCopyFenceTimeout who s
  | .launch ring => Sys2Proof.Machine.execLaunch ring s
  | .launchReplayList ring => Sys2Proof.Machine.execLaunchReplayList ring s
  | .launchTileStart tile => Sys2Proof.Machine.execLaunchTileStart tile s
  | .launchTileEnd tile => Sys2Proof.Machine.execLaunchTileEnd tile s
  | .launchWatchdogExpire launch => Sys2Proof.Machine.execLaunchWatchdogExpire launch s
  | .launchFaultEnd launch => Sys2Proof.Machine.execLaunchFaultEnd launch s
  | .bankEccWriteback tile granule => Sys2Proof.Machine.execBankEccWriteback tile granule s
  | .bankRetentionEnter tile bank => Sys2Proof.Machine.execBankRetentionEnter tile bank s
  | .bankWakeComplete tile bank upsets => Sys2Proof.Machine.execBankWakeComplete tile bank s upsets
  | .tileRowPowerOn domain => Sys2Proof.Machine.execTileRowPowerOn domain s
  | .bankClearComplete domain => Sys2Proof.Machine.execBankClearComplete domain s
  | .meshMessageDeliver message errors => Sys2Proof.Machine.execMeshMessageDeliver message errors s
  | .edgeBeatReceive edge good => Sys2Proof.Machine.execEdgeBeatReceive edge good s
  | .hbmAccess request upsets => Sys2Proof.Machine.execHbmAccess request s upsets
  | .hbmPartialWriteFlush granule => Sys2Proof.Machine.execHbmPartialWriteFlush granule s
  | .hbmCeWriteback granule => Sys2Proof.Machine.execHbmCeWriteback granule s
  | .hbmRefresh channel => Sys2Proof.Machine.execHbmRefresh channel s
  | .hbmTempRead stack celsius => Sys2Proof.Machine.execHbmTempRead stack celsius s
  | .hbmStallTimeout stack => Sys2Proof.Machine.execHbmStallTimeout stack s
  | .hbmSelfRefreshEnter stack => Sys2Proof.Machine.execHbmSelfRefreshEnter stack s
  | .mrcommitGo host => Sys2Proof.Machine.execMrcommitGo host s
  | .mrcommitComplete => Sys2Proof.Machine.execMrcommitComplete s
  | .mretWrite host index value => Sys2Proof.Machine.execMretWrite host index value s
  | .memRepair ring => Sys2Proof.Machine.execMemRepair ring s
  | .memRepairComplete => Sys2Proof.Machine.execMemRepairComplete s
  | .pctlEnWrite host port value => Sys2Proof.Machine.execPctlEnWrite host port value s
  | .pctlRetrain host port => Sys2Proof.Machine.execPctlRetrain host port s
  | .linkTrained port locked => Sys2Proof.Machine.execLinkTrained port locked s
  | .laneLockLoss port => Sys2Proof.Machine.execLaneLockLoss port s
  | .flitSend port => Sys2Proof.Machine.execFlitSend port s
  | .flitReceive port flit fec => Sys2Proof.Machine.execFlitReceive port flit fec s
  | .linkReplayTimeout port => Sys2Proof.Machine.execLinkReplayTimeout port s
  | .linkRxTimeout port => Sys2Proof.Machine.execLinkRxTimeout port s
  | .timeSampleSend port => Sys2Proof.Machine.execTimeSampleSend port s
  | .ropeCardSend port => Sys2Proof.Machine.execRopeCardSend port s
  | .ropeCardEvaluate port => Sys2Proof.Machine.execRopeCardEvaluate port s
  | .cardTimeout port => Sys2Proof.Machine.execCardTimeout port s
  | .fdevWrite host value => Sys2Proof.Machine.execFdevWrite host value s
  | .rhiWrite host device value => Sys2Proof.Machine.execRhiWrite host device value s
  | .packetForward port => Sys2Proof.Machine.execPacketForward port s
  | .packetReorder port => Sys2Proof.Machine.execPacketReorder port s
  | .ackSend src cls => Sys2Proof.Machine.execAckSend src cls s
  | .ack port => Sys2Proof.Machine.execAck port s
  | .streamRetryExpire dst cls => Sys2Proof.Machine.execStreamRetryExpire dst cls s
  | .brokenStreamResend dst cls => Sys2Proof.Machine.execBrokenStreamResend dst cls s
  | .requestRetryExpire tag => Sys2Proof.Machine.execRequestRetryExpire tag s
  | .read src => Sys2Proof.Machine.execRead src s
  | .write src => Sys2Proof.Machine.execWrite src s
  | .writem src => Sys2Proof.Machine.execWritem src s
  | .atomic src => Sys2Proof.Machine.execAtomic src s
  | .signalPacket src => Sys2Proof.Machine.execSignalPacket src s
  | .rdata port => Sys2Proof.Machine.execRdata port s
  | .aresult port => Sys2Proof.Machine.execAresult port s
  | .status port => Sys2Proof.Machine.execStatus port s
  | .replyCacheExpire die upsets => Sys2Proof.Machine.execReplyCacheExpire die s upsets
  | .loadTimeoutExpire tag => Sys2Proof.Machine.execLoadTimeoutExpire tag s
  | .cread src => Sys2Proof.Machine.execCread src s
  | .creadAbandon tag => Sys2Proof.Machine.execCreadAbandon tag s
  | .region ring => Sys2Proof.Machine.execRegion ring s
  | .invalidate ring => Sys2Proof.Machine.execInvalidate ring s
  | .recall src => Sys2Proof.Machine.execRecall src s
  | .inv src => Sys2Proof.Machine.execInv src s
  | .invResend region device => Sys2Proof.Machine.execInvResend region device s
  | .recallComplete region => Sys2Proof.Machine.execRecallComplete region s
  | .recallTimeout region => Sys2Proof.Machine.execRecallTimeout region s
  | .recallResend ring => Sys2Proof.Machine.execRecallResend ring s
  | .publish src => Sys2Proof.Machine.execPublish src s
  | .writeWindowClose region => Sys2Proof.Machine.execWriteWindowClose region s
  | .frlcWrite host value => Sys2Proof.Machine.execFrlcWrite host value s
  | .frlcFlush host => Sys2Proof.Machine.execFrlcFlush host s
  | .fcwhiWrite host window value => Sys2Proof.Machine.execFcwhiWrite host window value s
  | .bucketDeclare ring => Sys2Proof.Machine.execBucketDeclare ring s
  | .bucketArm ring => Sys2Proof.Machine.execBucketArm ring s
  | .bucketRelease ring => Sys2Proof.Machine.execBucketRelease ring s
  | .bucketFire bucket => Sys2Proof.Machine.execBucketFire bucket s
  | .red src => Sys2Proof.Machine.execRed src s
  | .contributionFold bucket owner => Sys2Proof.Machine.execContributionFold bucket owner s
  | .scatterClose bucket => Sys2Proof.Machine.execScatterClose bucket s
  | .ringHop bucket shard => Sys2Proof.Machine.execRingHop bucket shard s
  | .ringClose bucket => Sys2Proof.Machine.execRingClose bucket s
  | .ringTimeout bucket => Sys2Proof.Machine.execRingTimeout bucket s
  | .pushFire bucket => Sys2Proof.Machine.execPushFire bucket s
  | .pushedClose bucket => Sys2Proof.Machine.execPushedClose bucket s
  | .jobLockLock ring => Sys2Proof.Machine.execJobLockLock ring s
  | .jobLockUnlock ring => Sys2Proof.Machine.execJobLockUnlock ring s
  | .pipeDeclare ring => Sys2Proof.Machine.execPipeDeclare ring s
  | .pipeRemove ring => Sys2Proof.Machine.execPipeRemove ring s
  | .pipePackSend pipe => Sys2Proof.Machine.execPipePackSend pipe s
  | .pipe src => Sys2Proof.Machine.execPipe src s
  | .pipeCreditReturn pipe => Sys2Proof.Machine.execPipeCreditReturn pipe s
  | .gather ring => Sys2Proof.Machine.execGather ring s
  | .gatherEntryIssue ring => Sys2Proof.Machine.execGatherEntryIssue ring s
  | .pace ring => Sys2Proof.Machine.execPace ring s
  | .paceReportSend => Sys2Proof.Machine.execPaceReportSend s
  | .groupPaceSend => Sys2Proof.Machine.execGroupPaceSend s
  | .mgmtPaceReport port => Sys2Proof.Machine.execMgmtPaceReport port s
  | .mgmtGroupPace port => Sys2Proof.Machine.execMgmtGroupPace port s
  | .groupPaceTimeout => Sys2Proof.Machine.execGroupPaceTimeout s
  | .paceLostTimeout => Sys2Proof.Machine.execPaceLostTimeout s
  | .doorbellPoll host block => Sys2Proof.Machine.execDoorbellPoll host block s
  | .descriptorFetch ring raw => Sys2Proof.Machine.execDescriptorFetch ring raw s
  | .completionRecordWrite ring => Sys2Proof.Machine.execCompletionRecordWrite ring s
  | .rctlEnWrite host ring value => Sys2Proof.Machine.execRctlEnWrite host ring value s
  | .rctlRestart host ring => Sys2Proof.Machine.execRctlRestart host ring s
  | .copy ring outside => Sys2Proof.Machine.execCopy ring outside s
  | .fenceDescriptor ring => Sys2Proof.Machine.execFenceDescriptor ring s
  | .wait ring => Sys2Proof.Machine.execWait ring s
  | .waitPoll ring outsideWord poisoned => Sys2Proof.Machine.execWaitPoll ring outsideWord s poisoned
  | .waitTimeout ring => Sys2Proof.Machine.execWaitTimeout ring s
  | .signal ring => Sys2Proof.Machine.execSignal ring s
  | .timed ring => Sys2Proof.Machine.execTimed ring s
  | .timedRelease ring => Sys2Proof.Machine.execTimedRelease ring s
  | .pitchOpen ring => Sys2Proof.Machine.execPitchOpen ring s
  | .belay ring => Sys2Proof.Machine.execBelay ring s
  | .sprepAnswer port => Sys2Proof.Machine.execSprepAnswer port s
  | .belayPrepareTimeout ring => Sys2Proof.Machine.execBelayPrepareTimeout ring s
  | .belayComplete ring => Sys2Proof.Machine.execBelayComplete ring s
  | .stagePacketResend tag => Sys2Proof.Machine.execStagePacketResend tag s
  | .scommitResend record device => Sys2Proof.Machine.execScommitResend record device s
  | .sprep src => Sys2Proof.Machine.execSprep src s
  | .scommit src => Sys2Proof.Machine.execScommit src s
  | .sdiscard src => Sys2Proof.Machine.execSdiscard src s
  | .squery src => Sys2Proof.Machine.execSquery src s
  | .inDoubtQuery stage => Sys2Proof.Machine.execInDoubtQuery stage s
  | .stageBlockCopyHome block => Sys2Proof.Machine.execStageBlockCopyHome block s
  | .pitchAbort ring => Sys2Proof.Machine.execPitchAbort ring s
  | .pitchStopComplete ring => Sys2Proof.Machine.execPitchStopComplete ring s
  | .rsrgoCommit host => Sys2Proof.Machine.execRsrgoCommit host s
  | .rsrgoDiscard host => Sys2Proof.Machine.execRsrgoDiscard host s
  | .hoverOffer host token => Sys2Proof.Machine.execHoverOffer host token s
  | .hoverAccept host token => Sys2Proof.Machine.execHoverAccept host token s
  | .hoverClaim host => Sys2Proof.Machine.execHoverClaim host s
  | .handoverOfferLapse => Sys2Proof.Machine.execHandoverOfferLapse s
  | .snapshotDeclare ring => Sys2Proof.Machine.execSnapshotDeclare ring s
  | .mgmtPartnerQuery port => Sys2Proof.Machine.execMgmtPartnerQuery port s
  | .mgmtPartnerAnswer port => Sys2Proof.Machine.execMgmtPartnerAnswer port s
  | .partnerQueryTimeout ring => Sys2Proof.Machine.execPartnerQueryTimeout ring s
  | .snapshotTake ring => Sys2Proof.Machine.execSnapshotTake ring s
  | .captureComplete set => Sys2Proof.Machine.execCaptureComplete set s
  | .drainStart set => Sys2Proof.Machine.execDrainStart set s
  | .nvmeCommandComplete set drive status inbound => Sys2Proof.Machine.execNvmeCommandComplete set drive status s inbound
  | .partnerCopyStep set => Sys2Proof.Machine.execPartnerCopyStep set s
  | .drainEnd set => Sys2Proof.Machine.execDrainEnd set s
  | .snapshotRelease ring => Sys2Proof.Machine.execSnapshotRelease ring s
  | .snapshotDiscard ring => Sys2Proof.Machine.execSnapshotDiscard ring s
  | .restoreLoad ring => Sys2Proof.Machine.execRestoreLoad ring s
  | .restorePromote ring => Sys2Proof.Machine.execRestorePromote ring s
  | .cursorSet ring => Sys2Proof.Machine.execCursorSet ring s
  | .cursorBind ring => Sys2Proof.Machine.execCursorBind ring s
  | .snctlEnWrite host value => Sys2Proof.Machine.execSnctlEnWrite host value s
  | .powerSample watts => Sys2Proof.Machine.execPowerSample watts s
  | .controlTick => Sys2Proof.Machine.execControlTick s
  | .pcapWrite host value => Sys2Proof.Machine.execPcapWrite host value s
  | .pwinWrite host value => Sys2Proof.Machine.execPwinWrite host value s
  | .pfixWrite host value => Sys2Proof.Machine.execPfixWrite host value s
  | .hint ring => Sys2Proof.Machine.execHint ring s
  | .envelope ring => Sys2Proof.Machine.execEnvelope ring s
  | .envclr host => Sys2Proof.Machine.execEnvclr host s
  | .sensorRead spot diode oscillator => Sys2Proof.Machine.execSensorRead spot diode oscillator s
  | .throttleStep => Sys2Proof.Machine.execThrottleStep s
  | .throttleRecoverStep => Sys2Proof.Machine.execThrottleRecoverStep s
  | .floorTimeout => Sys2Proof.Machine.execFloorTimeout s
  | .thermalComparatorTrip => Sys2Proof.Machine.execThermalComparatorTrip s
  | .coolantRead flow inlet outlet => Sys2Proof.Machine.execCoolantRead flow inlet outlet s
  | .coolantReadTimeout => Sys2Proof.Machine.execCoolantReadTimeout s
  | .leaderElection => Sys2Proof.Machine.execLeaderElection s
  | .holdoverTimeout => Sys2Proof.Machine.execHoldoverTimeout s
  | .tepochWrite host value => Sys2Proof.Machine.execTepochWrite host value s
  | .tsethiWrite host value => Sys2Proof.Machine.execTsethiWrite host value s
  | .tnowloRead host => Sys2Proof.Machine.execTnowloRead host s
  | .sfadvGo host value => Sys2Proof.Machine.execSfadvGo host value s
  | .floorAdvanceComplete => Sys2Proof.Machine.execFloorAdvanceComplete s
  | .sattGo host => Sys2Proof.Machine.execSattGo host s
  | .attestReportComplete => Sys2Proof.Machine.execAttestReportComplete s
  | .smrxGo host value => Sys2Proof.Machine.execSmrxGo host value s
  | .sdgoGo host token => Sys2Proof.Machine.execSdgoGo host token s
  | .sfcmdErase host => Sys2Proof.Machine.execSfcmdErase host s
  | .sfcmdProgram host => Sys2Proof.Machine.execSfcmdProgram host s
  | .sfcmdRead host => Sys2Proof.Machine.execSfcmdRead host s
  | .flashOpComplete => Sys2Proof.Machine.execFlashOpComplete s
  | .getLog lseq via => Sys2Proof.Machine.execGetLog lseq s via
  | .getSensors via => Sys2Proof.Machine.execGetSensors s via
  | .getCert offset via => Sys2Proof.Machine.execGetCert offset s via
  | .attest nonce via => Sys2Proof.Machine.execAttest nonce s via
  | .getChal via => Sys2Proof.Machine.execGetChal s via
  | .unlock token via => Sys2Proof.Machine.execUnlock token s via
  | .getBoot via => Sys2Proof.Machine.execGetBoot s via
  | .bar2Read host offset length => Sys2Proof.Machine.execBar2Read host offset length s
  | .bar2Write host offset data poisoned => Sys2Proof.Machine.execBar2Write host offset data poisoned s
  | .hostReadFailure who => Sys2Proof.Machine.execHostReadFailure who s
  | .hostLinkTrain host speed lanes => Sys2Proof.Machine.execHostLinkTrain host speed lanes s
  | .perstAssert host => Sys2Proof.Machine.execPerstAssert host s
  | .functionLevelReset host d3hot => Sys2Proof.Machine.execFunctionLevelReset host s d3hot
  | .msixModerationTimer host vector => Sys2Proof.Machine.execMsixModerationTimer host vector s
  | .msixVectorUnmask host vector => Sys2Proof.Machine.execMsixVectorUnmask host vector s
  | .elogWrite host value => Sys2Proof.Machine.execElogWrite host value s
  | .emirctlWrite host value => Sys2Proof.Machine.execEmirctlWrite host value s
  | .tileCfg ring => Sys2Proof.Machine.execTileCfg ring s
  | .tileCfgTakeEffect tile => Sys2Proof.Machine.execTileCfgTakeEffect tile s
  | .rcRegisterRead host offset space => Sys2Proof.Machine.execRcRegisterRead host offset s space
  | .registerWrite host offset value space => Sys2Proof.Machine.execRegisterWrite host offset value s space
  | .descriptorNop ring => Sys2Proof.Machine.execDescriptorNop ring s
  | .descriptorReservedOpcode ring => Sys2Proof.Machine.execDescriptorReservedOpcode ring s
  | .threadReservedOpcode tile slot => Sys2Proof.Machine.execThreadReservedOpcode tile slot s
  | .matrixReservedOpcode tile => Sys2Proof.Machine.execMatrixReservedOpcode tile s
  | .vectorReservedOpcode tile => Sys2Proof.Machine.execVectorReservedOpcode tile s
  | .copyReservedOpcode tile => Sys2Proof.Machine.execCopyReservedOpcode tile s
  | .partnerCopyTimeout set => Sys2Proof.Machine.execPartnerCopyTimeout set s
  | .hbmSelfRefreshExit stack => Sys2Proof.Machine.execHbmSelfRefreshExit stack s
  | .nvmeInitComplete present usable lbaBytes maxTransfer => Sys2Proof.Machine.execNvmeInitComplete present usable lbaBytes s maxTransfer
  | .mctpControlMessage messageType vendor via => Sys2Proof.Machine.execMctpControlMessage messageType s vendor via
  | .bar0BadAccess host offset size isWrite => Sys2Proof.Machine.execBar0BadAccess host offset size isWrite s

end Sys2Proof.Machine
end

