-- ==== Sys2Proof/Machine/Idle.lean ====
section
/-! DEFINITION. What a control cycle without a command does: the clock and, while the service die is awake, the time
base advance (R418; DESIGN CHOICE, log entry 1). -/

namespace Sys2Proof.Machine

/-- One control cycle passes: the next one begins with the RC fields as they stand (R6). -/
def idle (s : State) : State :=
  { s with clk := s.clk + 1, counts := rcCounts s, time := if s.pins.vaux && s.time.pllLocked then { s.time with now := (s.time.now + s.time.inc) % 2 ^ 96 } else s.time }

end Sys2Proof.Machine
end

