-- ==== Sys2Proof/Safety.lean ====
section
/-! DEFINITION. The terms in which claims speak of the block: how far a command reaches, which word a thread issues,
and the canonical form of every memory. -/

namespace Sys2Proof.Safety

open Sys2Proof.Machine

/-! ### How far a command reaches -/

/-- Outside the tiles nothing changed, and no other tile did. -/
def OnlyTile (tile : Nat) (s t : State) : Prop :=
  t = { s with tiles := t.tiles } ∧ ∀ x, x ≠ tile → t.tile x = s.tile x

/-- Of the whole part only one thread of one tile changed, and its pipe's note of who issued last, and when. -/
def OnlyThread (tile slot : Nat) (s t : State) : Prop :=
  OnlyTile tile s t ∧
  t.tile tile = { s.tile tile with
    threads := (t.tile tile).threads, lastIssue := (t.tile tile).lastIssue, issuedAt := (t.tile tile).issuedAt } ∧
  ∀ y, y ≠ slot → (t.tile tile).thread y = (s.tile tile).thread y

/-- The tile's threads, banks and pipes may have changed, and nothing else: no engine, counter, stream or register of
R172. -/
def OnlyMemory (tile : Nat) (s t : State) : Prop :=
  OnlyTile tile s t ∧
  t.tile tile = { s.tile tile with
    threads := (t.tile tile).threads, lastIssue := (t.tile tile).lastIssue, issuedAt := (t.tile tile).issuedAt
    mem := (t.tile tile).mem, marks := (t.tile tile).marks, writeback := (t.tile tile).writeback, banks := (t.tile tile).banks }

/-- A granule place of the log ring (R440). -/
def RingGranule (s : State) (g : Nat) : Prop :=
  ∃ n, g = granuleOf (landView s) (s.log.region.toNat * 2 ^ 30 + n % 2 ^ s.log.log2n.toNat * 64)

/-- What recording a fault may touch: the log ring in HBM and what goes with a write there, the log, and what the ports and the
mirror sent. While the ring is down HBM is as before; else every byte outside the ring's granules is. -/
def OnlyLog (s t : State) : Prop :=
  t = { s with
    hbm := { s.hbm with
      mem := t.hbm.mem, held := t.hbm.held, marks := t.hbm.marks, logged := t.hbm.logged, writeback := t.hbm.writeback
      stk := t.hbm.stk, repair := t.hbm.repair }
    log := t.log, host := t.host, out := t.out } ∧
  (t.log.ringUp = s.log.ringUp ∧ t.log.region = s.log.region ∧ t.log.log2n = s.log.log2n) ∧
  (s.log.ringUp = false → t.hbm = s.hbm) ∧
  (Mem.wf zeroByte s.hbm.mem = true → Mem.wf zeroByte t.hbm.mem = true ∧
    ∀ a, ¬ RingGranule s (a / 256) → memByte zeroByte t.hbm.mem a = memByte zeroByte s.hbm.mem a)

/-- Only the tile, the pitch counts of its ring pair and the log may have changed. -/
def OnlyTileAndLog (tile : Nat) (s t : State) : Prop :=
  OnlyLog { s with tiles := t.tiles, cmd := { s.cmd with rings := t.cmd.rings } } t ∧ ∀ x, x ≠ tile → t.tile x = s.tile x

/-- The tile has stopped, its registers of R172 hold the code, and its queues are empty. -/
def Stopped (t : State) (tile code : Nat) : Prop :=
  (t.tile tile).trun = 3 ∧ (t.tile tile).tfltCode = BitVec.ofNat 16 code ∧
  (t.tile tile).mqueue = [] ∧ (t.tile tile).vqueue = [] ∧ (t.tile tile).cqueue = []

/-- An engine's instruction has completed (R101): with `STAT` its record lies at `STADDR` and no other byte of the tile
changed; with `CEN` its counter is one higher and no other counter changed. -/
def Completed (s t : State) (tile : Nat) (w : W128) (rec_ : Bytes) : Prop :=
  (∀ k, t.counter tile k = if cenOf w = true ∧ k = ctrOf w then s.counter tile k + 1 else s.counter tile k) ∧
  (statOf w = true → memRead zeroByte (t.tile tile).mem (staddrOf w) rec_.length = rec_) ∧
  (∀ a, (statOf w = true ∧ staddrOf w ≤ a ∧ a < staddrOf w + rec_.length) ∨
    memByte zeroByte (t.tile tile).mem a = memByte zeroByte (s.tile tile).mem a)

/-- The place of an instruction's status record is one the engine can write. -/
def RecordPlace (s : State) (tile : Nat) (w : W128) : Prop :=
  Mem.wf zeroByte (s.tile tile).mem = true ∧
  (statOf w = true → staddrOf w + 32 ≤ sramBytes ∧ touchesContext (staddrOf w) 32 = false)

/-- No stored code of the tile is bad. -/
def Clean (s : State) (tile : Nat) : Prop := (s.tile tile).marks = [] ∧ (s.tile tile).storeMarks = []

/-! ### Threads -/

/-- The thread of a slot. -/
def thr (s : State) (tile slot : Nat) : Thread := (s.tile tile).thread slot

/-- The slot's pipe takes it, and it would issue `w`, a word that is not reserved and whose guard lets it take effect. -/
def Fetches (s : State) (tile slot : Nat) (w : W32) : Prop :=
  tile < 1152 ∧ slot < 2048 ∧ threadWord s tile slot = some w ∧ picked s tile slot = true ∧ validWord w = true ∧
    guardOn (thr s tile slot) w = true

/-- It does, and a further word of the image follows it. -/
def Issues (s : State) (tile slot : Nat) (w : W32) : Prop :=
  Fetches s tile slot w ∧ (thr s tile slot).pc.toNat + 4 < imageLen s tile

/-- The thread has moved to the next word, and nothing of it but its registers and predicates changed with that. -/
def Stepped (s t : State) (tile slot : Nat) : Prop :=
  (thr t tile slot).pc = (thr s tile slot).pc + 4 ∧ (thr t tile slot).phase = .ready ∧
  (thr t tile slot).wait = (thr s tile slot).wait ∧ (thr t tile slot).sent = (thr s tile slot).sent

/-- Register `rd` took `v`, unless `rd` is g0, which reads as zero; every other register is as before. -/
def Wrote (s t : State) (tile slot rd : Nat) (v : W64) : Prop :=
  ∀ n, (thr t tile slot).reg n = if n = rd ∧ rd ≠ 0 then v else (thr s tile slot).reg n

/-- The predicates are as before. -/
def SamePreds (s t : State) (tile slot : Nat) : Prop := (thr t tile slot).p = (thr s tile slot).p

/-- The thread's registers are as before. -/
def SameRegs (s t : State) (tile slot : Nat) : Prop := ∀ n, (thr t tile slot).reg n = (thr s tile slot).reg n

/-! ### Memories -/

/-- Every memory of the part is in the canonical form: HBM, the banks of every tile, the drives and the boot flash. -/
def Canonical (s : State) : Bool :=
  Mem.wf zeroByte s.hbm.mem && s.tiles.all (fun x => Mem.wf zeroByte x.2.mem) &&
    s.snap.drives.all (fun x => Mem.wf zeroByte x.2) && Mem.wf erasedByte s.sec.flash

end Sys2Proof.Safety
end

