-- ==== Sys2Proof/Certificates/Slice0/Obligations.lean ====
section
/-! DEFINITION. The statements handed to the provers. Each `Obligations.<Name>` is listed in OBLIGATIONS.json; the
`Claims` beside them say once what several commands of one shape do. -/

open Sys2Proof Sys2Proof.Machine Sys2Proof.Safety

/-! ### Threads (chapter 05) -/

/-- A form A instruction: whenever it issues, rd takes `f` of ra and rb, and nothing else changes. -/
def Claims.RegA (i : Nat → Nat → Instr) (opc : Nat) (f : W64 → W64 → W64) : Prop :=
  ∀ s tile slot w, Issues s tile slot w → opcOf w = opc →
    ∃ t, exec (i tile slot) s = .next t ∧ OnlyThread tile slot s t ∧ Stepped s t tile slot ∧ SamePreds s t tile slot ∧
      Wrote s t tile slot (rdOf w) (f ((thr s tile slot).reg (raOf w)) ((thr s tile slot).reg (rbOf w)))

/-- A form B instruction: as form A, with the sign-extended `IMM14` in place of rb. -/
def Claims.RegB (i : Nat → Nat → Instr) (opc : Nat) (f : W64 → W64 → W64) : Prop :=
  ∀ s tile slot w, Issues s tile slot w → opcOf w = opc →
    ∃ t, exec (i tile slot) s = .next t ∧ OnlyThread tile slot s t ∧ Stepped s t tile slot ∧ SamePreds s t tile slot ∧
      Wrote s t tile slot (rdOf w) (f ((thr s tile slot).reg (raOf w)) (imm14 w))

/-- R144, R139, R142: the integer, logic and shift instructions complete in every state in which they issue, with the
result of R144's table in rd, and leave everything else of the part as it was. -/
def Obligations.ThreadArithmetic : Prop :=
  Claims.RegA .add 0x01 (fun a b => a + b) ∧
  Claims.RegA .sub 0x02 (fun a b => a - b) ∧
  Claims.RegA .mul 0x03 (fun a b => a * b) ∧
  Claims.RegA .mulh 0x04 (fun a b => BitVec.ofInt 64 (a.toInt * b.toInt / 2 ^ 64)) ∧
  Claims.RegA .and 0x05 (fun a b => a &&& b) ∧
  Claims.RegA .or 0x06 (fun a b => a ||| b) ∧
  Claims.RegA .xor 0x07 (fun a b => a ^^^ b) ∧
  Claims.RegA .shl 0x08 (fun a b => BitVec.ofNat 64 (a.toNat * 2 ^ (b.toNat % 64))) ∧
  Claims.RegA .shr 0x09 (fun a b => BitVec.ofNat 64 (a.toNat / 2 ^ (b.toNat % 64))) ∧
  Claims.RegA .sar 0x0A (fun a b => BitVec.ofInt 64 (a.toInt / 2 ^ (b.toNat % 64))) ∧
  Claims.RegA .min 0x0B (fun a b => if a.toInt < b.toInt then a else b) ∧
  Claims.RegA .max 0x0C (fun a b => if b.toInt < a.toInt then a else b) ∧
  Claims.RegA .minu 0x0D (fun a b => if a.toNat < b.toNat then a else b) ∧
  Claims.RegA .maxu 0x0E (fun a b => if b.toNat < a.toNat then a else b) ∧
  Claims.RegB .addi 0x10 (fun a b => a + b) ∧
  Claims.RegB .andi 0x11 (fun a b => a &&& b) ∧
  Claims.RegB .ori 0x12 (fun a b => a ||| b) ∧
  Claims.RegB .xori 0x13 (fun a b => a ^^^ b) ∧
  Claims.RegB .shli 0x14 (fun a b => BitVec.ofNat 64 (a.toNat * 2 ^ (b.toNat % 64))) ∧
  Claims.RegB .shri 0x15 (fun a b => BitVec.ofNat 64 (a.toNat / 2 ^ (b.toNat % 64))) ∧
  Claims.RegB .sari 0x16 (fun a b => BitVec.ofInt 64 (a.toInt / 2 ^ (b.toNat % 64))) ∧
  (∀ s tile slot w, Issues s tile slot w → opcOf w = 0x17 →
    ∃ t, exec (.shi tile slot) s = .next t ∧ OnlyThread tile slot s t ∧ Stepped s t tile slot ∧ SamePreds s t tile slot ∧
      Wrote s t tile slot (rdOf w) ((thr s tile slot).reg (rdOf w) <<< 16 ||| BitVec.ofNat 64 (imm16 w)))

/-- A predicate instruction: predicate `k w` takes `f`, unless it is p0, which reads as true; the other predicates and
every register are as before. -/
def Claims.Predicate (i : Nat → Nat → Instr) (opc : Nat) (f : Thread → W32 → Bool) : Prop :=
  ∀ s tile slot w, Issues s tile slot w → opcOf w = opc →
    ∃ t, exec (i tile slot) s = .next t ∧ OnlyThread tile slot s t ∧ Stepped s t tile slot ∧ SameRegs s t tile slot ∧
      ∀ n, n < 4 → (thr t tile slot).pred n =
        if n = rdOf w % 4 ∧ n ≠ 0 then f (thr s tile slot) w else (thr s tile slot).pred n

/-- The ten conditions of R145, by number. -/
def Claims.condition (c : Nat) (a b : W64) : Bool :=
  match c with
  | 0 => decide (a = b) | 1 => decide (a ≠ b)
  | 2 => decide (a.toInt < b.toInt) | 3 => decide (a.toInt ≤ b.toInt) | 4 => decide (b.toInt < a.toInt) | 5 => decide (b.toInt ≤ a.toInt)
  | 6 => decide (a.toNat < b.toNat) | 7 => decide (a.toNat ≤ b.toNat) | 8 => decide (b.toNat < a.toNat) | _ => decide (b.toNat ≤ a.toNat)

/-- A taken branch: the counter takes `target`, a multiple of 4 below the image length. -/
def Claims.Jump (i : Nat → Nat → Instr) (opc : Nat) (target : Thread → W32 → Nat) (link : Bool) : Prop :=
  ∀ s tile slot w, Fetches s tile slot w → opcOf w = opc →
    target (thr s tile slot) w % 4 = 0 → target (thr s tile slot) w < imageLen s tile →
    ∃ t, exec (i tile slot) s = .next t ∧ OnlyThread tile slot s t ∧ SamePreds s t tile slot ∧
      (thr t tile slot).pc = BitVec.ofNat 32 (target (thr s tile slot) w) ∧ (thr t tile slot).phase = .ready ∧
      Wrote s t tile slot (if link then 15 else 0) (BitVec.ofNat 64 ((thr s tile slot).pc + 4).toNat)

/-- R142, R144 to R146: CMP and CMPI write one predicate with the condition's outcome, PLOG with AND, OR, XOR or AND NOT of
two predicates; BR, BRL and JR move the counter to their target, BRL leaving the address of the next word in g15; an
instruction whose guard is off only moves to the next word. -/
def Obligations.ThreadPredicatesAndBranches : Prop :=
  Claims.Predicate .cmp 0x20 (fun th w => Claims.condition (fnOf w) (th.reg (raOf w)) (th.reg (rbOf w))) ∧
  Claims.Predicate .cmpi 0x21 (fun th w =>
    let a := th.reg (raOf w)
    let b := imm14 w
    if rdOf w / 4 = 0 then decide (a = b) else if rdOf w / 4 = 1 then decide (a ≠ b)
    else if rdOf w / 4 = 2 then decide (a.toInt < b.toInt) else decide (a.toNat < b.toNat)) ∧
  Claims.Predicate .plog 0x22 (fun th w =>
    let a := th.pred (raOf w)
    let b := th.pred (rbOf w)
    if fnOf w = 0 then a && b else if fnOf w = 1 then a || b else if fnOf w = 2 then xor a b else a && !b) ∧
  Claims.Jump .br 0x28 (fun th w => wrap 32 ((th.pc.toNat : Int) + 4 * imm22 w)) false ∧
  Claims.Jump .brl 0x29 (fun th w => wrap 32 ((th.pc.toNat : Int) + 4 * imm22 w)) true ∧
  Claims.Jump .jr 0x2A (fun th w => (th.reg (raOf w)).toNat) false ∧
  (∀ s tile slot w, tile < 1152 → slot < 2048 → threadWord s tile slot = some w → validWord w = true →
    picked s tile slot = true → guardOn (thr s tile slot) w = false → (thr s tile slot).pc.toNat + 4 < imageLen s tile →
    ∀ p, p ∈ [(Instr.nop, 0x00), (.add, 0x01), (.stl8, 0x3B), (.ldg8, 0x43), (.stg8, 0x4B), (.atomg, 0x4D), (.enq, 0x50), (.exit, 0x7F)] →
      opcOf w = p.2 →
      ∃ t, exec (p.1 tile slot) s = .next t ∧ OnlyThread tile slot s t ∧ Stepped s t tile slot ∧
        SamePreds s t tile slot ∧ SameRegs s t tile slot)
/-- R144, R159: NOP, TIME, SREG and TMAP complete whenever they issue, write only rd, and read what R159 lists. -/
def Obligations.ThreadReads : Prop :=
  (∀ s tile slot w, Issues s tile slot w → opcOf w = 0x00 →
    ∃ t, exec (.nop tile slot) s = .next t ∧ OnlyThread tile slot s t ∧ Stepped s t tile slot ∧ SamePreds s t tile slot ∧
      SameRegs s t tile slot) ∧
  (∀ s tile slot w, Issues s tile slot w → opcOf w = 0x60 →
    ∃ t, exec (.time tile slot) s = .next t ∧ OnlyThread tile slot s t ∧ Stepped s t tile slot ∧ SamePreds s t tile slot ∧
      Wrote s t tile slot (rdOf w) (BitVec.ofNat 64 (if fnOf w = 0 then s.time.now / 2 ^ 32 else s.time.now / 2 ^ 16 % 2 ^ 16))) ∧
  (∀ s tile slot w l, Issues s tile slot w → opcOf w = 0x62 → launchOn s tile = some l → 0 < l.psize →
    ∃ t, exec (.sreg tile slot) s = .next t ∧ OnlyThread tile slot s t ∧ Stepped s t tile slot ∧ SamePreds s t tile slot ∧
      Wrote s t tile slot (rdOf w) (BitVec.ofNat 64 (
        [slot, slot / l.psize, slot % l.psize, l.psize, (s.tile tile).logical, tile,
          if s.fab.devValid then s.fab.devNum.toNat else 0xFFF, l.ltAddr.toNat, s.pwr.comp.toNat].getD (fnOf w) 0))) ∧
  (∀ s tile slot w l, Issues s tile slot w → opcOf w = 0x63 → launchOn s tile = some l →
    let lt := ((thr s tile slot).reg (raOf w)).toNat % 2048
    ∃ t, exec (.tmap tile slot) s = .next t ∧ OnlyThread tile slot s t ∧ Stepped s t tile slot ∧ SamePreds s t tile slot ∧
      Wrote s t tile slot (rdOf w) (if lt ∈ l.tset then BitVec.ofNat 64 (if l.rot = true then tget l.lmap lt lt else lt) else BitVec.allOnes 64))

/-- The bits of a FN field a thread instruction uses as a counter or stream number. -/
def Claims.unit8 (w : W32) : Nat := fnOf w % 256

/-- R151, R152, R153, R164: ENQ pushes rb:ra on the queue that FN names, before what higher pipes have pushed there in the
same control cycle; CTR reads, adds to or sets an arrival counter, a set before the increments of its control cycle; RAND
draws the stream's next word and leaves the stream one draw further. -/
def Obligations.ThreadCountersAndQueues : Prop :=
  (∀ s tile slot w, Issues s tile slot w → opcOf w = 0x50 →
    let x : W128 := (thr s tile slot).reg (rbOf w) ++ (thr s tile slot).reg (raOf w)
    let later := if (s.tile tile).enqAt = s.clk then
      ((s.tile tile).enqs.filter (fun e => e.1 == fnOf w && decide (slot % 4 < e.2))).length else 0
    let put (l : List W128) : List W128 := l.take (l.length - later) ++ x :: l.drop (l.length - later)
    ∃ t, exec (.enq tile slot) s = .next t ∧ OnlyTile tile s t ∧ Stepped s t tile slot ∧ SameRegs s t tile slot ∧
      (t.tile tile).mqueue = (if fnOf w = 0 then put (s.tile tile).mqueue else (s.tile tile).mqueue) ∧
      (t.tile tile).vqueue = (if fnOf w = 1 then put (s.tile tile).vqueue else (s.tile tile).vqueue) ∧
      (t.tile tile).cqueue = (if fnOf w = 2 then put (s.tile tile).cqueue else (s.tile tile).cqueue) ∧
      (t.tile tile).mem = (s.tile tile).mem ∧ (t.tile tile).counters = (s.tile tile).counters) ∧
  (∀ s tile slot w, Issues s tile slot w → opcOf w = 0x52 → (s.tile tile).storeMarks = [] →
    let k := Claims.unit8 w
    let v : W32 := ((thr s tile slot).reg (raOf w)).truncate 32
    ∃ t, exec (.ctr tile slot) s = .next t ∧ OnlyTile tile s t ∧ Stepped s t tile slot ∧
      (∀ j, t.counter tile j = if j = k ∧ fnOf w / 256 = 1 then s.counter tile k + v
        else if j = k ∧ fnOf w / 256 = 2 then v + s.added tile k else s.counter tile j) ∧
      (if fnOf w / 256 = 0 then Wrote s t tile slot (rdOf w) (BitVec.ofNat 64 (s.counter tile k).toNat) else SameRegs s t tile slot) ∧
      (t.tile tile).mem = (s.tile tile).mem) ∧
  (∀ s tile slot w, Issues s tile slot w → opcOf w = 0x61 →
    let x := (s.tile tile).stream (Claims.unit8 w)
    let d : W128 := streamWord x.key x.ctr
    ∃ t, exec (.rand tile slot) s = .next t ∧ OnlyTile tile s t ∧ Stepped s t tile slot ∧
      (∀ n, (thr t tile slot).reg n = if n ≠ 0 ∧ n = rbOf w then (d >>> 64).truncate 64
        else if n ≠ 0 ∧ n = rdOf w then d.truncate 64 else (thr s tile slot).reg n) ∧
      (∀ n, (t.tile tile).stream n = if n = Claims.unit8 w then { x with ctr := x.ctr + 1 } else (s.tile tile).stream n))

/-- The thread waits for `q`, at the word after the one it issued. -/
def Claims.Waits (s t : State) (tile slot : Nat) (q : Waiting) : Prop :=
  (thr t tile slot).pc = (thr s tile slot).pc + 4 ∧ (thr t tile slot).phase = .waiting ∧ (thr t tile slot).wait = q ∧
  SameRegs s t tile slot

/-- The waiting thread is ready again, its registers and counter as they were. -/
def Claims.Resumes (s t : State) (tile slot : Nat) : Prop :=
  (thr t tile slot).phase = .ready ∧ (thr t tile slot).wait = .nothing ∧ (thr t tile slot).pc = (thr s tile slot).pc ∧
  SameRegs s t tile slot ∧ OnlyTile tile s t ∧
  t.tile tile = { s.tile tile with threads := (t.tile tile).threads }

/-- R149, R154, R155, R252: the instructions that can make a thread wait, and the events that make it ready again. -/
def Obligations.ThreadWaits : Prop :=
  (∀ s tile slot w, Issues s tile slot w → opcOf w = 0x51 → (s.tile tile).storeMarks = [] →
    let k := Claims.unit8 w
    let target : W32 := ((thr s tile slot).reg (raOf w)).truncate 32
    ∃ t, exec (.waitc tile slot) s = .next t ∧ OnlyThread tile slot s t ∧
      (if (s.seenCounter tile k - target).toNat < 2 ^ 31 then Stepped s t tile slot ∧ SameRegs s t tile slot
       else Claims.Waits s t tile slot (.counter k target))) ∧
  (∀ s tile slot k target, tile < 1152 → slot < 2048 → (thr s tile slot).wait = .counter k target →
    (s.tile tile).trun = 1 → (s.seenCounter tile k - target).toNat < 2 ^ 31 →
    ∃ t, exec (.waitcRelease tile slot) s = .next t ∧ Claims.Resumes s t tile slot) ∧
  (∀ s tile slot w, Issues s tile slot w → opcOf w = 0x59 →
    ∃ t, exec (.yield tile slot) s = .next t ∧ OnlyThread tile slot s t ∧
      (if fnOf w = 0 then Stepped s t tile slot ∧ SameRegs s t tile slot
       else Claims.Waits s t tile slot (.yield (s.clk + fnOf w)))) ∧
  (∀ s tile slot u, tile < 1152 → slot < 2048 → (thr s tile slot).wait = .yield u → (s.tile tile).trun = 1 → u ≤ s.clk →
    ∃ t, exec (.yieldExpire tile slot) s = .next t ∧ Claims.Resumes s t tile slot) ∧
  (∀ s tile slot w, Issues s tile slot w → opcOf w = 0x5A →
    ∃ t, exec (.fence tile slot) s = .next t ∧ OnlyThread tile slot s t ∧
      (if fnOf w = 0 then Stepped s t tile slot ∧ SameRegs s t tile slot
       else Claims.Waits s t tile slot (.fence (BitVec.ofNat 2 (fnOf w)) (ownPosted s tile slot (fnOf w))
         (if fnOf w = 2 then (thr s tile slot).sent else []) [] s.clk))) ∧
  (∀ s tile slot sc rs cv tags start, tile < 1152 → slot < 2048 → (thr s tile slot).wait = .fence sc rs cv tags start →
    (s.tile tile).trun = 1 → (∀ i, i ∈ rs → reqOf s i = none) → covered s cv = true →
    ∃ t, exec (.fenceComplete (.thread tile slot)) s = .next t ∧ Claims.Resumes s t tile slot) ∧
  (∀ s tile slot rs cv tags start, tile < 1152 → slot < 2048 → (thr s tile slot).wait = .fence 2 rs cv tags start →
    (s.tile tile).trun = 1 → covered s cv = false → start + s.fab.fenceTo.toNat * 1200 ≤ s.clk →
    ∃ t, exec (.fenceTimeoutExpire (.thread tile slot)) s = .next t ∧ (t.tile tile).trun = 3 ∧
      (t.tile tile).tfltCode = 0x0403 ∧ (t.tile tile).mqueue = [] ∧ (t.tile tile).cqueue = [] ∧
      (t.tile tile).mem = (s.tile tile).mem ∧ thr t tile slot = thr s tile slot)

/-- R156, R157, R158: the last live member of a party to arrive at its barrier releases all who wait there, a thread that
is not the last waits; EXIT ends the slot, and with the last thread the tile drains. -/
def Obligations.ThreadParties : Prop :=
  (∀ s tile slot w l, Issues s tile slot w → opcOf w = 0x58 → launchOn s tile = some l → 0 < l.psize →
    let k := slot / l.psize
    let here := tget (s.tile tile).barriers k []
    ∃ t, exec (.bar tile slot) s = .next t ∧ OnlyTile tile s t ∧
      (thr t tile slot).pc = (thr s tile slot).pc + 4 ∧ SameRegs s t tile slot ∧
      (if ∀ x, x ∈ liveMembers s tile k → x = slot ∨ x ∈ here then
        (thr t tile slot).phase = .ready ∧ tget? (t.tile tile).barriers k = none ∧
          ∀ x, x ∈ here → (thr t tile x).phase = .ready
       else (thr t tile slot).phase = .waiting ∧ (thr t tile slot).wait = .barrier ∧
         ∀ x, x ∈ tget (t.tile tile).barriers k [] ↔ x = slot ∨ x ∈ here)) ∧
  (∀ s tile slot w, Fetches s tile slot w → opcOf w = 0x7F → (s.tile tile).barriers = [] →
    ∃ t, exec (.exit tile slot) s = .next t ∧ OnlyTile tile s t ∧ (thr t tile slot).phase = .exited ∧
      (thr t tile slot).pc = (thr s tile slot).pc ∧
      (∀ y, y ≠ slot → thr t tile y = thr s tile y) ∧ (t.tile tile).mem = (s.tile tile).mem ∧
      (t.tile tile).trun = if ∀ x, x ∈ (t.tile tile).threads → x.2.phase ≠ .ready ∧ x.2.phase ≠ .waiting then 2 else 1)
/-- A local load of `n` bytes: rd takes the bytes, sign- or zero-extended; every byte of the tile reads as before. -/
def Claims.LoadLocal (i : Nat → Nat → Instr) (opc n : Nat) (sgn : Bool) : Prop :=
  ∀ s tile slot w, Issues s tile slot w → opcOf w = opc →
    let off := ((thr s tile slot).reg (raOf w) + imm14 w).toNat % 2 ^ 24
    off % n = 0 → off < 0xC00000 → (s.tile tile).marks = [] →
    ∃ t, exec (i tile slot) s = .next t ∧ OnlyMemory tile s t ∧ Stepped s t tile slot ∧
      (t.tile tile).mem = (s.tile tile).mem ∧
      Wrote s t tile slot (rdOf w) (if sgn then BitVec.ofInt 64 (signed (8 * n) (tileNat (s.tile tile) off n))
        else BitVec.ofNat 64 (tileNat (s.tile tile) off n))

/-- A local store of `n` bytes: the bytes hold the low bytes of rd, every other byte reads as before, and so does every
register. -/
def Claims.StoreLocal (i : Nat → Nat → Instr) (opc n : Nat) : Prop :=
  ∀ s tile slot w, Issues s tile slot w → opcOf w = opc → Mem.wf zeroByte (s.tile tile).mem = true →
    let off := ((thr s tile slot).reg (raOf w) + imm14 w).toNat % 2 ^ 24
    off % n = 0 → off < 0xC00000 → inContext off = false →
    ∃ t, exec (i tile slot) s = .next t ∧ OnlyMemory tile s t ∧ Stepped s t tile slot ∧ SameRegs s t tile slot ∧
      memRead zeroByte (t.tile tile).mem off n = leBytes n ((thr s tile slot).reg (rdOf w)).toNat ∧
      ∀ a, a < off ∨ off + n ≤ a → memByte zeroByte (t.tile tile).mem a = memByte zeroByte (s.tile tile).mem a

/-- The new value that an atomic leaves, by its operation (R150). -/
def Claims.atomicValue (op : Nat) (old operand compare : W64) : W64 :=
  if op = 0 then old + operand else if op = 1 then operand else if op = 2 then (if old = compare then operand else old)
  else if op = 3 then (if operand.toInt < old.toInt then operand else old) else (if old.toInt < operand.toInt then operand else old)

/-- R150: ATOML leaves the old word in rd and the new one in memory; compare-and-swap compares with rd. -/
def Obligations.ThreadLocalAtomic : Prop :=
  ∀ s tile slot w, Issues s tile slot w → opcOf w = 0x4C → Mem.wf zeroByte (s.tile tile).mem = true → (s.tile tile).marks = [] →
    let off := ((thr s tile slot).reg (raOf w)).toNat % 2 ^ 24
    let old : W64 := BitVec.ofNat 64 (tileNat (s.tile tile) off 8)
    off % 8 = 0 → off < 0xC00000 → inContext off = false →
    ∃ t, exec (.atoml tile slot) s = .next t ∧ OnlyMemory tile s t ∧ Stepped s t tile slot ∧
      Wrote s t tile slot (rdOf w) old ∧
      memRead zeroByte (t.tile tile).mem off 8 =
        leBytes 8 (Claims.atomicValue (fnOf w) old ((thr s tile slot).reg (rbOf w)) ((thr s tile slot).reg (rdOf w))).toNat ∧
      ∀ a, a < off ∨ off + 8 ≤ a → memByte zeroByte (t.tile tile).mem a = memByte zeroByte (s.tile tile).mem a

/-- Nothing in HBM or in the blocks that stand for it carries a mark: its codes and checks are good. -/
def Claims.Good (s : State) : Prop := s.hbm.marks = [] ∧ ∀ r, r ∈ s.cmd.redirects → r.bad = []

/-- The next request of a thread, in its launch and with its launch's view. -/
def Claims.request (s : State) (tile slot : Nat) (act : MemAct) (a : W64) (n : Nat) : MemReq :=
  { id := s.nextReq, issuer := .thread tile slot, act := act, addr := a, len := n
    view := tileView s tile, launch := (s.tile tile).launch }

/-- A global load from this part's HBM: the thread waits for the request it has entered. -/
def Claims.LoadGlobal (i : Nat → Nat → Instr) (opc n : Nat) (sgn : Bool) : Prop :=
  ∀ s tile slot w, Issues s tile slot w → opcOf w = opc →
    let a := (thr s tile slot).reg (raOf w) + imm14 w
    a.toNat % n = 0 → addrDev a = 0xFFF → addrSpace a = 0 → addrOff a + n ≤ hbmBytes →
    ∃ t, exec (i tile slot) s = .next t ∧ Claims.Waits s t tile slot (.reply s.nextReq (rdOf w) n sgn) ∧
      t.reqs = s.reqs ++ [Claims.request s tile slot .read a n] ∧ (t.tile tile).lsu = (s.tile tile).lsu ++ [s.nextReq] ∧
      t.nextReq = s.nextReq + 1 ∧ t.hbm = s.hbm ∧ (t.tile tile).mem = (s.tile tile).mem

/-- A global store to this part's HBM: the thread waits until its tile's load/store path takes the value. -/
def Claims.StoreGlobal (i : Nat → Nat → Instr) (opc n : Nat) : Prop :=
  ∀ s tile slot w, Issues s tile slot w → opcOf w = opc →
    let a := (thr s tile slot).reg (raOf w) + imm14 w
    a.toNat % n = 0 → addrDev a = 0xFFF → addrSpace a = 0 → addrOff a + n ≤ hbmBytes →
    ∃ t, exec (i tile slot) s = .next t ∧ OnlyThread tile slot s t ∧
      Claims.Waits s t tile slot (.accept a n ((thr s tile slot).reg (rdOf w)))

/-- R147, R148: the loads and stores of the thread's own tile, at every aligned offset of its SRAM; the global loads and
stores of a thread to this part's HBM enter the load/store path. -/
def Obligations.ThreadMemory : Prop :=
  Claims.LoadLocal .ldl1 0x30 1 false ∧ Claims.LoadLocal .ldl2 0x31 2 false ∧ Claims.LoadLocal .ldl4 0x32 4 false ∧
  Claims.LoadLocal .ldl8 0x33 8 false ∧ Claims.LoadLocal .ldls1 0x34 1 true ∧ Claims.LoadLocal .ldls2 0x35 2 true ∧
  Claims.LoadLocal .ldls4 0x36 4 true ∧
  Claims.StoreLocal .stl1 0x38 1 ∧ Claims.StoreLocal .stl2 0x39 2 ∧ Claims.StoreLocal .stl4 0x3A 4 ∧ Claims.StoreLocal .stl8 0x3B 8 ∧
  Claims.LoadGlobal .ldg1 0x40 1 false ∧ Claims.LoadGlobal .ldg2 0x41 2 false ∧ Claims.LoadGlobal .ldg4 0x42 4 false ∧
  Claims.LoadGlobal .ldg8 0x43 8 false ∧ Claims.LoadGlobal .ldgs1 0x44 1 true ∧ Claims.LoadGlobal .ldgs2 0x45 2 true ∧
  Claims.LoadGlobal .ldgs4 0x46 4 true ∧
  Claims.StoreGlobal .stg1 0x48 1 ∧ Claims.StoreGlobal .stg2 0x49 2 ∧ Claims.StoreGlobal .stg4 0x4A 4 ∧ Claims.StoreGlobal .stg8 0x4B 8

/-- R148, R150, R138, R143: an atomic to this part's HBM enters a request; a reply puts the bytes into rd, extended; an
accepted store enters its request; a missed fetch brings its line; a reserved word stops the tile, whatever its guard. -/
def Obligations.ThreadReplies : Prop :=
  (∀ s tile slot w, Issues s tile slot w → opcOf w = 0x4D →
    let a := (thr s tile slot).reg (raOf w)
    a.toNat % 8 = 0 → addrDev a = 0xFFF → addrSpace a = 0 → addrOff a + 8 ≤ hbmBytes →
    ∃ t, exec (.atomg tile slot) s = .next t ∧ Claims.Waits s t tile slot (.reply s.nextReq (rdOf w) 8 false) ∧
      t.reqs = s.reqs ++ [Claims.request s tile slot (.atomic (BitVec.ofNat 3 (fnOf w)) ((thr s tile slot).reg (rbOf w))
        (if fnOf w = 2 then (thr s tile slot).reg (rdOf w) else 0)) a 8] ∧ t.hbm = s.hbm) ∧
  (∀ s tile slot id rd n sgn r b host poisoned, tile < 1152 → slot < 2048 → (thr s tile slot).wait = .reply id rd n sgn →
    (s.tile tile).trun = 1 → reqOf s id = some r → addrSpace r.addr = 0 → r.reply = .data b .good →
    ∃ t, exec (.globalLoadReply tile slot host poisoned) s = .next t ∧ reqOf t id = none ∧
      (thr t tile slot).phase = .ready ∧ (thr t tile slot).wait = .nothing ∧ (thr t tile slot).pc = (thr s tile slot).pc ∧
      Wrote s t tile slot rd (if sgn then BitVec.ofInt 64 (signed (8 * n) (leNat b)) else BitVec.ofNat 64 (leNat b % 2 ^ (8 * n))) ∧
      t.hbm = s.hbm ∧ (t.tile tile).mem = (s.tile tile).mem) ∧
  (∀ s tile slot a n v, tile < 1152 → slot < 2048 → (thr s tile slot).wait = .accept a n v → (s.tile tile).trun = 1 →
    pathRoom s tile = true →
    ∃ t, exec (.globalStoreAccept tile slot) s = .next t ∧
      (thr t tile slot).phase = .ready ∧ (thr t tile slot).wait = .nothing ∧ SameRegs s t tile slot ∧
      t.reqs = s.reqs ++ [Claims.request s tile slot (.write (leBytes n v.toNat)) a n] ∧
      t.hbm = s.hbm) ∧
  (∀ s tile slot l, tile < 1152 → slot < 2048 → launchOn s tile = some l → (s.tile tile).trun = 1 →
    (thr s tile slot).phase = .ready →
    let n := (thr s tile slot).pc.toNat / 256
    let off := addrOff (l.img + BitVec.ofNat 64 (256 * n))
    tget? (s.tile tile).icache n = none → (s.tile tile).icache.length < 256 → tileView s tile = none → Claims.Good s →
    rangeOk 0 off 256 = true → refusal s (.thread tile slot) .read none 0 off 256 = 0 → unitReady s 0 off 256 = true →
    ∃ t, exec (.icacheFill tile slot) s = .next t ∧ tget? (t.tile tile).icache n = some (committedBytes s off 256) ∧
      (t.tile tile).threads = (s.tile tile).threads ∧ (t.tile tile).mem = (s.tile tile).mem ∧ t.hbm.mem = s.hbm.mem) ∧
  (∀ s tile slot w, tile < 1152 → slot < 2048 → threadWord s tile slot = some w → picked s tile slot = true → validWord w = false →
    ∃ t, exec (.threadReservedOpcode tile slot) s = .next t ∧ (t.tile tile).trun = 3 ∧ (t.tile tile).tfltCode = 0x010B ∧
      (t.tile tile).tfltSlot = BitVec.ofNat 11 slot ∧ (t.tile tile).tfpc = (thr s tile slot).pc ∧ (t.tile tile).tfiw = w ∧
      (thr t tile slot).pc = (thr s tile slot).pc ∧ SameRegs s t tile slot ∧ (t.tile tile).mem = (s.tile tile).mem)

/-- The ring pair starts descriptor `d` of the opcode and operation, inside a pitch or outside one, and every check of
R333 passes. -/
def Claims.Runs (s : State) (ring : Nat) (d : Desc) (opc op : Nat) : Prop :=
  ring < 32 ∧ nextDesc s ring = some d ∧ descOpc d = opc ∧ descOp d = op ∧ checkDesc s ring d = 0 ∧
  (inPitch s ring = true → (s.ring ring).pitch.log.length < 4096 ∧ standing d ≠ .deferred)

/-- The descriptor has completed with the fault code (0: none). -/
def Claims.Done (t : State) (ring : Nat) (d : Desc) (fault : Nat) : Prop :=
  ∃ x, descOf t ring d.index = some x ∧ x.phase = .done ∧ x.fault = BitVec.ofNat 16 fault

/-- The descriptor is under way. -/
def Claims.Under (t : State) (ring : Nat) (d : Desc) (run : DescRun) : Prop :=
  ∃ x, descOf t ring d.index = some x ∧ x.phase = .running ∧ x.run = run

/-! ### Matrix array (chapter 03) -/

/-- The head of the matrix queue is `w`, of the opcode, on a clean tile that serves it. -/
def Claims.MatrixHead (s : State) (tile : Nat) (w : W128) (op : Nat) : Prop :=
  tile < 1152 ∧ matrixHead s tile = some w ∧ opOf w = op ∧ Clean s tile

/-- R73, R75, R101, R105: an accepted MLOAD takes its packs into a load under way and its completion makes them the shadow
set, and neither touches the active set; a refused MLOAD leaves the shadow set invalid and stops the tile. -/
def Obligations.MatrixWeights : Prop :=
  (∀ s tile w, Claims.MatrixHead s tile w 0x01 → (s.tile tile).mload = none → mloadRefusal (s.tile tile) w = 0 → 0 < mCols w →
    ∃ t, exec (.mload tile) s = .next t ∧ OnlyTile tile s t ∧
      t.tile tile = { (popMatrix s tile).tile tile with
        banks := (t.tile tile).banks, mload := some (loadResult ((popMatrix s tile).tile tile) w) }) ∧
  (∀ s tile w, Claims.MatrixHead s tile w 0x01 → (s.tile tile).mload = none → mloadRefusal (s.tile tile) w ≠ 0 →
    (s.tile tile).trun ≠ 3 → statOf w = false →
    ∃ t, exec (.mload tile) s = .next t ∧ Stopped t tile (mloadRefusal (s.tile tile) w) ∧
      (t.tile tile).shadow.valid = false ∧ (t.tile tile).active = (s.tile tile).active ∧ (t.tile tile).mem = (s.tile tile).mem) ∧
  (∀ s tile stalls m, tile < 1152 → (s.tile tile).mload = some m → m.fault = 0 → s.floored = false → RecordPlace s tile m.word →
    ∃ t, exec (.mloadComplete tile stalls) s = .next t ∧ OnlyTileAndLog tile s t ∧ (t.tile tile).mload = none ∧
      (t.tile tile).shadow = m.result ∧ (t.tile tile).active = (s.tile tile).active ∧
      (t.tile tile).acc0 = (s.tile tile).acc0 ∧ (t.tile tile).acc1 = (s.tile tile).acc1 ∧
      Completed s t tile m.word (matrixRecord m.word {} ((m.cycles + stalls) % 2 ^ 32)))

/-- The run that streams on a clean tile outside FLOOR. -/
def Claims.Streams (s : State) (tile : Nat) (r : MatrixRun) : Prop :=
  tile < 1152 ∧ runNow (s.tile tile) = some r ∧ s.floored = false ∧ Clean s tile

/-- R81 to R90, R78, R95, R105: an accepted MRUN starts a run; each of its rows puts the foot's values into its entries of the
named bank and touches no other entry, and with CHECK mode adds what the rows received to the run's sums; a row whose operand
cannot be decoded ends the run with that fault and writes nothing. -/
def Obligations.MatrixRuns : Prop :=
  (∀ s tile w, Claims.MatrixHead s tile w 0x03 → cellsFree (s.tile tile) = true → mrunRefusal (s.tile tile) w = 0 → 0 < rNvec w →
    ∃ t, exec (.mrun tile) s = .next t ∧ OnlyTile tile s t ∧
      t.tile tile = { s.tile tile with mqueue := (s.tile tile).mqueue.tail, mruns := (s.tile tile).mruns ++ [{ word := w }] }) ∧
  (∀ s tile stalls r, Claims.Streams s tile r → rowDue (s.tile tile) r = true →
    let w := r.word
    let at_ := rowEntry w r.rows
    let v := streamTo (s.tile tile) r (rPass w)
    v.fault = none →
    ∃ t, exec (.mrunRowWrite tile stalls) s = .next t ∧ OnlyTile tile s t ∧
      (∀ o, o < rowOutputs (s.tile tile) w → tget ((t.tile tile).accum (rBank w)) (at_ + o) 0 =
        (let z := (combineSlices (s.tile tile).active (rDir w) v.slices v.scales o).1
         if rAcc w then addFp32 (tget ((s.tile tile).accum (rBank w)) (at_ + o) 0) z else z)) ∧
      (∀ e, e < at_ ∨ at_ + rowOutputs (s.tile tile) w ≤ e →
        tget ((t.tile tile).accum (rBank w)) e 0 = tget ((s.tile tile).accum (rBank w)) e 0) ∧
      (t.tile tile).accum (!rBank w) = (s.tile tile).accum (!rBank w) ∧
      (t.tile tile).active = (s.tile tile).active ∧ (t.tile tile).mem = (s.tile tile).mem ∧
      ∃ x, (t.tile tile).mruns = setRun (s.tile tile) { r with
        rows := r.rows + 1, stalls := r.stalls + stalls, part := [], partScales := [], status := x
        sums := if (s.tile tile).mode = 1 then addSums r.sums (v.slices.drop r.part.length) else [] } (s.tile tile).mruns) ∧
  (∀ s tile stalls r e, Claims.Streams s tile r → rowDue (s.tile tile) r = true → (s.tile tile).trun ≠ 3 → statOf r.word = false →
    (streamTo (s.tile tile) r (rPass r.word)).fault = some e →
    ∃ t, exec (.mrunRowWrite tile stalls) s = .next t ∧ Stopped t tile e.1 ∧
      (t.tile tile).acc0 = (s.tile tile).acc0 ∧ (t.tile tile).acc1 = (s.tile tile).acc1 ∧ (t.tile tile).mem = (s.tile tile).mem) ∧
  (∀ s tile stalls r rest, tile < 1152 → (s.tile tile).mruns = r :: rest → runStreamed (s.tile tile) r = true →
    r.status.fault = 0 → RecordPlace s tile r.word →
    ∃ t, exec (.mrunComplete tile stalls) s = .next t ∧ OnlyTileAndLog tile s t ∧ (t.tile tile).mruns = rest ∧
      (t.tile tile).acc0 = (s.tile tile).acc0 ∧ (t.tile tile).acc1 = (s.tile tile).acc1 ∧
      Completed s t tile r.word (matrixRecord r.word r.status
        ((if rNvec r.word = 0 then 0 else runCycles (s.tile tile) r.word + r.stalls + stalls) % 2 ^ 32)))

/-- R94 to R99: a check slot that finds nothing only ends, and the sums start again at zero; one that finds a failing
comparison counts it, names the suspect and stops the tile with FLT_MX_CHECK. R105, R108: a reserved opcode stops the
tile. -/
def Obligations.MatrixChecks : Prop :=
  (∀ s tile stalls r, Claims.Streams s tile r → r.checks < runChecks (s.tile tile) r.word → rowsBefore r.word r.checks ≤ r.rows →
    let v := streamTo (s.tile tile) r (windowEnd r.word r.checks - rPass r.word * r.rows)
    v.fault = none →
    (rDir r.word = true ∨ firstFailing (s.tile tile).active (addSums r.sums (v.slices.drop r.part.length)) = none) →
    firstFailing (s.tile tile).active (List.replicate 512 1) = none →
    ∃ t, exec (.mrunCheckSlot tile stalls) s = .next t ∧ OnlyTile tile s t ∧
      (let r1 := { r with
         checks := r.checks + 1, stalls := r.stalls + stalls, part := v.slices, partScales := v.scales, sums := []
         status := { r.status with chkd := true } }
       t.tile tile = { s.tile tile with
         banks := (t.tile tile).banks, mruns := setRun (s.tile tile) r1 (s.tile tile).mruns })) ∧
  (∀ s tile stalls r f, Claims.Streams s tile r → r.checks < runChecks (s.tile tile) r.word → rowsBefore r.word r.checks ≤ r.rows →
    rDir r.word = false → (s.tile tile).trun ≠ 3 → statOf r.word = false →
    let v := streamTo (s.tile tile) r (windowEnd r.word r.checks - rPass r.word * r.rows)
    v.fault = none → firstFailing (s.tile tile).active (addSums r.sums (v.slices.drop r.part.length)) = some f →
    ∃ t, exec (.mrunCheckSlot tile stalls) s = .next t ∧ Stopped t tile 0x0102 ∧
      (t.tile tile).suspect = BitVec.ofNat 16 f.2 ∧
      (t.tile tile).mismatch = (if (s.tile tile).mismatch = 0xFFFF then 0xFFFF else (s.tile tile).mismatch + 1) ∧
      (t.tile tile).acc0 = (s.tile tile).acc0 ∧ (t.tile tile).acc1 = (s.tile tile).acc1) ∧
  (∀ s tile w, tile < 1152 → matrixHead s tile = some w → (opOf w = 0 ∨ 3 < opOf w) → statOf w = false →
    ∃ t, exec (.matrixReservedOpcode tile) s = .next t ∧ Stopped t tile 0x0108 ∧ (t.tile tile).mem = (s.tile tile).mem) ∧
  (∀ s tile w, tile < 1152 → vectorHead s tile = some w → opOf w ∉ vectorOpcodes →
    ∃ t, exec (.vectorReservedOpcode tile) s = .next t ∧ OnlyTile tile s t ∧
      (t.tile tile).vqueue = (s.tile tile).vqueue.tail ∧
      (t.tile tile).vrun = some { word := w, cycles := 1, status := { fault := 0x010A } } ∧ (t.tile tile).mem = (s.tile tile).mem) ∧
  (∀ s tile w, tile < 1152 → copyHead s tile = some w → opOf w ≠ 0x80 → opOf w ≠ 0x81 → statOf w = false →
    ∃ t, exec (.copyReservedOpcode tile) s = .next t ∧ Stopped t tile 0x010C ∧ (t.tile tile).mem = (s.tile tile).mem)

/-- R65, R67, R68: TILE_CFG leaves its request on the tile, which takes effect once the matrix array is idle: marked
columns stay marked, a tile that could have no column becomes OFF, and a change makes both weight sets invalid. -/
def Obligations.TileConfiguration : Prop :=
  (∀ s ring d, Claims.Runs s ring d 0x30 0 → tileCfgRefusal s d = 0 → (s.tile (opnd d 8 2)).config = none →
    let tile := opnd d 8 2
    ∃ t, exec (.tileCfg ring) s = .next t ∧ Claims.Under t ring d (.tileCfg tile) ∧
      t.tile tile = { s.tile tile with config := some ⟨ring, cfgMode d, cfgKeep d, cfgMarks d⟩ } ∧
      (∀ x, x ≠ tile → t.tile x = s.tile x) ∧ t.hbm = s.hbm) ∧
  (∀ s tile c, tile < 1152 → (s.tile tile).config = some c → (s.tile tile).mqueue = [] → (s.tile tile).mload = none →
    (s.tile tile).mruns = [] →
    let map := (s.tile tile).badMap ||| c.bad
    let want := if c.keep then (s.tile tile).mode else c.mode
    let mode := if want = 0 ∧ widthFor 0 map = 0 then 2 else want
    ∃ t, exec (.tileCfgTakeEffect tile) s = .next t ∧ (t.tile tile).config = none ∧ (t.tile tile).badMap = map ∧
      (t.tile tile).mode = mode ∧
      (mode ≠ (s.tile tile).mode ∨ map ≠ (s.tile tile).badMap →
        (t.tile tile).active.valid = false ∧ (t.tile tile).shadow.valid = false)) ∧
  (∀ m : BitVec 260, widthFor 0 m % 8 = 0 ∧ widthFor 0 m ≤ 256 ∧ widthFor 1 m = 256 ∧ widthFor 2 m = 0 ∧
    (∀ n, widthFor 0 (m ||| n) ≤ widthFor 0 m))

/-! ### Vector engine (chapter 04) -/

/-- The vector engine takes `w`, of the opcode, on a clean tile, its record's place being one it can name. -/
def Claims.VectorHead (s : State) (tile : Nat) (w : W128) (op : Nat) : Prop :=
  tile < 1152 ∧ vectorHead s tile = some w ∧ opOf w = op ∧ wbits w 127 126 = 0 ∧ areasOk (statusArea w) = true ∧ Clean s tile

/-- Between two tiles the words outside operand `d`, the active weights and the threads are the same. -/
def Claims.OnlyWords (d : VSpec) (a b : Tile) : Prop :=
  (∀ i, (∀ n, d = .reg n → i / 256 ≠ n) → tget b.vregs i 0 = tget a.vregs i 0) ∧
  (∀ k e, specReads d (.accumulator (b2n k) e) = false → tget (b.accum k) e 0 = tget (a.accum k) e 0) ∧
  b.active = a.active ∧ b.threads = a.threads

/-- And so are the bytes and the counters. -/
def Claims.OnlyOperand (d : VSpec) (a b : Tile) : Prop := Claims.OnlyWords d a b ∧ b.mem = a.mem ∧ b.counters = a.counters

/-- The instruction is under way for `cycles`. -/
def Claims.VectorRuns (t : State) (tile : Nat) (w : W128) (cycles : Nat) : Prop :=
  ∃ x : VectorStatus, (t.tile tile).vrun = some { word := w, cycles := cycles, status := x } ∧ x.fault = 0

/-- Of the part only this tile changed: the instruction has left the queue and is under way for `cycles`, with the words that
its last cycle writes into its destination (R111) and the streams as `draws` leaves them. -/
def Claims.VectorHolds (s t : State) (tile : Nat) (w : W128) (cycles : Nat) (draws : Tile) (words : Nat → W32) : Prop :=
  OnlyTile tile s t ∧ ∃ x : VectorStatus, x.fault = 0 ∧
    t.tile tile = { s.tile tile with
      vqueue := (s.tile tile).vqueue.tail, streams := draws.streams
      vrun := some { word := w, cycles := cycles, dest := wbits w 38 25, words := (List.range 256).map words, status := x } }

/-- A word of lanes. -/
def Claims.laneWord (fmt : Nat) (code : Nat → Nat) : W32 :=
  BitVec.ofNat 32 ((List.range (lanes fmt)).map (fun k => code k * 2 ^ (laneWidth fmt * k))).sum

/-- An instruction that computes each lane from the same lane of its sources: `f` gives the code of the result from the
sources' values. A word that R113 to R118 refuse runs one cycle and carries its fault. -/
def Claims.Lanewise (i : Nat → Instr) (op n cycles : Nat) (aux : Nat → Bool) (f : W128 → List FpNum → Nat) : Prop :=
  (∀ s tile w d as, Claims.VectorHead s tile w op → vOperands w n = some (d, as) → arithRefusal w n false aux = 0 →
    ∃ t, exec (i tile) s = .next t ∧ Claims.VectorHolds s t tile w cycles (s.tile tile) (fun p =>
      Claims.laneWord (vFmt w) (fun k =>
        f w (as.map (fun a => decodeNum (fmtOf (vFmt w)) (laneOf (vFmt w) (readSpec (s.tile tile) a p) k)))))) ∧
  (∀ s tile w, Claims.VectorHead s tile w op → arithRefusal w n false aux ≠ 0 →
    ∃ t, exec (i tile) s = .next t ∧ OnlyTile tile s t ∧
      t.tile tile = { s.tile tile with
        vqueue := (s.tile tile).vqueue.tail
        vrun := some { word := w, cycles := 1, status := { fault := BitVec.ofNat 16 (arithRefusal w n false aux) } } })

/-- Operand i of a list of values. -/
def Claims.arg (xs : List FpNum) (i : Nat) : FpNum := xs.getD i (zeroNum false)

/-- A value rounded to the instruction's format. -/
def Claims.rounded (w : W128) (x : FpNum) : Nat := (roundNum (fmtOf (vFmt w)) false (vRnd w) 0 x).code

/-- R111, R113 to R119: an arithmetic instruction takes, for every lane of its destination, the exact result of the lane's
sources, rounded once, and VCMP a mask; its last cycle writes them; nothing else of the tile but its queue and the
instruction under way changes. -/
def Obligations.VectorArithmetic : Prop :=
  Claims.Lanewise .vadd 0x40 2 1 noAux (fun w xs => Claims.rounded w (addNum (Claims.arg xs 0) (Claims.arg xs 1)).1) ∧
  Claims.Lanewise .vsub 0x41 2 1 noAux (fun w xs => Claims.rounded w (addNum (Claims.arg xs 0) (Claims.arg xs 1).negate).1) ∧
  Claims.Lanewise .vmul 0x42 2 1 noAux (fun w xs => Claims.rounded w (mulNum (Claims.arg xs 0) (Claims.arg xs 1)).1) ∧
  Claims.Lanewise .vfma 0x43 3 1 noAux (fun w xs => Claims.rounded w (fmaNum (Claims.arg xs 0) (Claims.arg xs 1) (Claims.arg xs 2)).1) ∧
  Claims.Lanewise .vmin 0x44 2 1 noAux (fun w xs => Claims.rounded w (minNum (Claims.arg xs 0) (Claims.arg xs 1)).1) ∧
  Claims.Lanewise .vmax 0x45 2 1 noAux (fun w xs => Claims.rounded w (maxNum (Claims.arg xs 0) (Claims.arg xs 1)).1) ∧
  Claims.Lanewise .vexp2 0x46 1 4 noAux (fun w xs => Claims.rounded w (exp2Num (Claims.arg xs 0)).1) ∧
  Claims.Lanewise .vlog2 0x47 1 4 noAux (fun w xs => Claims.rounded w (log2Num (Claims.arg xs 0)).1) ∧
  Claims.Lanewise .vrcp 0x48 1 2 noAux (fun w xs => Claims.rounded w (rcpNum (Claims.arg xs 0)).1) ∧
  Claims.Lanewise .vrsq 0x49 1 2 noAux (fun w xs => Claims.rounded w (rsqNum (Claims.arg xs 0)).1) ∧
  Claims.Lanewise .vcmp 0x4A 2 1 (fun a => decide (a < 7)) (fun w xs =>
    if compareNum (vAux w) (Claims.arg xs 0) (Claims.arg xs 1) then 2 ^ laneWidth (vFmt w) - 1 else 0)

/-- An instruction that copies bits. -/
def Claims.BitCopy (i : Nat → Instr) (op n : Nat) (f : (Nat → Nat → W32) → Nat → W32) : Prop :=
  ∀ s tile w d as, Claims.VectorHead s tile w op → vOperands w n = some (d, as) → arithRefusal w n true noAux = 0 →
    ∃ t, exec (i tile) s = .next t ∧
      Claims.VectorHolds s t tile w 1 (s.tile tile) (f (fun k q => readSpec (s.tile tile) (as.getD k .absent) q))

/-- R111, R115, R117, R120: VSEL, VTRN and VMOV copy bits, VRED takes the pairwise reduction of each row (or column) for its
first element and zero elsewhere, VCVT the converted lanes, drawing its stream under stochastic rounding; the last cycle of
each writes them. -/
def Obligations.VectorMoves : Prop :=
  Claims.BitCopy .vsel 0x4B 3 (fun a p => (a 0 p &&& a 2 p) ||| (a 1 p &&& ~~~(a 2 p))) ∧
  Claims.BitCopy .vtrn 0x4D 1 (fun a p => a 0 (p % 16 * 16 + p / 16)) ∧
  Claims.BitCopy .vmov 0x4F 1 (fun a p => a 0 p) ∧
  (∀ s tile w d a, Claims.VectorHead s tile w 0x4C → vOperands w 1 = some (d, [a]) →
    arithRefusal w 1 false (fun x => decide (x < 6)) = 0 →
    let cols := bit (vAux w) 0
    let line (i k : Nat) : Nat := Claims.rounded w
      ((pairwise (vAux w / 2) (vFmt w) (vRnd w) 4 ((List.range 16).map (fun j => decodeNum (fmtOf (vFmt w))
        (laneOf (vFmt w) (readSpec (s.tile tile) a (if cols then 16 * j + i else 16 * i + j)) k)))).1.headD (zeroNum false))
    ∃ t, exec (.vred tile) s = .next t ∧ Claims.VectorHolds s t tile w 1 (s.tile tile) (fun p =>
      if cols then (if p < 16 then Claims.laneWord (vFmt w) (line p) else 0)
      else (if p % 16 = 0 then Claims.laneWord (vFmt w) (line (p / 16)) else 0))) ∧
  (∀ s tile w d as m, Claims.VectorHead s tile w 0x4E → vOperands w (cvtSources w) = some (d, as) →
    cvtMap (vFmt w) (cvtTo w) (cvtLane w) = some m → cvtRefusal w = 0 →
    let q := if vRnd w = 2 then drawWords (256 * m.length / 16) (s.tile tile) (vRng w) else ([], s.tile tile)
    let rb := randomBytes q.1 (256 * m.length)
    ∃ t, exec (.vcvt tile) s = .next t ∧ Claims.VectorHolds s t tile w 1 q.2 (fun p =>
      BitVec.ofNat 32 (m.zipIdx.map (fun k =>
        (roundNum (fmtOf (cvtTo w)) (vSatf w) (vRnd w) (rb.getD (p * m.length + k.2) 0)
          (decodeNum (fmtOf (vFmt w)) (laneOf (vFmt w) (wordAt (s.tile tile) (cvtReads w as) k.1.1 p) k.1.2))).code *
            2 ^ (laneWidth (cvtTo w) * k.2))).sum))

/-- R111, R121, R133: VLD and VST move the 256 strided words of a register; an instruction ends with the words that it holds
written into its destination, its record, its counter and, when it carries a fault, the stop of the tile. -/
def Obligations.VectorMemory : Prop :=
  (∀ s tile w, Claims.VectorHead s tile w 0x50 → moveRefusal w false = 0 →
    ∃ t, exec (.vld tile) s = .next t ∧ OnlyTile tile s t ∧
      Claims.OnlyOperand (.reg (wbits w 31 27)) (s.tile tile) (t.tile tile) ∧
      Claims.VectorRuns t tile w (if wbits w 94 63 = 0 then 1 else 4) ∧
      ∀ p, p < 256 → readSpec (t.tile tile) (.reg (wbits w 31 27)) p =
        BitVec.ofNat 32 (tileNat (s.tile tile) (strided w p).toNat 4)) ∧
  (∀ s tile w, Claims.VectorHead s tile w 0x51 → moveRefusal w true = 0 → Mem.wf zeroByte (s.tile tile).mem = true →
    ∃ t, exec (.vst tile) s = .next t ∧ OnlyTile tile s t ∧ (t.tile tile).vregs = (s.tile tile).vregs ∧
      (t.tile tile).acc0 = (s.tile tile).acc0 ∧ (t.tile tile).acc1 = (s.tile tile).acc1 ∧
      Claims.VectorRuns t tile w (if wbits w 94 63 = 0 then 1 else 4) ∧
      (∀ p, p < 256 → (∀ q, p < q → q < 256 → strided w q ≠ strided w p) →
        memRead zeroByte (t.tile tile).mem (strided w p).toNat 4 =
          leBytes 4 (readSpec (s.tile tile) (.reg (wbits w 31 27)) p).toNat) ∧
      (∀ a, (∀ p, p < 256 → a < (strided w p).toNat ∨ (strided w p).toNat + 4 ≤ a) →
        memByte zeroByte (t.tile tile).mem a = memByte zeroByte (s.tile tile).mem a)) ∧
  (∀ s tile stalls r d, tile < 1152 → (s.tile tile).vrun = some r → r.status.fault = 0 → s.floored = false →
    RecordPlace s tile r.word → specOf r.dest = some d → d = .absent ∨ r.words.length = 256 →
    ∃ t, exec (.vectorComplete tile stalls) s = .next t ∧ OnlyTileAndLog tile s t ∧ (t.tile tile).vrun = none ∧
      Claims.OnlyWords d (s.tile tile) (t.tile tile) ∧ (t.tile tile).vqueue = (s.tile tile).vqueue ∧
      (d ≠ .absent → ∀ p, p < 256 → readSpec (t.tile tile) d p = r.words.getD p 0) ∧
      Completed s t tile r.word (vectorRecord r ((r.cycles + stalls) % 2 ^ 32))) ∧
  (∀ s tile stalls r, tile < 1152 → (s.tile tile).vrun = some r → r.status.fault ≠ 0 → s.floored = false →
    (s.tile tile).trun ≠ 3 → statOf r.word = false → specOf r.dest = some .absent →
    ∃ t, exec (.vectorComplete tile stalls) s = .next t ∧ Stopped t tile r.status.fault.toNat ∧
      (t.tile tile).vregs = (s.tile tile).vregs ∧ (t.tile tile).mem = (s.tile tile).mem)

/-- A pack instruction on `NREG` tiles whose layout block and areas pass R123. -/
def Claims.PackHead (s : State) (tile : Nat) (w : W128) (op kind : Nat) (ts : List VSpec) (x : PackLayout) : Prop :=
  Claims.VectorHead s tile w op ∧ packRefusal w kind = 0 ∧ packTiles w = some ts ∧ 0 < pNreg w ∧ pBlk w + 64 ≤ sramBytes ∧
  readLayout (tileBytes (s.tile tile) (pBlk w) 64) (vSatf w) = some x ∧
  (vSatf w = false → 32 * pEoff w + 16 * pNreg w ≤ x.v) ∧ areasOk (packAreas w kind x) = true ∧
  (kind ≠ 1 → (packAreas w kind x).any (fun a => touchesContext a.1 a.2) = false)

/-- R122 to R131: VPACK stores its quantised blocks as packs or streams, VUNPK writes the values of stored packs into its
tiles, VSG1 stores compressed tiles and their residuals, RMM leaves its dot products in its destination. -/
def Obligations.VectorPacks : Prop :=
  (∀ s tile w ts x ws, Claims.PackHead s tile w 0x58 0 ts x →
    let t0 := s.tile tile
    let n := 256 * pNreg w
    let q := if vRnd w = 2 then drawWords (n / 16) t0 (pRng w) else ([], t0)
    let bs := ((chunks 32 (n / 32) (packSource t0 w ts)).zip (chunks 32 (n / 32) (randomBytes q.1 n ++ List.replicate n 0))).map
      (fun c => quantBlock (wbits w 11 8) (pPass w) (vRnd w) c.1 c.2)
    (if vSatf w then laySlices t0 w x bs (pPass w) 0 else .ok (streamWrites w x bs)) = .ok ws →
    ∃ t, exec (.vpack tile) s = .next t ∧ OnlyTile tile s t ∧ (t.tile tile).mem = (storeAll t0 s.clk ws).mem ∧
      (t.tile tile).streams = q.2.streams ∧ (t.tile tile).vregs = t0.vregs ∧ (t.tile tile).acc0 = t0.acc0 ∧
      (t.tile tile).acc1 = t0.acc1 ∧
      Claims.VectorRuns t tile w (pPass w * pNreg w + 2 + (continuedRuns w x (tagCap (wbits w 11 8))).length)) ∧
  (∀ s tile w ts x ps, Claims.PackHead s tile w 0x59 1 ts x →
    (vSatf w = true → allSlicePacks (s.tile tile) w x (packsTouched w (256 * pNreg w)) = .ok ps) →
    let vs := (List.range (256 * pNreg w)).map (if vSatf w then unpackForm w ps else unpackStream (s.tile tile) w x)
    ∃ t, exec (.vunpk tile) s = .next t ∧ OnlyTile tile s t ∧ (t.tile tile).mem = (s.tile tile).mem ∧
      Claims.VectorRuns t tile w (pPass w * pNreg w + 2) ∧
      ∀ j p, j < pNreg w → p < 256 → readSpec (t.tile tile) (ts.getD j .absent) p = unpackedWord w vs j p) ∧
  (∀ s tile w ts x ws, Claims.PackHead s tile w 0x5A 2 ts x →
    let t0 := s.tile tile
    let n := pNreg w
    let q := if vRnd w = 2 then drawWords (16 * n) t0 (pRng w) else ([], t0)
    let bs := ts.zipIdx.map (fun d => sgCompress (vRnd w) (specWords t0 d.1)
      ((List.range 256).map (fun p => BitVec.ofNat 32 (tileNat t0 (x.raddr + 512 * d.2 + 2 * p) 2)))
      ((randomBytes q.1 (256 * n)).drop (256 * d.2)))
    layPacks t0 w x 0xD 0 bs.length (bs.map (·.mag)) (bs.map (·.signs)) (bs.map (fun _ => false)) (packsTouched w (256 * n)) = .ok ws →
    ∃ t, exec (.vsg1 tile) s = .next t ∧ OnlyTile tile s t ∧
      (t.tile tile).mem = (storeAll t0 s.clk (bs.zipIdx.map (fun b => (x.raddr + 512 * b.2, b.1.res.flatMap (leBytes 2))) ++ ws)).mem ∧
      (t.tile tile).streams = q.2.streams ∧ (t.tile tile).vregs = t0.vregs ∧ (t.tile tile).acc0 = t0.acc0 ∧
      (t.tile tile).acc1 = t0.acc1 ∧
      Claims.VectorRuns t tile w (2 * n + 2 + (continuedRuns w x (tagCap 0xD)).length)) ∧
  (∀ s tile w, Claims.VectorHead s tile w 0x60 → wbits w 9 8 ≠ 3 → wbits w 14 11 = 0 → wbits w 107 56 = 0 →
    0 < rmmD w → rmmD w ≤ 512 → rmmBlk w + 64 ≤ sramBytes → (s.tile tile).trun ≠ 3 →
    let b := tileBytes (s.tile tile) (rmmBlk w) 64
    rmmRefusal w b = 0 →
    ∃ t, exec (.rmm tile) s = .next t ∧ OnlyTile tile s t ∧ (t.tile tile).mem = (s.tile tile).mem ∧
      Claims.VectorRuns t tile w (rmmBlocks w * rmmD w + 8) ∧
      (rmmBlocks w = 1 → ∀ f, f < 1024 →
        (if rmmDst b then tget (t.tile tile).vregs ((rmmReg b 0 f).1 * 256 + (rmmReg b 0 f).2) 0
         else tget ((t.tile tile).accum (bit (field b 3 1) 0)) (rmmEntry w b 0 f) 0) =
          BitVec.ofNat 32 (rmmLane (s.tile tile) w b 0 f).code))

/-! ### Copy engine (chapter 05) -/

/-- The copy engine takes `w`, whose bits and places pass, with block `b`, once the copies before it have issued all their
requests (R160, R162, R163). -/
def Claims.CopyHead (s : State) (tile : Nat) (w : W128) (op : Nat) (b : CopyBlock) : Prop :=
  tile < 1152 ∧ copyHead s tile = some w ∧ opOf w = op ∧ (copyEarly tile w).1 = 0 ∧ Clean s tile ∧ copiesIssued s tile = true ∧
  b = decodeBlock (tileBytes (s.tile tile) (cblkOf w) 64) ∧ blockOk (tileBytes (s.tile tile) (cblkOf w) 64) = true ∧
  (blockRefusal s op b).1 = 0

/-- The line of a fill into this part's tile SRAM that may land: it is aligned, in the window of R163, first between its
endpoints, and its destination accepts every run of it. -/
def Claims.FillLine (s : State) (tile copy line : Nat) (c : CopyRun) (e : Nat × W64) : Prop :=
  tile < 1152 ∧ copyOf s tile copy = some c ∧ c.todo[line]? = some e ∧ c.block.fill = true ∧
  line < lineWindow s tile copy ∧ lineFirst s tile c line e = true ∧
  isOwn s e.2 = true ∧ addrSpace e.2 = 1 ∧ e.2.toNat % 128 = 0 ∧ Mem.wf zeroByte (s.tile (addrTile e.2)).mem = true ∧
  ∀ r, r ∈ lineRuns ((lineParts c.block e).map (fun p => (p, []))) →
    refusal s (.copy tile copy) .write none 1 (addrOff e.2 + r.1) r.2 = 0 ∧ unitReady s 1 (addrOff e.2 + r.1) r.2 = true

/-- R160 to R163, R432: an accepted CPY holds every destination line of its block, each once; a fill of this part's tile SRAM
lands the pattern of every row that touches the line, a later row over an earlier, and, with `DCEN`, counts the line once; the
copy completes with its record once every line is written and acknowledged. CSIG adds its length to a counter. An
unacknowledged copy ends with FLT_FENCE_TIMEOUT. -/
def Obligations.CopyEngine : Prop :=
  (∀ s tile w b, Claims.CopyHead s tile w 0x80 b →
    ∃ t, exec (.cpy tile) s = .next t ∧ (isOwn s b.src = true → OnlyTile tile s t) ∧ (∀ x, x ≠ tile → t.tile x = s.tile x) ∧
      (t.tile tile).cqueue = (s.tile tile).cqueue.tail ∧ (t.tile tile).mem = (s.tile tile).mem ∧
      (t.tile tile).copies = (s.tile tile).copies ++
        [{ id := nextCopy (s.tile tile), word := w, block := b, todo := copyLines b, start := s.clk, lastSent := s.clk }]) ∧
  (∀ s tile w b, Claims.CopyHead s tile w 0x81 b → (s.tile tile).copies = [] → b.len ≠ 0 → isOwn s b.dst = true →
    ∃ t, exec (.csig tile) s = .next t ∧ t.hbm = s.hbm ∧ t.fab = s.fab ∧
      (t.tile tile).copies = [{ id := 0, word := w, block := b, start := s.clk, lastSent := s.clk }] ∧
      (∀ x k, t.counter x k = if x = addrTile b.dst ∧ k = b.dctr.toNat then s.counter x k + b.len else s.counter x k) ∧
      ∀ x, (t.tile x).mem = (s.tile x).mem) ∧
  (∀ s tile copy line host poisoned c e, Claims.FillLine s tile copy line c e →
    let ps := lineParts c.block e
    let dt := addrTile e.2
    let lo := addrOff e.2 % 2 ^ 24
    ∃ t, exec (.copyLineLand tile copy line host poisoned) s = .next t ∧ t.hbm = s.hbm ∧
      (∀ k, k < 128 → memByte zeroByte (t.tile dt).mem (lo + k) =
        match ps.reverse.find? (fun p => decide (p.at_ ≤ k) && decide (k < p.at_ + p.len)) with
        | some p => (leBytes 8 c.block.src.toNat).getD ((p.row + (k - p.at_)) % 8) 0
        | none => memByte zeroByte (s.tile dt).mem (lo + k)) ∧
      (∀ q, q < lo ∨ lo + 128 ≤ q → memByte zeroByte (t.tile dt).mem q = memByte zeroByte (s.tile dt).mem q) ∧
      (∀ x, x ≠ dt → (t.tile x).mem = (s.tile x).mem) ∧
      (∀ x k, t.counter x k = if c.block.dcen = true ∧ x = dt ∧ k = c.block.dctr.toNat then s.counter x k + 1 else s.counter x k) ∧
      ∃ c1, copyOf t tile copy = some c1 ∧ c1.todo = c.todo.eraseIdx line ∧ c1.lines = c.lines + 1 ∧
        c1.bytes = c.bytes + (ps.map (·.len)).sum) ∧
  (∀ s tile copy stalls c, tile < 1152 → copyOf s tile copy = some c → c.todo = [] → covered s c.cover = true →
    c.poison = false → c.lost = false → RecordPlace s tile c.word →
    ∃ t, exec (.copyComplete tile copy stalls) s = .next t ∧ copyOf t tile copy = none ∧
      (∀ x, x ≠ tile → t.tile x = s.tile x) ∧ t.hbm = s.hbm ∧
      Completed s t tile c.word (copyRecord c 0 ((s.clk - c.start + stalls) % 2 ^ 32))) ∧
  (∀ s tile copy c, tile < 1152 → copyOf s tile copy = some c → c.todo = [] → covered s c.cover = false →
    c.lastSent + s.fab.fenceTo.toNat * 1200 ≤ s.clk → (s.tile tile).trun ≠ 3 → statOf c.word = false →
    ∃ t, exec (.copyFenceTimeout (.engine tile copy)) s = .next t ∧ Stopped t tile 0x0403 ∧ (t.tile tile).mem = (s.tile tile).mem)

/-! ### Launches (chapter 05) -/

/-- R168, R317: an accepted LAUNCH enters its launch, an accepted replay list one launch an entry. -/
def Obligations.LaunchDescriptors : Prop :=
  (∀ s ring d b v, Claims.Runs s ring d 0x01 0 → hbmRun s (opndAddr d 8) 256 256 = true →
    ringRead (beginDesc s ring d) ring (addrOff (opndAddr d 8)) 256 = .ok b v →
    (∀ m, m ∈ s.cmd.launches → m.id < s.cmd.nextLaunch) →
    let l := launchFrom v ring (opndAddr d 8) b 0 0 false
    launchRefusal v b l = 0 → emptyLaunch l = false → tilesFree v l = true →
    ∃ t, exec (.launch ring) s = .next t ∧ { l with begunAt := some s.clk } ∈ t.cmd.launches ∧
      t.cmd.nextLaunch = s.cmd.nextLaunch + 1) ∧
  (∀ s ring d h v b w, Claims.Runs s ring d 0x01 1 → hbmRun s (opndAddr d 8) 256 (32 + 32 * field h 0 2) = true →
    ringRead (beginDesc s ring d) ring (addrOff (opndAddr d 8)) 32 = .ok h v →
    field h 0 2 ≤ 256 → allZero h 2 30 = true →
    ringRead v ring (addrOff (opndAddr d 8)) (32 + 32 * field h 0 2) = .ok b w → field b 0 2 = field h 0 2 →
    listReservedOk b = true → (listEntries b).any (entryBad w) = false → entriesReady w (listEntries b) = true →
    listFree w ring (listEntries b) = true →
    ∃ t, exec (.launchReplayList ring) s = .next t ∧ t.cmd.nextLaunch = s.cmd.nextLaunch + field h 0 2)

/-- R166, R169, R170, R171, R396: a launch starts on a free tile with its threads ready and its streams loaded, ends there
when the tile has drained, and ends with its fault when its time is up or a fault has stopped it. -/
def Obligations.LaunchTiles : Prop :=
  (∀ s tile l, tile < 1152 → launchWaiting s tile = some l → (s.tile tile).launch = none →
    rowDomain tile ∈ s.pwr.domains → max l.atNs (s.tile tile).freeNs + stagger s tile ≤ s.ns →
    (s.tile tile).banksOn 0 sramBytes = true →
    let k := logicalTile l tile
    let off := streamOff l k
    (l.strm ≠ 0 → ringView s l.ring = none ∧ refusal s (.thread tile 0) .read none 0 off 8192 = 0 ∧ unitReady s 0 off 8192 = true ∧
      Claims.Good s) →
    ∃ t, exec (.launchTileStart tile) s = .next t ∧ t.hbm.mem = s.hbm.mem ∧ (∀ x, x ≠ tile → t.tile x = s.tile x) ∧
      t.tile tile = startedTile (s.tile tile) l s.clk k (if l.strm = 0 then [] else streamsFrom (committedBytes s off 8192)) ∧
      (∀ slot, slot < l.nparty * l.psize → (thr t tile slot).phase = .ready ∧ (thr t tile slot).pc = l.entry ∧
        (thr t tile slot).reg 1 = l.args ∧ (thr t tile slot).reg 14 = BitVec.ofNat 64 (0x800000 + 1024 * (slot + 1)) ∧
        ∀ n, n ≠ 1 → n ≠ 14 → (thr t tile slot).reg n = 0)) ∧
  (∀ s tile l, tile < 1152 → launchOn s tile = some l → (s.tile tile).trun = 2 → tileQuiet (s.tile tile) = true →
    l.fault = 0 → l.stopped = false → (l.nowb = true ∨ l.strm = 0) →
    ∃ t, exec (.launchTileEnd tile) s = .next t ∧ (t.tile tile).launch = none ∧ (t.tile tile).trun = 0 ∧
      (t.tile tile).freeNs = s.ns ∧ ∀ x, x ∈ (t.tile tile).threads → x.2.phase = .free) ∧
  (∀ s id l start, launchOf s id = some l → l.wdog ≠ 0 → l.finished = false → l.fault = 0 → l.stopped = false →
    l.begunAt = some start → start + l.wdog.toNat * 1200 ≤ s.clk →
    ∃ t, exec (.launchWatchdogExpire id) s = .next t ∧ (∃ x, launchOf t id = some x ∧ x.fault = 0x010E) ∧
      ∀ k, k ∈ runningTiles l → (s.tile k).trun ≠ 3 → Stopped t k 0x010E) ∧
  (∀ s id l, launchOf s id = some l → l.finished = false → (l.fault ≠ 0 ∨ l.stopped = true) →
    (∀ k, k ∈ runningTiles l → settled s k = true ∧ enginesIdle (s.tile k) = true) →
    ∃ t, exec (.launchFaultEnd id) s = .next t ∧
      ∀ k, k ∈ runningTiles l → (t.tile k).launch = none ∧ ∀ x, x ∈ (t.tile k).threads → x.2.phase = .free)

/-! ### Banks, mesh and edges (chapter 06) -/

/-- R180, R181, R182, R403: a corrected granule is written back; a bank idle for 100 µs enters retention and is on again
2 µs after its wake began; a row switches on when the ramp lets it, and its banks clear to zero from 50 µs on. -/
def Obligations.TileBanks : Prop :=
  (∀ s tile g, tile < 1152 → g ∈ (s.tile tile).writeback →
    ∃ t, exec (.bankEccWriteback tile g) s = .next t ∧ OnlyTile tile s t ∧ tget? (t.tile tile).marks g = none ∧
      (∀ n, n ≠ g → tget? (t.tile tile).marks n = tget? (s.tile tile).marks n) ∧ g ∉ (t.tile tile).writeback ∧
      (t.tile tile).mem = (s.tile tile).mem) ∧
  (∀ s tile b, tile < 1152 → b < 6 → (s.tile tile).launch = none → s.pwr.reten = true →
    ((s.tile tile).bank b).power = .on → ((s.tile tile).bank b).access + 120000 ≤ s.clk →
    ∃ t, exec (.bankRetentionEnter tile b) s = .next t ∧ OnlyTile tile s t ∧ ((t.tile tile).bank b).power = .retention ∧
      (∀ n, n ≠ b → (t.tile tile).bank n = (s.tile tile).bank n) ∧ (t.tile tile).mem = (s.tile tile).mem) ∧
  (∀ s tile b upsets, tile < 1152 → b < 6 → ((s.tile tile).bank b).power = .waking →
    ((s.tile tile).bank b).since + 2400 ≤ s.clk →
    ∃ t, exec (.bankWakeComplete tile b upsets) s = .next t ∧ OnlyTile tile s t ∧ ((t.tile tile).bank b).power = .on ∧
      (∀ n, n ≠ b → (t.tile tile).bank n = (s.tile tile).bank n) ∧ (t.tile tile).mem = (s.tile tile).mem) ∧
  (∀ s dm, dm < 108 → dm % 9 ≠ 8 → dm ∉ s.pwr.domains → dm / 9 * 9 + 8 ∈ s.pwr.domains → s.pwr.phase ≠ .off →
    s.pwr.phase ≠ .tripped → rowUsable s dm = true → (rowWanted s dm = true ∨ rowHeldOff s dm = false) → rampUpOk s = true →
    ∃ t, exec (.tileRowPowerOn dm) s = .next t ∧ dm ∈ t.pwr.domains ∧ t.hbm = s.hbm ∧
      (∀ x, x ∈ rowTiles dm → (t.tile x).mem = [] ∧ (t.tile x).marks = [] ∧
        ∀ b, b < 6 → ((t.tile x).bank b).power = .clearing ∧ ((t.tile x).bank b).since = s.clk + 60000) ∧
      ∀ x, x ∉ rowTiles dm → t.tile x = s.tile x) ∧
  (∀ s dm x b, dm < 108 → dm % 9 ≠ 8 → x ∈ rowTiles dm → b < 6 → ((s.tile x).bank b).power = .clearing →
    ((s.tile x).bank b).since + 16384 ≤ s.clk →
    ∃ t, exec (.bankClearComplete dm) s = .next t ∧ ((t.tile x).bank b).power = .on ∧ (t.tile x).mem = (s.tile x).mem ∧
      ∀ y, y ∉ rowTiles dm → t.tile y = s.tile y)

/-- R183, R187, R438: a double-bit error on the mesh discards the message and stops its tile; a message to a tile is
performed at its port; sixteen failures in a row of an edge's beats take it down and halt the part. -/
def Obligations.MeshAndEdges : Prop :=
  (∀ s q r, reqOf s q = some r → r.reply = .none → r.away = false → firstInOrder s r = true →
    let tile := meshTile s r.addr ((issuerTile r.issuer).getD 0)
    (s.tile tile).trun ≠ 3 →
    ∃ t, exec (.meshMessageDeliver (.request q) .double) s = .next t ∧ reqOf t q = none ∧ Stopped t tile 0x0203) ∧
  (∀ s q r, reqOf s q = some r → isOwn s r.addr = true → addrSpace r.addr = 1 → r.reply = .none → r.away = false →
    firstInOrder s r = true →
    r.act = .read → lineFree s r = true → refusal s r.issuer .read none 1 (addrOff r.addr) r.len = 0 →
    unitReady s 1 (addrOff r.addr) r.len = true → (s.tile (addrTile r.addr)).marks = [] →
    ∃ t x, exec (.meshMessageDeliver (.request q) .none) s = .next t ∧ t.hbm = s.hbm ∧ reqOf t q = some x ∧
      x.reply = .data (tileBytes (s.tile (addrTile r.addr)) (addrLocal r.addr) r.len) .good ∧
      ∀ y, (t.tile y).mem = (s.tile y).mem) ∧
  (∀ s q r b, reqOf s q = some r → isOwn s r.addr = true → addrSpace r.addr = 1 → r.reply = .none → r.away = false →
    firstInOrder s r = true → r.act = .write b → b.length = r.len → refusal s r.issuer .write none 1 (addrOff r.addr) r.len = 0 →
    unitReady s 1 (addrOff r.addr) r.len = true → Mem.wf zeroByte (s.tile (addrTile r.addr)).mem = true →
    ∃ t, exec (.meshMessageDeliver (.request q) .none) s = .next t ∧ t.hbm = s.hbm ∧ reqOf t q = none ∧
      memRead zeroByte (t.tile (addrTile r.addr)).mem (addrLocal r.addr) b.length = b ∧
      (∀ a, a < addrLocal r.addr ∨ addrLocal r.addr + b.length ≤ a →
        memByte zeroByte (t.tile (addrTile r.addr)).mem a = memByte zeroByte (s.tile (addrTile r.addr)).mem a) ∧
      ∀ y, y ≠ addrTile r.addr → (t.tile y).mem = (s.tile y).mem) ∧
  (∀ s e, e < 24 → (tget s.edges e {}).down = false →
    ∃ t, exec (.edgeBeatReceive e true) s = .next t ∧ t = { s with edges := t.edges } ∧ (tget t.edges e {}).fails = 0 ∧
      (tget t.edges e {}).down = false ∧ ∀ n, n ≠ e → tget t.edges n {} = tget s.edges n {}) ∧
  (∀ s e, e < 24 → (tget s.edges e {}).down = false →
    ∃ t, exec (.edgeBeatReceive e false) s = .next t ∧ (tget t.edges e {}).fails = (tget s.edges e {}).fails + 1 ∧
      (if (tget s.edges e {}).fails + 1 < 16 then (tget t.edges e {}).down = false ∧ t.log.halted = s.log.halted
       else (tget t.edges e {}).down = true ∧ t.log.halted = true ∧ t.pins.faultLow = true ∧ t.cmd.stages = [] ∧
         ∀ r, (t.ring r).phase ≠ .active))

/-! ### HBM (chapter 07) -/

/-- The request is the next of its kind at the HBM of this part, its checks pass, and no side-band or redirect bears on
it. -/
def Claims.AtHbm (s : State) (q : Nat) (r : MemReq) : Prop :=
  reqOf s q = some r ∧ isOwn s r.addr = true ∧ addrSpace r.addr = 0 ∧ r.reply = .none ∧ firstInOrder s r = true ∧
  (r.act = .read → lineFree s r = true) ∧ r.view = none ∧
  refusal s r.issuer (accOf r.act) none 0 (addrOff r.addr) r.len = 0 ∧ unitReady s 0 (addrOff r.addr) r.len = true ∧
  s.hbm.marks = [] ∧ s.cmd.redirects = [] ∧ addrOff r.addr % 256 + r.len ≤ 256 ∧ 0 < r.len

/-- R199, R200, R205, R497, R150: a load's reply holds the committed bytes, also where one symbol of the granule has flipped,
which is counted; a store leaves them holding its own, an atomic leaves the operation's word and answers the old one; every
other byte of HBM is as before. -/
def Obligations.HbmAccesses : Prop :=
  (∀ s q r, Claims.AtHbm s q r → r.act = .read →
    ∃ t x, exec (.hbmAccess q []) s = .next t ∧ reqOf t q = some x ∧
      x.reply = .data (committedBytes s (addrOff r.addr) r.len) .good ∧ t.hbm.mem = s.hbm.mem ∧ t.tiles = s.tiles) ∧
  (∀ s q r u, Claims.AtHbm s q r → r.act = .read → u.granule = granuleOf s (addrOff r.addr) → u.granule < 768 * 2 ^ 23 →
    u.symbol < 138 → u.bits ≠ 0 →
    let k := stackOfPlace u.granule
    ∃ t x, exec (.hbmAccess q [u]) s = .next t ∧ reqOf t q = some x ∧
      x.reply = .data (committedBytes s (addrOff r.addr) r.len) .good ∧ (t.stack k).ce = satInc (s.stack k).ce ∧ t.tiles = s.tiles) ∧
  (∀ s q r b upsets, Claims.AtHbm s q r → r.act = .write b → b.length = r.len → Mem.wf zeroByte s.hbm.mem = true →
    let a := physKey s (addrOff r.addr)
    ∃ t, exec (.hbmAccess q upsets) s = .next t ∧ reqOf t q = none ∧ memRead zeroByte t.hbm.mem a r.len = b ∧
      (∀ x, x < a ∨ a + r.len ≤ x → memByte zeroByte t.hbm.mem x = memByte zeroByte s.hbm.mem x) ∧
      ∀ x, (t.tile x).mem = (s.tile x).mem) ∧
  (∀ s q r op v c, Claims.AtHbm s q r → r.act = .atomic op v c → r.len = 8 → op.toNat ≤ 4 → Mem.wf zeroByte s.hbm.mem = true →
    let a := physKey s (addrOff r.addr)
    let old : W64 := BitVec.ofNat 64 (leNat (committedBytes s (addrOff r.addr) 8))
    ∃ t x, exec (.hbmAccess q []) s = .next t ∧ reqOf t q = some x ∧
      x.reply = .data (committedBytes s (addrOff r.addr) 8) .good ∧
      memRead zeroByte t.hbm.mem a 8 = leBytes 8 (Claims.atomicValue op.toNat old v c).toNat ∧
      ∀ n, n < a ∨ a + 8 ≤ n → memByte zeroByte t.hbm.mem n = memByte zeroByte s.hbm.mem n) ∧
  (∀ s g h, tget? s.hbm.held g = some h → h.since + 64 ≤ s.clk → h.bad = false → tget? s.hbm.marks g = none →
    placeReady s g = true → Mem.wf zeroByte s.hbm.mem = true →
    ∃ t, exec (.hbmPartialWriteFlush g) s = .next t ∧ tget? t.hbm.held g = none ∧ tget? t.hbm.marks g = none ∧
      (∀ a, memByte zeroByte t.hbm.mem a = memByte zeroByte s.hbm.mem a) ∧ t.tiles = s.tiles ∧ t.log = s.log) ∧
  (∀ s g, g ∈ s.hbm.writeback → placeReady s g = true →
    ∃ t, exec (.hbmCeWriteback g) s = .next t ∧ g ∉ t.hbm.writeback ∧ (markOf t g).flips = [] ∧
      (markOf t g).chkBad = (markOf s g).chkBad ∧ (∀ n, n ≠ g → markOf t n = markOf s n) ∧ t.hbm.mem = s.hbm.mem ∧
      t = { s with hbm := t.hbm })

/-- R201, R203, R403: refreshes come 1, 2 or 4 slots in 32; a stack idle for 1 ms enters self-refresh and leaves it after the
first access; a stop of one second halts the part. -/
def Obligations.HbmStacks : Prop :=
  (∀ s ch, ch < 768 →
    ∃ t, exec (.hbmRefresh ch) s = .next t ∧ t = { s with hbm := { s.hbm with refreshed := t.hbm.refreshed } } ∧
      ∀ n, tget t.hbm.refreshed n 0 =
        if n = ch then tget s.hbm.refreshed n 0 + 2 ^ (s.stack (ch / 32)).refresh.toNat else tget s.hbm.refreshed n 0) ∧
  (∀ s k, k < 24 → s.pwr.hbmSr = true → (s.stack k).trained = true → (s.stack k).selfRef = false →
    (s.stack k).access + 1200000 ≤ s.clk →
    ∃ t, exec (.hbmSelfRefreshEnter k) s = .next t ∧ (t.stack k).selfRef = true ∧ (∀ n, n ≠ k → t.stack n = s.stack n) ∧
      t = { s with hbm := { s.hbm with stk := t.hbm.stk } }) ∧
  (∀ s k, k < 24 → (s.stack k).selfRef = true → (s.stack k).waking = true →
    ∃ t, exec (.hbmSelfRefreshExit k) s = .next t ∧ (t.stack k).selfRef = false ∧ (t.stack k).waking = false ∧
      (∀ n, n ≠ k → t.stack n = s.stack n) ∧ t = { s with hbm := { s.hbm with stk := t.hbm.stk } }) ∧
  (∀ s k, k < 24 → (s.stack k).stop = true → (s.stack k).stopAt + 1200000000 ≤ s.clk → s.log.halted = false →
    ∃ t, exec (.hbmStallTimeout k) s = .next t ∧ t.log.halted = true ∧ t.pins.faultLow = true ∧
      (s.log.fcode = 0 → t.log.fcode = 0x0306) ∧ t.job.jepoch = 0 ∧ t.cmd.stages = [])

/-- The register write comes through the primary host port, whose link is up. -/
def Claims.Primary (s : State) (host : Nat) : Prop := host < 2 ∧ (s.hport host).up = true ∧ host = b2n s.host.primary

/-- R197, R208 to R211, R360, R361: MRCOMMIT replaces the active table in one step or is refused with its reason; a
retirement entry is kept, one that names no granule is refused; a repaired row takes a spare and keeps its bytes. -/
def Obligations.HbmTables : Prop :=
  (∀ s host, Claims.Primary s host → commitWhy s = none →
    ∃ t, exec (.mrcommitGo host) s = .next t ∧ t.hbm.commit = some s.hbm.shadow ∧ t.hbm.active = s.hbm.active ∧
      t = { s with hbm := { s.hbm with commit := t.hbm.commit, commitAt := t.hbm.commitAt } }) ∧
  (∀ s host why first, Claims.Primary s host → commitWhy s = some (why, first) →
    ∃ t, exec (.mrcommitGo host) s = .next t ∧ t.hbm.refused = true ∧ t.hbm.why = BitVec.ofNat 3 why ∧
      t.hbm.first = BitVec.ofNat 11 first ∧ t.hbm.active = s.hbm.active ∧ t.hbm.commit = s.hbm.commit) ∧
  (∀ s tbl, s.hbm.commit = some tbl →
    ∃ t, exec .mrcommitComplete s = .next t ∧ t.hbm.active = tbl ∧ t.hbm.commit = none ∧ t.hbm.mem = s.hbm.mem ∧
      t = { s with hbm := { s.hbm with active := t.hbm.active, commit := none } }) ∧
  (∀ s host i v, Claims.Primary s host → i < 4096 → bits v.toNat 24 0 ≤ 0x17FFFFF →
    ∃ t, exec (.mretWrite host i v) s = .next t ∧
      tget? t.hbm.retired i = some (BitVec.ofNat 25 (bits v.toNat 24 0), bit v.toNat 31) ∧
      (∀ n, n ≠ i → tget? t.hbm.retired n = tget? s.hbm.retired n) ∧
      t = { s with hbm := { s.hbm with retired := t.hbm.retired, logged := t.hbm.logged } }) ∧
  (∀ s ring d, Claims.Runs s ring d 0x2A 0 → launchRunning s = false → anyPitch s = false →
    let pc := opnd d 8 2
    let bank := opnd d 10 1
    let row := opnd d 12 4
    rowKey pc bank row ∉ s.hbm.repaired → spareRows s pc bank ≠ 0 → s.hbm.repair = none → s.hbm.commit = none →
    (rowGranules pc bank row).all (placeReady s) = true → s.hbm.marks = [] →
    ∃ t, exec (.memRepair ring) s = .next t ∧ Claims.Under t ring d .repair ∧ t.hbm.mem = s.hbm.mem ∧
      t.hbm.repair = some ⟨ring, pc, bank, row, (rowGranules pc bank row).map (fun g => (memRead zeroByte s.hbm.mem (g * 256) 256, false))⟩) ∧
  (∀ s r, s.hbm.repair = some r →
    ∃ t, exec .memRepairComplete s = .next t ∧ t.hbm.repair = none ∧ rowKey r.pc r.bank r.row ∈ t.hbm.repaired ∧
      spareRows t r.pc r.bank = spareRows s r.pc r.bank - 1 ∧ t.tiles = s.tiles)

/-! ### Links of the Rope fabric (chapter 08) -/

/-- The port is trained (R228: CARD, HELD, TIME_HOLD, MGMT or UP). -/
def Claims.Linked (s : State) (port : Nat) : Prop := port < 16 ∧ linked (s.port port).phase = true

/-- The link has gone down (R222): TRAIN, one more loss counted, nothing left to replay. -/
def Claims.WentDown (s t : State) (port : Nat) : Prop :=
  (t.port port).phase = .train ∧ (t.port port).kept = [] ∧ (t.port port).replay = [] ∧ (t.port port).rxBytes = [] ∧
  (t.port port).downs = (if (s.port port).downs.toNat = 0xFFFF then (s.port port).downs else (s.port port).downs + 1)

/-- R215, R217, R222, R226, R228, R455: training, the loss of a lane, silence and a missing card move a port between its
states; `PCTL` enables, disables and retrains it, and only logs while the part is unconfigured. -/
def Obligations.LinkStates : Prop :=
  (∀ s host port v, Claims.Primary s host → port < 16 → s.sec.noCfg = false → (s.port port).phase = .off → bit v.toNat 0 = true →
    ∃ t, exec (.pctlEnWrite host port v) s = .next t ∧ (t.port port).phase = .train ∧ (t.port port).en = true) ∧
  (∀ s host port v, Claims.Primary s host → port < 16 → s.sec.noCfg = false → bit v.toNat 0 = false →
    ∃ t, exec (.pctlEnWrite host port v) s = .next t ∧ (t.port port).phase = .off ∧ (t.port port).en = false ∧ (t.port port).kept = []) ∧
  (∀ s host port v, Claims.Primary s host → port < 16 → s.sec.noCfg = true →
    ∃ t, exec (.pctlEnWrite host port v) s = .next t ∧ t.fab = s.fab) ∧
  (∀ s host port, Claims.Primary s host → Claims.Linked s port → s.sec.noCfg = false → (s.port port).en = true →
    ∃ t, exec (.pctlRetrain host port) s = .next t ∧ (t.port port).phase = .train ∧ (t.port port).kept = []) ∧
  (∀ s port (l : BitVec 8), port < 16 → (s.port port).phase = .train →
    l = 0xFF ∨ (l = 0x0F ∨ l = 0xF0) ∧ (s.port port).degradeOk = true →
    ∃ t, exec (.linkTrained port l) s = .next t ∧ (t.port port).phase = .card ∧ (t.port port).narrow = decide (l ≠ 0xFF) ∧
      (t.port port).nextSeq = 0 ∧ (t.port port).rxLast = 0xFFFF ∧ (t.port port).sentUnits = [] ∧ (t.port port).freed = [] ∧
      (t.port port).cardDue = true) ∧
  (∀ s port, Claims.Linked s port → ∃ t, exec (.laneLockLoss port) s = .next t ∧ Claims.WentDown s t port) ∧
  (∀ s port, Claims.Linked s port → (s.port port).rxAt + 120000 ≤ s.clk →
    ∃ t, exec (.linkRxTimeout port) s = .next t ∧ Claims.WentDown s t port) ∧
  (∀ s port, Claims.Linked s port → (s.port port).phase ≠ .card → (s.port port).cardAt + 360000000 ≤ s.clk →
    ∃ t, exec (.cardTimeout port) s = .next t ∧ Claims.WentDown s t port)

/-- Codewords of a result that begin in a flit. -/
def Claims.counted (fec : List Codeword) (r : FecResult) : Nat := (fec.filter (fun c => c.first && c.result == r)).length

/-- R216, R218 to R221, R224, R225, R392: what a port sends is an intact flit of 256 bytes; a data flit, a card and their sequence are
kept for replay; while the link share lets no packet start, idle flits go out; a flit with a bad check or an uncorrectable
codeword is only answered by a NAK, with its codewords counted; the next one in order is accepted. -/
def Obligations.LinkFlits : Prop :=
  (∀ s port ftype fseq payload, ftype < 3 →
    (flitBytes s port ftype fseq payload).length = 256 ∧ flitIntact (flitBytes s port ftype fseq payload) = true ∧
      bits (field (flitBytes s port ftype fseq payload) 0 8) 17 2 = fseq % 2 ^ 16 ∧
      slice (flitBytes s port ftype fseq payload) 8 240 = slice payload 0 240) ∧
  (∀ s port, Claims.Linked s port → (s.port port).replay = [] →
    ((s.port port).txq = [] ∧ (s.port port).txBytes = []) ∨ (s.port port).kept.length ≥ 4096 ∨ shareLets s (s.port port) = false →
    ∃ t, exec (.flitSend port) s = .next t ∧
      t.out = .flit port (flitBytes s port 1 (s.port port).nextSeq.toNat (samplePayload s port)) :: s.out ∧
      (t.port port).nextSeq = (s.port port).nextSeq ∧ (t.port port).kept = (s.port port).kept ∧ t.hbm = s.hbm ∧ t.tiles = s.tiles) ∧
  (∀ s port, Claims.Linked s port → (s.port port).replay = [] → (s.port port).kept.length < 4096 →
    shareLets s (s.port port) = true → (layPackets 8 (s.port port)).txBytes ≠ [] →
    let payload := (layPackets 8 (s.port port)).txBytes.take 240
    ∃ t b, exec (.flitSend port) s = .next t ∧ t.out = .flit port b :: s.out ∧ slice b 8 240 = slice payload 0 240 ∧
      (t.port port).nextSeq = (s.port port).nextSeq + 1 ∧
      (t.port port).kept = (s.port port).kept ++ [{ fseq := (s.port port).nextSeq, control := false, payload := payload }]) ∧
  (∀ s port f rest, Claims.Linked s port → (s.port port).replay = f :: rest → s.fab.bufMarks = [] →
    ∃ t b, exec (.flitSend port) s = .next t ∧ t.out = .flit port b :: s.out ∧ slice b 8 240 = slice f.payload 0 240 ∧
      bits (field b 0 8) 17 2 = f.fseq.toNat ∧ (t.port port).replay = rest ∧ (t.port port).kept = (s.port port).kept) ∧
  (∀ s port b fec, Claims.Linked s port → fec.any (fun c => c.result == .uncorrectable) = true ∨ flitIntact b = false →
    ∃ t, exec (.flitReceive port b fec) s = .next t ∧
      t = s.setPort port { s.port port with fecc := (t.port port).fecc, fecu := (t.port port).fecu, nakOut := true } ∧
      (t.port port).fecc.toNat = min (2 ^ 32 - 1) ((s.port port).fecc.toNat + Claims.counted fec .corrected) ∧
      (t.port port).fecu.toNat = min (2 ^ 32 - 1) ((s.port port).fecu.toNat + Claims.counted fec .uncorrectable)) ∧
  (∀ s port b fec, Claims.Linked s port → fec.any (fun c => c.result == .uncorrectable) = false → flitIntact b = true → bit (field b 0 8) 34 = false → field b 0 8 % 4 = 2 →
    bits (field b 0 8) 17 2 = ((s.port port).rxLast + 1).toNat →
    ∃ t, exec (.flitReceive port b fec) s = .next t ∧ (t.port port).rxLast = (s.port port).rxLast + 1 ∧
      (t.port port).nakOut = false ∧ (t.port port).card = some (parseCard (slice b 8 240)) ∧ (t.port port).cardFresh = true ∧
      (t.port port).phase = (s.port port).phase) ∧
  (∀ s port, Claims.Linked s port → (s.port port).sampleUs < s.ns / 1000 →
    ∃ t b, exec (.timeSampleSend port) s = .next t ∧ t.out = .flit port b :: s.out ∧
      slice b 8 240 = slice (samplePayload s port) 0 240 ∧
      bits (field b 0 8) 17 2 = (match (s.port port).replay with | f :: _ => f.fseq | [] => (s.port port).nextSeq).toNat ∧
      (t.port port).kept = (s.port port).kept ∧ (t.port port).sampleUs = s.ns / 1000) ∧
  (∀ s port, Claims.Linked s port → (s.port port).replay = [] → (s.port port).kept.length < 4096 → (s.port port).cardDue = true →
    ∃ t b, exec (.ropeCardSend port) s = .next t ∧ t.out = .flit port b :: s.out ∧
      slice b 8 64 = cardBytes s port ∧ (t.port port).nextSeq = (s.port port).nextSeq + 1 ∧ (t.port port).cardDue = false ∧
      ∃ f, (t.port port).kept = (s.port port).kept ++ [f] ∧ f.control = true ∧ f.fseq = (s.port port).nextSeq)

/-- R221, R222: an acknowledgement that stays away for 10 µs starts a replay of every kept flit; the eighth start in a row at
one sequence takes the link down instead. R227, R228: the first check that a card fails decides the port's state. R231,
R232: the device number and a route take effect as written. -/
def Obligations.LinkChoices : Prop :=
  (∀ s port f rest, Claims.Linked s port → (s.port port).kept = f :: rest → (s.port port).ackAt + 12000 ≤ s.clk →
    ∃ t, exec (.linkReplayTimeout port) s = .next t ∧
      (if (s.port port).replayRun ≥ 7 ∧ (s.port port).replayAt = f.fseq then Claims.WentDown s t port
       else (t.port port).replay = (s.port port).kept ∧ (t.port port).replays = satInc (s.port port).replays ∧
         (t.port port).phase = (s.port port).phase)) ∧
  (∀ s port c, Claims.Linked s port → (s.port port).card = some c → (s.port port).cardFresh = true →
    ∃ t, exec (.ropeCardEvaluate port) s = .next t ∧ (t.port port).peer = c.devNum ∧ (t.port port).cardFresh = false ∧
      (t.port port).phase = (if cardCheck s c ≤ 4 then .held else if cardCheck s c = 5 then .timeHold
        else if cardCheck s c = 6 then .mgmt else .up) ∧
      (t.port port).why = (if cardCheck s c ≤ 4 then BitVec.ofNat 3 (cardCheck s c) else if cardCheck s c = 6 then 5 else (s.port port).why)) ∧
  (∀ s host v, Claims.Primary s host → s.job.locked = false → (∀ p, p ∈ s.fab.ports → p.2.phase = .off) →
    ¬(bit v.toNat 15 = true ∧ BitVec.ofNat 12 v.toNat = 0xFFF) →
    ∃ t, exec (.fdevWrite host v) s = .next t ∧ t.fab.devNum = BitVec.ofNat 12 v.toNat ∧ t.fab.devValid = bit v.toNat 15 ∧
      t.fab.routes = s.fab.routes ∧ t = { s with fab := t.fab }) ∧
  (∀ s host v, Claims.Primary s host → s.job.locked = true →
    ∃ t, exec (.fdevWrite host v) s = .next t ∧ OnlyLog s t) ∧
  (∀ s host dev v, Claims.Primary s host → dev < 4095 →
    ∃ t, exec (.rhiWrite host dev v) s = .next t ∧ (tget t.fab.routes dev {}).valid = bit v.toNat 10 ∧
      (tget t.fab.routes dev {}).paths = BitVec.ofNat 40 ((tget s.fab.rlo dev 0).toNat + bits v.toNat 9 0 * 2 ^ 30) ∧
      (∀ n, n ≠ dev → tget t.fab.routes n {} = tget s.fab.routes n {}) ∧
      t = { s with fab := { s.fab with routes := t.fab.routes } })

/-! ### Transport (chapter 08) -/

/-- The packet that an arrival command takes at a port, whose buffers have lost nothing. -/
def Claims.Arrived (s : State) (port : Nat) (k : Packet) (isMine : Packet → Bool) : Prop :=
  port < 16 ∧ s.fab.bufMarks = [] ∧ arrivedFor s port isMine = some k

/-- The first packet of a type for this part at a port. -/
def Claims.ArrivedType (s : State) (port : Nat) (k : Packet) (typ : Byte) : Prop :=
  Claims.Arrived s port k (fun k => forHere s k && k.typ == typ)

/-- The first delivered packet of a source's stream. -/
def Claims.Delivered (s : State) (src cls : Nat) (typ : Byte) (k : Packet) : Prop :=
  firstDelivered s src cls = some (k, false) ∧ k.typ = typ ∧ k.src.toNat = src

/-- Some port's queue holds a packet that meets `p`. -/
def Claims.Queued (t : State) (p : Packet → Prop) : Prop := ∃ n k, k ∈ (t.port n).txq ∧ p k

/-- R233, R234, R237 to R242: a packet for another part goes on to a usable path with one hop less, or is dropped and counted;
the receiving side delivers packets in order, holding one that comes early; an acknowledgement frees what
it covers; what is not acknowledged is sent again, and after eight times the stream breaks. -/
def Obligations.PacketStreams : Prop :=
  (∀ s port k e, Claims.Arrived s port k (fun k => !forHere s k) → routed s k.dst.toNat = true → k.hops ≠ 0 →
    nextPath (usablePaths s k.dst.toNat (k.typ == tMGMT)) k.path.toNat = some e →
    ∃ t, exec (.packetForward port) s = .next t ∧ { k with hops := k.hops - 1 } ∈ (t.port e.2).txq ∧
      (t.port port).arrived = removeOnce k (s.port port).arrived ∧ t.tiles = s.tiles ∧ t.hbm = s.hbm) ∧
  (∀ s port k, Claims.Arrived s port k (fun k => !forHere s k) → (routed s k.dst.toNat = false ∨ k.hops = 0) →
    let d := if routed s k.dst.toNat = false then 1 else 2
    ∃ t, exec (.packetForward port) s = .next t ∧ tget t.fab.drops d 0 = satInc (tget s.fab.drops d 0) ∧
      (t.port port).arrived = removeOnce k (s.port port).arrived ∧ ∀ n, (t.port n).txq = (s.port n).txq) ∧
  (∀ s port k, Claims.Arrived s port k (fun k => forHere s k && k.cls != 1) →
    let x := rxOf s k.src.toNat k.cls.toNat
    ∃ t, exec (.packetReorder port) s = .next t ∧ (t.port port).arrived = removeOnce k (s.port port).arrived ∧
      (k.seq = x.expected → x.held = [] →
        (rxOf t k.src.toNat k.cls.toNat).expected = x.expected + 1 ∧
        (rxOf t k.src.toNat k.cls.toNat).delivered = x.delivered ++ [(k, false)]) ∧
      (k.seq ≠ x.expected → (k.seq - x.expected).toNat < 2 ^ 31 → (∀ q, q ∈ x.held → q.seq ≠ k.seq) →
        reorderUsed s ((k.src.toNat + k.cls.toNat) % 4) < 4096 →
        (rxOf t k.src.toNat k.cls.toNat).expected = x.expected ∧ (rxOf t k.src.toNat k.cls.toNat).held = x.held ++ [k])) ∧
  (∀ s src cls x, s.fab.rx.find? (fun x => x.src == src && x.cls == cls) = some x →
    usablePaths s (src % 4096) false ≠ [] →
    ∃ t, exec (.ackSend src cls) s = .next t ∧
      Claims.Queued t (fun k => k.typ = tACK ∧ k.seq = ackPoint x ∧ k.dst = BitVec.ofNat 12 src ∧ k.tag = BitVec.ofNat 24 (cls % 4)) ∧
      t.fab.rx = s.fab.rx) ∧
  (∀ s port k x, Claims.ArrivedType s port k tACK → txFind s k.src.toNat (k.tag.toNat % 4) = some x → 0 < (k.seq - x.acked).toNat → (k.seq - x.acked).toNat < 2 ^ 31 →
    ∃ u, exec (.ack port) s = .next (settleCovers u) ∧ (txOf u x.dst x.cls).acked = k.seq ∧
      (txOf u x.dst x.cls).broken = false ∧ (txOf u x.dst x.cls).retries = 0 ∧
      ∀ e, e ∈ (txOf u x.dst x.cls).unacked → reached k.seq (e.packet.seq + 1) = false) ∧
  (∀ s dst cls x f, txFind s dst cls = some x → x.broken = false → retryFrom x = some f → f + 240000 ≤ s.clk →
    ∃ t, exec (.streamRetryExpire dst cls) s = .next t ∧
      (if x.retries < 8 then (txOf t dst cls).retries = x.retries + 1 ∧ (txOf t dst cls).broken = false
       else (txOf t dst cls).broken = true) ∧ (txOf t dst cls).acked = x.acked ∧ (txOf t dst cls).nextSeq = x.nextSeq) ∧
  (∀ s dst cls x, txFind s dst cls = some x → x.broken = true → x.unacked.find? (·.sent) ≠ none → x.resentAt + 1200000 ≤ s.clk →
    ∃ t, exec (.brokenStreamResend dst cls) s = .next t ∧ (txOf t dst cls).resentAt = s.clk ∧ (txOf t dst cls).broken = true ∧
      (txOf t dst cls).acked = x.acked) ∧
  (∀ s tag o, outstandingOf s tag = some o → (o.packet.typ = tREAD ∨ o.packet.typ = tATOMIC) → o.reply = .none → wasSent s o = true →
    o.sentAt + 240000 ≤ s.clk → (txOf s o.packet.dst.toNat 0).broken = false →
    ∃ t, exec (.requestRetryExpire tag) s = .next t ∧
      (if (txOf s o.packet.dst.toNat 0).retries < 8 then
        ∃ p, outstandingOf t tag = some p ∧ p.again = o.again + 1 ∧ p.sentAt = s.clk ∧ p.packet = o.packet
       else (txOf t o.packet.dst.toNat 0).broken = true))

/-! ### Remote memory (chapter 09) -/

/-- The request of another part comes outside a pitch, its line passes every check of R497, no side-band or redirect bears on
it, and the part has a usable path back. -/
def Claims.Served (s : State) (src : Nat) (typ : Byte) (k : Packet) (acc : Acc) (off len : Nat) : Prop :=
  Claims.Delivered s src 0 typ k ∧ k.inPitch = false ∧ remoteRefusal s k acc off len = 0 ∧ unitReady s (packetSpace k) off len = true ∧
  s.hbm.marks = [] ∧ s.cmd.redirects = [] ∧ (packetSpace k = 1 → (s.tile (off / 2 ^ 24)).marks = []) ∧
  usablePaths s src false ≠ []

/-- A reply of the type to the request is queued. -/
def Claims.Answered (t : State) (k : Packet) (typ : Byte) (p : Packet → Prop) : Prop :=
  Claims.Queued t (fun q => q.typ = typ ∧ q.tag = k.tag ∧ q.dst = k.src ∧ q.cls = 1 ∧ p q)

/-- The bytes of a run of this part's HBM or tile SRAM. -/
def Claims.bytesAt (s : State) (space off len : Nat) : Bytes :=
  if space = 1 then tileBytes (s.tile (off / 2 ^ 24)) (off % 2 ^ 24) len else committedBytes s off len

/-- R244, R245, R247, R249, R255, R256, R263, R344, R429: a READ is answered with the line and its check; a WRITE leaves the
line holding its bytes, a WRITEM only those its mask names; an ATOMIC leaves the operation's word, answers the old one and
keeps it; a duplicate ATOMIC is answered from the reply cache, which forgets an entry after 4 ms and only then; a refused
request moves nothing and is answered with its code. -/
def Obligations.RemoteRequests : Prop :=
  (∀ s src k, Claims.Served s src tREAD k .read (lineOff k) 128 →
    let b := Claims.bytesAt s (packetSpace k) (lineOff k) 128
    ∃ t, exec (.read src) s = .next t ∧ Claims.Answered t k tRDATA (fun q => q.payload = b ∧ q.e2e = e2eOf b) ∧
      (rxOf t src 0).delivered = (rxOf s src 0).delivered.tail ∧ t.hbm.mem = s.hbm.mem) ∧
  (∀ s src k, Claims.Served s src tWRITE k .write (lineOff k) 128 → packetSpace k = 0 → k.payload.length = 128 →
    verify k.payload k.e2e = .good → Mem.wf zeroByte s.hbm.mem = true →
    let a := physKey s (lineOff k)
    ∃ t, exec (.write src) s = .next t ∧ memRead zeroByte t.hbm.mem a 128 = k.payload ∧
      (∀ x, x < a ∨ a + 128 ≤ x → memByte zeroByte t.hbm.mem x = memByte zeroByte s.hbm.mem x) ∧
      (rxOf t src 0).delivered = (rxOf s src 0).delivered.tail ∧ t.tiles = s.tiles) ∧
  (∀ s src k, Claims.Served s src tWRITE k .write (lineOff k) 128 → packetSpace k = 1 → k.payload.length = 128 →
    verify k.payload k.e2e = .good →
    let n := lineOff k / 2 ^ 24
    let a := lineOff k % 2 ^ 24
    Mem.wf zeroByte (s.tile n).mem = true →
    ∃ t, exec (.write src) s = .next t ∧ memRead zeroByte (t.tile n).mem a 128 = k.payload ∧
      (∀ x, x < a ∨ a + 128 ≤ x → memByte zeroByte (t.tile n).mem x = memByte zeroByte (s.tile n).mem x) ∧
      (∀ m, m ≠ n → t.tile m = s.tile m) ∧ t.hbm = s.hbm) ∧
  (∀ s src k, Claims.Served s src tWRITEM k .write (lineOff k) 128 → packetSpace k = 0 → k.payload.length = 144 →
    verify (slice k.payload 16 128) k.e2e = .good → Mem.wf zeroByte s.hbm.mem = true →
    let a := physKey s (lineOff k)
    ∃ t, exec (.writem src) s = .next t ∧ t.tiles = s.tiles ∧
      (∀ i, i < 128 → memByte zeroByte t.hbm.mem (a + i) =
        if bit (field k.payload 0 16) i then k.payload.getD (16 + i) 0 else memByte zeroByte s.hbm.mem (a + i)) ∧
      ∀ x, x < a ∨ a + 128 ≤ x → memByte zeroByte t.hbm.mem x = memByte zeroByte s.hbm.mem x) ∧
  (∀ s src k, Claims.Served s src tATOMIC k .atomic (packetOff k / 8 * 8) 8 → packetSpace k = 0 → k.aux.toNat ≤ 4 →
    (liveReplies s (src % 4)).length < 2048 → Mem.wf zeroByte s.hbm.mem = true →
    let off := packetOff k / 8 * 8
    let old : W64 := BitVec.ofNat 64 (leNat (committedBytes s off 8))
    let new := Claims.atomicValue k.aux.toNat old (BitVec.ofNat 64 (field k.payload 0 8)) (BitVec.ofNat 64 (field k.payload 8 8))
    ∃ t, exec (.atomic src) s = .next t ∧ Claims.Answered t k tARESULT (fun q => field q.payload 0 8 = old.toNat) ∧
      memRead zeroByte t.hbm.mem (physKey s off) 8 = leBytes 8 new.toNat ∧
      (∀ x, x < physKey s off ∨ physKey s off + 8 ≤ x → memByte zeroByte t.hbm.mem x = memByte zeroByte s.hbm.mem x) ∧
      t.fab.replyCache = ⟨src % 4, src, k.seq, old, s.clk⟩ :: s.fab.replyCache) ∧
  (∀ s die, die < 4 →
    ∀ upsets, ∃ t, exec (.replyCacheExpire die upsets) s = .next t ∧
      t = { s with fab := { s.fab with replyCache := t.fab.replyCache, bufMarks := t.fab.bufMarks } } ∧
      (upsets = [] → t.fab.bufMarks = s.fab.bufMarks) ∧
      ∀ e, e ∈ t.fab.replyCache ↔ e ∈ s.fab.replyCache ∧ ¬(e.die = die ∧ e.at_ + 4800000 ≤ s.clk)) ∧
  (∀ s src k e, firstDelivered s src 0 = some (k, true) → k.typ = tATOMIC → k.src.toNat = src →
    (liveReplies s (src % 4)).find? (fun e => e.src == src && e.seq == k.seq) = some e → usablePaths s src false ≠ [] →
    bufferMark s (.reply src k.seq) = none →
    ∃ t, exec (.atomic src) s = .next t ∧ Claims.Answered t k tARESULT (fun q => field q.payload 0 8 = e.old.toNat) ∧
      t.hbm = s.hbm ∧ t.tiles = s.tiles) ∧
  (∀ s src k, Claims.Delivered s src 0 tWRITE k → k.inPitch = false → remoteRefusal s k .write (lineOff k) 128 ≠ 0 →
    s.log.ringUp = false → usablePaths s src false ≠ [] →
    ∃ t, exec (.write src) s = .next t ∧ t.hbm = s.hbm ∧ t.tiles = s.tiles ∧
      Claims.Answered t k tSTATUS (fun q => field q.payload 0 2 = remoteRefusal s k .write (lineOff k) 128) ∧
      t.fab.ownViol = (if remoteRefusal s k .write (lineOff k) 128 = 0x0404 then satInc s.fab.ownViol else s.fab.ownViol))

/-- The reply of an outstanding request. -/
def Claims.Reply (t : State) (tag : Nat) (r : Reply) : Prop := ∃ o, outstandingOf t tag = some o ∧ o.reply = r

/-- R241, R257, R259, R263, R267: data, atomic results and statuses reach the request they answer; one that nothing waits
for is counted; a read that no reply ever answers brings poison. -/
def Obligations.RemoteReplies : Prop :=
  (∀ s port k o id, Claims.ArrivedType s port k tRDATA → outstandingOf s k.tag.toNat = some o →
    o.reply = .none → o.packet.dst = k.src → o.packet.typ = tREAD → o.use_ = .request id →
    ∃ t, exec (.rdata port) s = .next t ∧ Claims.Reply t k.tag.toNat (.data k.payload (verify k.payload k.e2e)) ∧
      (t.port port).arrived = removeOnce k (s.port port).arrived ∧ t.hbm = s.hbm ∧ t.tiles = s.tiles) ∧
  (∀ s port k, Claims.ArrivedType s port k tRDATA → outstandingOf s k.tag.toNat = none →
    ∃ t, exec (.rdata port) s = .next t ∧ t.fab.late = satInc s.fab.late ∧ t.fab.outstanding = s.fab.outstanding ∧
      t.hbm = s.hbm ∧ t.tiles = s.tiles) ∧
  (∀ s port k o, Claims.ArrivedType s port k tARESULT → outstandingOf s k.tag.toNat = some o →
    o.reply = .none → o.packet.dst = k.src → o.packet.typ = tATOMIC →
    ∃ t, exec (.aresult port) s = .next t ∧ Claims.Reply t k.tag.toNat (.data (slice k.payload 0 8) .good) ∧
      t.hbm = s.hbm ∧ t.tiles = s.tiles) ∧
  (∀ s port k o id, Claims.Arrived s port k (plainStatus s) → k.tag.toNat < 2 ^ 23 →
    outstandingOf s k.tag.toNat = some o → o.reply = .none → o.packet.dst = k.src → o.use_ = .request id →
    field k.payload 0 2 ≠ 0x0402 → field k.payload 0 2 ≠ 0x040C →
    ∃ t, exec (.status port) s = .next t ∧ Claims.Reply t k.tag.toNat (.refused (BitVec.ofNat 16 (field k.payload 0 2))) ∧
      t.hbm = s.hbm ∧ t.tiles = s.tiles) ∧
  (∀ s tag o id, outstandingOf s tag = some o → o.reply = .none → o.entered + s.fab.loadTo.toNat * 1200 ≤ s.clk →
    o.packet.typ = tREAD → o.use_ = .request id →
    ∃ t, exec (.loadTimeoutExpire tag) s = .next t ∧ Claims.Reply t tag (.data poisonLine .poison) ∧ t.tiles = s.tiles) ∧
  (∀ s tag o id r tile slot rd n sg, outstandingOf s tag = some o → o.reply = .none →
    o.entered + s.fab.loadTo.toNat * 1200 ≤ s.clk → o.packet.typ = tATOMIC → o.use_ = .request id → reqOf s id = some r →
    r.issuer = .thread tile slot → (thr s tile slot).wait = .reply id rd n sg → (s.tile tile).trun ≠ 3 → rd ≠ 0 →
    ∃ t, exec (.loadTimeoutExpire tag) s = .next t ∧ Stopped t tile 0x0402 ∧ (thr t tile slot).reg rd = 0x7FC00BAD7FC00BAD ∧
      reqOf t id = none) ∧
  (∀ s tag o, outstandingOf s tag = some o → o.packet.typ = tCREAD → o.reply = .none →
    (o.busy = true ∨ wasSent s o = true ∧ o.sentAt + 240000 ≤ s.clk) →
    ∃ t p, exec (.creadAbandon tag) s = .next t ∧ p ∈ t.fab.outstanding ∧ p.use_ = o.use_ ∧ p.packet.typ = tREAD ∧
      p.packet.dst = o.packet.dst ∧ p.reply = .none ∧ t.hbm = s.hbm)

/-- Ownership entry `i` becomes `e`, every other one stays. -/
def Claims.Entry (s t : State) (i : Nat) (e : W16) : Prop :=
  ownEntry t i = e ∧ ∀ n, n ≠ i → ownEntry t n = ownEntry s n

/-- R260 to R264, R268, R269: REGION sets the entries of its range; INVALIDATE and RECALL open a write window once no part may
hold a cached line; PUBLISH asks for its closing, which waits until no stage holds a write to the region. -/
def Obligations.RegionOwnership : Prop :=
  (∀ s ring d, Claims.Runs s ring d 0x28 0 →
    let first := opnd d 8 4
    let n := opnd d 12 4
    let st := opnd d 16 1
    st ≠ 3 → first + n ≤ 793344 →
    (∀ i, first ≤ i → i < first + n → ownState (ownEntry s i) = 1 →
      ¬(st ≠ 1 ∧ ownCached (ownEntry s i) = true) ∧ ¬(st = 1 ∧ stagedIn s i = true)) →
    ∃ t, exec (.region ring) s = .next t ∧ Claims.Done t ring d 0 ∧ t.hbm = s.hbm ∧
      ∀ i, ownEntry t i = if first ≤ i ∧ i < first + n
        then mkOwn st (opnd d 18 2) (ownCached (ownEntry s i) && st == 1) false else ownEntry s i) ∧
  (∀ s ring d, Claims.Runs s ring d 0x29 0 →
    let first := opnd d 8 4
    let n := opnd d 12 4
    (opnd d 16 2 = 0xFFF ∨ (s.fab.devValid = true ∧ opnd d 16 2 = ownDev s)) → first + n ≤ 793344 →
    (∀ i, first ≤ i → i < first + n → ownState (ownEntry s i) = 1 ∧ ownedHere s (ownEntry s i) = true ∧
      ownOpen (ownEntry s i) = false ∧ ownCached (ownEntry s i) = false) →
    ∃ t, exec (.invalidate ring) s = .next t ∧ Claims.Done t ring d 0 ∧
      ∀ i, ownEntry t i = if first ≤ i ∧ i < first + n then mkOwn 1 (ownOwner (ownEntry s i)) false true else ownEntry s i) ∧
  (∀ s src k, Claims.Delivered s src 0 tRECALL k → usablePaths s src false ≠ [] →
    let i := field k.payload 0 4
    i < 793344 → ownState (ownEntry s i) = 1 → ownOwner (ownEntry s i) = src → ownOpen (ownEntry s i) = false →
    ownCached (ownEntry s i) = false →
    ∃ t, exec (.recall src) s = .next t ∧ Claims.Entry s t i (mkOwn 1 src false true) ∧
      Claims.Answered t k tSTATUS (fun q => field q.payload 0 2 = 0)) ∧
  (∀ s src k, Claims.Delivered s src 0 tINV k → usablePaths s src false ≠ [] → setsReady s = true → s.hbm.marks = [] →
    s.cmd.redirects = [] →
    let i := field k.payload 0 4
    ∃ t, exec (.inv src) s = .next t ∧ Claims.Answered t k tSTATUS (fun q => field q.payload 0 2 = 0) ∧
      (∀ line, line / 2 ^ 14 = i → let a := rlcBase s (rlcSet s line src)
        rlcListed s = [rlcSet s line src] → granuleOf s (a + 3584) ≠ granuleOf s (a + 3840) → rlcFind t line src = none) ∧
      (rlcListed s = [] → t.hbm = s.hbm) ∧
      ∀ o, o ∈ t.fab.outstanding → o.packet.typ = tCREAD → o.packet.dst.toNat = src → packetOff o.packet / 2 ^ 21 = i → o.noInstall = true) ∧
  (∀ s i dev o, s.fab.outstanding.find? (fun o => o.use_ == .inval i dev) = some o → o.reply = .none → o.sentAt + 240000 ≤ s.clk →
    ∃ t p, exec (.invResend i dev) s = .next t ∧ outstandingOf t o.tag = some p ∧ p.sentAt = s.clk ∧ t.fab.owners = s.fab.owners) ∧
  (∀ s i r, s.fab.recalls.filter (fun r => r.region == i) = [r] → r.waiting = [] →
    ∃ t, exec (.recallComplete i) s = .next t ∧ t.fab.recalls.all (fun r => r.region != i) = true ∧
      Claims.Entry s t i (match r.then_ with
        | some e => e
        | none => if ownState (ownEntry s i) = 1 then mkOwn 1 (ownOwner (ownEntry s i)) false true else ownEntry s i)) ∧
  (∀ s i r, s.fab.recalls.filter (fun r => r.region == i) = [r] → r.waiting ≠ [] → r.start + s.fab.fenceTo.toNat * 1200 ≤ s.clk →
    ∃ t, exec (.recallTimeout i) s = .next t ∧ t.fab.recalls.all (fun r => r.region != i) = true ∧ t.fab.owners = s.fab.owners) ∧
  (∀ s ring o, ring < 32 → s.fab.outstanding.find? (fun o => (match o.use_ with | .recall r _ => r == ring | _ => false) &&
      o.reply == .none && s.passed o.sentAt (s.fab.fenceTo.toNat + 200)) = some o →
    ∃ t p, exec (.recallResend ring) s = .next t ∧ outstandingOf t o.tag = some p ∧ p.sentAt = s.clk ∧ t.fab.owners = s.fab.owners) ∧
  (∀ s src k, Claims.Delivered s src 0 tPUBLISH k →
    let i := field k.payload 0 4
    i < 793344 → ownState (ownEntry s i) = 1 → ownOwner (ownEntry s i) = src →
    ∃ t, exec (.publish src) s = .next t ∧ t.fab.closings = s.fab.closings ++ [⟨i, .part src k.tag, none⟩] ∧
      t.fab.owners = s.fab.owners) ∧
  (∀ s i c, s.fab.closings.filter (fun c => c.region == i) = [c] → stagedIn s i = false → ownState (ownEntry s i) = 1 →
    ∃ t, exec (.writeWindowClose i) s = .next t ∧ t.fab.closings.all (fun c => c.region != i) = true ∧
      Claims.Entry s t i (mkOwn 1 (match c.owner with | some o => o.toNat | none => ownOwner (ownEntry s i)) (ownCached (ownEntry s i)) false))

/-- Every byte of the cache's metadata is zero, and nothing else in HBM has changed. -/
def Claims.CacheEmptied (s t : State) : Prop :=
  t.hbm = { s.hbm with mem := t.hbm.mem, marks := t.hbm.marks } ∧
  ∀ c, c ∈ t.hbm.mem ↔ c ∈ s.hbm.mem ∧ metaSet t (c.1 / 256) = none

/-- R262, R265, R266, R270, R272: a CREAD of a SHARED-READ region is served and marks it cached, one that meets a recall is
answered busy; `FRLC` places and empties the cache; a window is committed from its buffered word. -/
def Obligations.RemoteLineCache : Prop :=
  (∀ s src k, Claims.Served s src 0x20 k .cread (lineOff k) 128 → packetSpace k = 0 →
    let i := lineOff k / 2 ^ 21
    let e := ownEntry s i
    ownAllows e (isOwner s (.remote src) (ownOwner e)) .cread = some true → recalling s i = false →
    let b := committedBytes s (lineOff k) 128
    ∃ t, exec (.cread src) s = .next t ∧ Claims.Answered t k tRDATA (fun q => q.payload = b ∧ q.e2e = e2eOf b) ∧
      Claims.Entry s t i (mkOwn (ownState e) (ownOwner e) true (ownOpen e)) ∧ t.hbm.mem = s.hbm.mem) ∧
  (∀ s src k, Claims.Served s src 0x20 k .cread (lineOff k) 128 → packetSpace k = 0 → recalling s (lineOff k / 2 ^ 21) = true →
    ∃ t, exec (.cread src) s = .next t ∧ Claims.Answered t k tSTATUS (fun q => field q.payload 0 2 = 0x040C) ∧
      t.fab.busy = satInc s.fab.busy ∧ t.fab.owners = s.fab.owners) ∧
  (∀ s host v, Claims.Primary s host → launchRunning s = false → bits v.toNat 10 0 ≤ 1535 →
    ∃ t, exec (.frlcWrite host v) s = .next t ∧ t.fab.rlcRegion = BitVec.ofNat 11 v.toNat ∧
      t.fab.rlcSize = BitVec.ofNat 2 (bits v.toNat 12 11) ∧ Claims.CacheEmptied s t ∧
      t = { s with fab := { s.fab with rlcRegion := t.fab.rlcRegion, rlcSize := t.fab.rlcSize }, hbm := t.hbm }) ∧
  (∀ s host, Claims.Primary s host → launchRunning s = false → s.fab.rlcRegion.toNat ≤ 1535 →
    ∃ t, exec (.frlcFlush host) s = .next t ∧ Claims.CacheEmptied s t ∧ t = { s with hbm := t.hbm }) ∧
  (∀ s host n v, Claims.Primary s host → n < 64 → bits (tget s.fab.cwLo n 0).toNat 19 0 + bits v.toNat 19 0 ≤ 786432 →
    let lo := (tget s.fab.cwLo n 0).toNat
    ∃ t, exec (.fcwhiWrite host n v) s = .next t ∧
      tget t.fab.windows n {} = ⟨BitVec.ofNat 20 lo, BitVec.ofNat 12 (bits lo 31 20), BitVec.ofNat 20 (bits v.toNat 19 0), bit v.toNat 31⟩ ∧
      (∀ m, m ≠ n → tget t.fab.windows m {} = tget s.fab.windows m {}) ∧
      t = { s with fab := { s.fab with windows := t.fab.windows } })

/-! ### Reduction engine (chapter 10) -/

/-- R274 to R280: an accepted DECLARE leaves the bucket DECLARED with its record and members, ARM leaves it ARMED for its step
with an empty sum, or holds the step after a firing, RELEASE frees it. A job that is locked refuses DECLARE and RELEASE. -/
def Obligations.BucketDescriptors : Prop :=
  (∀ s ring d raw v l w ms, Claims.Runs s ring d 0x10 0 → s.job.locked = false → hbmRun s (opndAddr d 16) 256 256 = true →
    ringRead (beginDesc s ring d) ring (addrOff (opndAddr d 16)) 256 = .ok raw v → bucketFieldsOk raw = true →
    (s.bucket (bucketNum d)).phase ≠ .armed → (s.bucket (bucketNum d)).phase ≠ .fired →
    let r := readBucket raw
    isOwn s r.mlist = true → addrSpace r.mlist = 0 → rangeOk 0 (addrOff r.mlist) (2 * r.nmem) = true →
    ringRead v ring (addrOff r.mlist) (2 * r.nmem) = .ok l w → readMembers l r.nmem = some ms →
    bucketOk s { r with members := ms } = true →
    ∃ t, exec (.bucketDeclare ring) s = .next t ∧ Claims.Done t ring d 0 ∧
      t.bucket (bucketNum d) = { phase := .declared, record := { r with members := ms } } ∧
      (∀ b, b ≠ bucketNum d → t.bucket b = s.bucket b) ∧ t.tiles = w.tiles) ∧
  (∀ s ring d, Claims.Runs s ring d 0x10 1 →
    let x := s.bucket (bucketNum d)
    let st : W32 := BitVec.ofNat 32 (opnd d 12 4)
    x.phase = .declared ∨ x.phase = .closed ∧ st = x.step + 1 → runsReady s [digestRun x.record st] = true →
    ∃ t, exec (.bucketArm ring) s = .next t ∧ Claims.Done t ring d 0 ∧ (t.bucket (bucketNum d)).phase = .armed ∧
      (t.bucket (bucketNum d)).step = st ∧ (t.bucket (bucketNum d)).acc = [] ∧ (t.bucket (bucketNum d)).onTime = [] ∧
      (t.bucket (bucketNum d)).record = x.record ∧ (t.bucket (bucketNum d)).sweepOpen = decide (x.phase = .closed)) ∧
  (∀ s ring d, Claims.Runs s ring d 0x10 1 → (s.bucket (bucketNum d)).phase = .fired →
    BitVec.ofNat 32 (opnd d 12 4) = (s.bucket (bucketNum d)).step + 1 →
    ∃ t, exec (.bucketArm ring) s = .next t ∧ Claims.Done t ring d 0 ∧
      t.bucket (bucketNum d) = { s.bucket (bucketNum d) with heldArm := true } ∧ t.hbm = s.hbm) ∧
  (∀ s ring d, Claims.Runs s ring d 0x10 2 → s.job.locked = false → (s.bucket (bucketNum d)).phase ≠ .fired →
    ∃ t, exec (.bucketRelease ring) s = .next t ∧ Claims.Done t ring d 0 ∧ (t.bucket (bucketNum d)).phase = .free ∧
      (∀ b, b ≠ bucketNum d → t.bucket b = s.bucket b) ∧ t.hbm = s.hbm) ∧
  (∀ s ring d, Claims.Runs s ring d 0x10 0 → s.job.locked = true →
    ∃ t, exec (.bucketDeclare ring) s = .next t ∧ Claims.Done t ring d 0x0C01 ∧ t.red = s.red)

/-- R280, R284 to R287, R290, R291, R295: a firing takes `QPACKS` off its watch counter; a contribution line is counted with
its owner, a stray one only counted as stray; a complete contribution is folded into the step's sum; a step that closes
counts `DCTR` once. -/
def Obligations.BucketSteps : Prop :=
  (∀ s b, b < 256 → (s.bucket b).phase = .armed → watchReached s (s.bucket b).record = true → (s.bucket b).again = 0 →
    (ownShard s (s.bucket b).record).isSome = true → runsReady s (fireRuns s (s.bucket b)) = true →
    let r := (s.bucket b).record
    (∀ e, e ∈ s.red.sends → ¬(e.tile = r.wtile ∧ e.ctr = r.wctr.toNat)) →
    ∃ t, exec (.bucketFire b) s = .next t ∧ (t.bucket b).phase = .fired ∧ (t.bucket b).ready = s.ns ∧ (t.bucket b).firedAt = s.clk ∧
      (t.bucket b).step = (s.bucket b).step ∧
      (r.sctr ≠ r.wctr → t.counter r.wtile r.wctr.toNat = s.counter r.wtile r.wctr.toNat - BitVec.ofNat 32 r.qpacks)) ∧
  (∀ s src k b j tt, firstDelivered s src 2 = some (k, false) → k.typ = tRED → b = k.addr.toNat % 256 → k.aux = 1 →
    let x := s.bucket b
    let i := bits k.addr.toNat 31 8
    lineStep x (bits k.addr.toNat 51 32) = some tt → x.record.owners.findIdx? (· == k.src.toNat) = some j →
    x.phase ≠ .free → x.phase ≠ .declared → verify k.payload k.e2e ≠ .mismatch → x.record.ring_ = false →
    (ownShard s x.record).isSome = true → closeDue s x = false → stepOpen x tt = true → i < 2 * x.record.share →
    (tt, j) ∉ x.taken → runsReady s [(contributionAt x.record tt j + 128 * i, 128), memberRun x.record tt src] = true →
    ∃ t, exec (.red src) s = .next t ∧ landedOf (t.bucket b) tt j = landedOf x tt j + 1 ∧ (t.bucket b).acc = x.acc ∧
      t.red.stray = s.red.stray ∧ (rxOf t src 2).delivered = (rxOf s src 2).delivered.tail) ∧
  (∀ s src k, firstDelivered s src 2 = some (k, false) → k.typ = tRED → (s.bucket (k.addr.toNat % 256)).phase = .free →
    ∃ t, exec (.red src) s = .next t ∧ t.red = { s.red with stray := satInc s.red.stray } ∧ t.hbm = s.hbm) ∧
  (∀ s b c v, b < 256 → (s.bucket b).phase = .fired → (s.bucket b).complete.find? (fun c => foldable (s.bucket b) c.1) = some c →
    c.1 = (s.bucket b).step → runsReady s (foldRuns (s.bucket b) c) = true →
    let u := s.setBucket b { s.bucket b with complete := (s.bucket b).complete.filter (· != c) }
    (sgValues u b false (s.bucket b).record.share (contributionAt (s.bucket b).record c.1 c.2.1)).1 = .ok v →
    ∃ t, exec (.contributionFold b c.2.1) s = .next t ∧ (t.bucket b).acc = foldSums (s.bucket b).acc 0 v.1 ∧
      c.2.1 ∈ (t.bucket b).onTime ∧ (c.1, c.2.1) ∈ (t.bucket b).taken ∧ c ∉ (t.bucket b).complete ∧ t.tiles = s.tiles) ∧
  (∀ s b, b < 256 → closeDue s (s.bucket b) = true → (s.bucket b).heldArm = false → runsReady s (scatterRuns (s.bucket b)) = true →
    let r := (s.bucket b).record
    ∃ t, exec (.scatterClose b) s = .next t ∧ (t.bucket b).phase = .closed ∧ (t.bucket b).step = (s.bucket b).step ∧
      (t.bucket b).sweepBits = [] ∧ (t.bucket b).sweepOpen = false ∧
      t.counter r.wtile r.dctr.toNat = s.counter r.wtile r.dctr.toNat + 1) ∧
  (∀ s b k v, b < 256 → hopReady (s.bucket b) (shardHop s (s.bucket b).record k) = true →
    shardHop s (s.bucket b).record k + 1 < (s.bucket b).record.owners.length →
    runsReady s (hopRuns s (s.bucket b) (shardHop s (s.bucket b).record k)) = true →
    (takeHop s b (shardHop s (s.bucket b).record k)).1 = .ok v →
    ∃ t, exec (.ringHop b k) s = .next t ∧ shardHop s (s.bucket b).record k ∈ (t.bucket b).hops ∧ (t.bucket b).phase = .fired) ∧
  (∀ s b v, b < 256 → 1 < (s.bucket b).record.owners.length → hopReady (s.bucket b) ((s.bucket b).record.owners.length - 1) = true →
    (takeHop s b ((s.bucket b).record.owners.length - 1)).1 = .ok v → (s.bucket b).heldArm = false →
    runsReady s (ringRuns s (s.bucket b)) = true →
    let r := (s.bucket b).record
    ∃ t, exec (.ringClose b) s = .next t ∧ (t.bucket b).phase = .closed ∧
      (t.bucket b).onTime = List.range r.owners.length ∧
      t.counter r.wtile r.dctr.toNat = s.counter r.wtile r.dctr.toNat + 1) ∧
  (∀ s b h, b < 256 → (s.bucket b).phase = .fired → (s.bucket b).record.ring_ = true →
    1 ≤ h → h < (s.bucket b).record.owners.length → h ∉ (s.bucket b).hops →
    landedOf (s.bucket b) (s.bucket b).step h < partialLines (s.bucket b).record →
    (s.bucket b).firedAt + s.red.ringTo.toNat * 1200 ≤ s.clk → (s.bucket b).heldArm = false → runsReady s (endRuns (s.bucket b)) = true →
    ∃ t, exec (.ringTimeout b) s = .next t ∧ (t.bucket b).phase = .closed ∧ (t.bucket b).onTime = (s.bucket b).onTime) ∧
  (∀ s b, b < 256 → (s.bucket b).phase = .closed → (ownShard s (s.bucket b).record).isSome = true → (s.bucket b).record.pushLen ≠ 0 →
    pushReached s (s.bucket b).record = true → inPitch s (s.bucket b).record.hostRing = false →
    runsReady s [(addrOff (s.bucket b).record.pushSrc, (s.bucket b).record.pushLen), digestRun (s.bucket b).record (s.bucket b).step] = true →
    let r := (s.bucket b).record
    ∃ t, exec (.pushFire b) s = .next t ∧ (t.bucket b).phase = .closed ∧
      t.counter r.wtile r.pctr.toNat = s.counter r.wtile r.pctr.toNat - BitVec.ofNat 32 (r.pushLen / 256)) ∧
  (∀ s b, b < 256 → (s.bucket b).phase = .armed → ownPushed s (s.bucket b).record = true →
    (∀ j, j < (s.bucket b).record.owners.length → pushLines (s.bucket b) j = (s.bucket b).record.pushLen / 128) →
    s.cmd.stages = [] → (s.bucket b).heldArm = false → runsReady s (endRuns (s.bucket b)) = true →
    let r := (s.bucket b).record
    ∃ t, exec (.pushedClose b) s = .next t ∧ (t.bucket b).phase = .closed ∧
      t.counter r.wtile r.dctr.toNat = s.counter r.wtile r.dctr.toNat + 1)

/-! ### Ring pairs and their descriptors (chapter 12) -/

/-- Of the whole part only one ring pair changed. -/
def Claims.OnlyRing (ring : Nat) (s t : State) : Prop :=
  t = { s with cmd := { s.cmd with rings := t.cmd.rings } } ∧ ∀ r, r ≠ ring → t.ring r = s.ring r

/-- The ring pair's descriptor under way of a kind. -/
def Claims.Running (s : State) (ring : Nat) (d : Desc) (run : DescRun) : Prop :=
  ring < 32 ∧ d.run = run ∧ d.phase = .running ∧
  ((s.ring ring).descs.filter (fun x => x.phase == .running)) = [d] ∧ descOf s ring d.index = some d

/-- R334 to R339, R333, R348: NOP completes at once, SIGNAL adds its count to one counter of this part or sends it to
another's, and inside a pitch with `DEFER` does neither before the pitch is sealed; TIMED, FENCE and WAIT complete when what
they wait for has come and are under way until then; a WAIT whose time is up stops its ring pair; a reserved opcode is
refused. -/
def Obligations.RingDescriptors : Prop :=
  (∀ s ring d, Claims.Runs s ring d 0x00 0 →
    ∃ t, exec (.descriptorNop ring) s = .next t ∧ Claims.Done t ring d 0 ∧ Claims.OnlyRing ring s t) ∧
  (∀ s ring d, Claims.Runs s ring d 0x05 0 → isOwn s (sigTarget (opndAddr d 8)) = true →
    ∃ t, exec (.signal ring) s = .next t ∧ Claims.Done t ring d 0 ∧ t.hbm = s.hbm ∧ t.fab = s.fab ∧
      (∀ x, (t.tile x).mem = (s.tile x).mem ∧ (t.tile x).threads = (s.tile x).threads) ∧
      ∀ x k, t.counter x k = if x = addrTile (sigTarget (opndAddr d 8)) ∧ k = opnd d 16 1
        then s.counter x k + BitVec.ofNat 32 (opnd d 20 4) else s.counter x k) ∧
  (∀ s ring d, Claims.Runs s ring d 0x05 0 → isOwn s (sigTarget (opndAddr d 8)) = false → opnd d 20 4 ≠ 0 →
    let dst := addrDev (sigTarget (opndAddr d 8))
    ∃ t cv e, exec (.signal ring) s = .next t ∧ Claims.Under t ring d (.cover cv false s.clk) ∧ t.tiles = s.tiles ∧
      (txOf t dst 0).unacked = (txOf s dst 0).unacked ++ [e] ∧ e.packet.typ = tSIGNAL ∧
      e.packet.aux = BitVec.ofNat 8 (opnd d 16 1) ∧ field e.packet.payload 0 4 = opnd d 20 4) ∧
  (∀ s ring d, ring < 32 → nextDesc s ring = some d → descOpc d = 0x05 → checkDesc s ring d = 0 → inPitch s ring = true →
    (s.ring ring).pitch.log.length < 4096 → opnd d 24 1 % 2 = 1 →
    ∃ t, exec (.signal ring) s = .next t ∧ Claims.Done t ring d 0 ∧ Claims.OnlyRing ring s t ∧
      (t.ring ring).deferred = (s.ring ring).deferred ++ [d]) ∧
  (∀ s ring d, ring < 32 → nextDesc s ring = some d → descOpc d = 0x05 → checkDesc s ring d ≠ 0 → inPitch s ring = false →
    ∃ t, exec (.signal ring) s = .next t ∧ Claims.Done t ring d (checkDesc s ring d) ∧ t.tiles = s.tiles ∧ t.fab = s.fab) ∧
  (∀ s ring d, Claims.Runs s ring d 0x06 0 →
    ∃ t, exec (.timed ring) s = .next t ∧ t.tiles = s.tiles ∧ t.fab = s.fab ∧
      (if s.ns < opnd d 8 8 then Claims.Under t ring d .timed
       else if opnd d 16 1 = 1 ∧ timeLocked s = false then Claims.Done t ring d 0x0901 ∧ (t.ring ring).phase = .stopped
       else Claims.Done t ring d 0 ∧ Claims.OnlyRing ring s t)) ∧
  (∀ s ring d, Claims.Running s ring d .timed → opnd d 8 8 ≤ s.ns → (opnd d 16 1 ≠ 1 ∨ timeLocked s = true) →
    ∃ t, exec (.timedRelease ring) s = .next t ∧ Claims.Done t ring d 0 ∧ Claims.OnlyRing ring s t) ∧
  (∀ s ring d, Claims.Running s ring d .timed → s.ns < opnd d 8 8 → exec (.timedRelease ring) s = .next s) ∧
  (∀ s ring d, Claims.Runs s ring d 0x03 0 →
    ∃ t, exec (.fenceDescriptor ring) s = .next t ∧ Claims.OnlyRing ring s t ∧
      (if opnd d 8 1 = 1 ∨ covered s (s.ring ring).sent = true then Claims.Done t ring d 0
       else Claims.Under t ring d (.fence s.clk (s.ring ring).sent))) ∧
  (∀ s ring d, Claims.Runs s ring d 0x04 0 →
    ∃ t, exec (.wait ring) s = .next t ∧ Claims.OnlyRing ring s t ∧
      (if opnd d 16 1 = 0 ∧ (waitCounter s d).1 = true then Claims.Done t ring d 0
       else ∃ v, Claims.Under t ring d (.wait s.clk s.clk v))) ∧
  (∀ s ring d start next v w p, Claims.Running s ring d (.wait start next v) → opnd d 16 1 = 0 →
    ∃ t, exec (.waitPoll ring w p) s = .next t ∧ Claims.OnlyRing ring s t ∧
      (if (waitCounter s d).1 = true then Claims.Done t ring d 0 else t = s)) ∧
  (∀ s ring d start next v b u w p, Claims.Running s ring d (.wait start next v) → opnd d 16 1 ≠ 0 → next ≤ s.clk →
    addrSpace (opndAddr d 8) = 0 → isOwn s (opndAddr d 8) = true → ringRead s ring (addrOff (opndAddr d 8)) 8 = .ok b u →
    let x : W64 := BitVec.ofNat 64 (leNat b)
    ∃ t, exec (.waitPoll ring w p) s = .next t ∧ t.tiles = u.tiles ∧ t.hbm = u.hbm ∧
      (if waitHolds d x = true then Claims.Done t ring d 0
       else Claims.Under t ring d (.wait start (s.clk + s.cmd.watch.toNat * 1200) x))) ∧
  (∀ s ring d start next v, Claims.Running s ring d (.wait start next v) → opnd d 32 4 ≠ 0 → start + opnd d 32 4 * 1200 ≤ s.clk →
    (opnd d 16 1 = 0 → (waitCounter s d).1 = false) → (s.ring ring).phase = .active →
    ∃ t, exec (.waitTimeout ring) s = .next t ∧ Claims.Done t ring d 0x060F ∧ (t.ring ring).phase = .stopped ∧ t.tiles = s.tiles) ∧
  (∀ s ring d, ring < 32 → nextDesc s ring = some d → descOpc d ∉ opcodes → inPitch s ring = false →
    ∃ t, exec (.descriptorReservedOpcode ring) s = .next t ∧ Claims.Done t ring d 0x0601 ∧ t.tiles = s.tiles ∧ t.fab = s.fab ∧
      ∀ r, r ≠ ring → t.ring r = s.ring r)

/-- R325 to R331, R464, R474: a poll takes the tails that lie within their rings and stops a ring pair whose tail does not; a
fetch accepts descriptors whose sequence numbers follow on; a completed descriptor's record is written and leaves the ring;
`RCTL` enables, disables and restarts; a failed host read stops a fetching ring pair or ends the descriptor. -/
def Obligations.RingPolls : Prop :=
  (∀ s host block, host < 2 → activeRings s host ≠ [] → tget s.cmd.polled host 0 ≤ s.clk → s.log.halted = false →
    ∃ t, exec (.doorbellPoll host block) s = .next t ∧ t.tiles = s.tiles ∧ t.fab = s.fab ∧
      tget t.cmd.polled host 0 = s.clk + s.cmd.watch.toNat * 1200 ∧
      ∀ r, if r / 16 = host ∧ (s.ring r).phase = .active then
          (let tail : W32 := BitVec.ofNat 32 (field block (4 * (r % 16)) 4)
           t.ring r = if (tail - (s.ring r).head).toNat ≤ (s.ring r).size.toNat then { s.ring r with tail := tail }
             else { s.ring r with phase := .stopped })
        else t.ring r = s.ring r) ∧
  (∀ s ring raw n, ring < 32 → (s.ring ring).phase = .active → s.log.halted = false →
    ((s.ring ring).tail - (s.ring ring).head).toNat = n → 0 < n → n ≤ 64 →
    (∀ k, k < n → BitVec.ofNat 32 (field raw (64 * k + 4) 4) = (s.ring ring).next + BitVec.ofNat 32 k) →
    ∃ t, exec (.descriptorFetch ring raw) s = .next t ∧ (∀ r, r ≠ ring → t.ring r = s.ring r) ∧ t.tiles = s.tiles ∧ t.hbm = s.hbm ∧
      t.ring ring = { s.ring ring with
        head := (s.ring ring).tail
        next := (s.ring ring).next + BitVec.ofNat 32 n
        descs := (s.ring ring).descs ++ (List.range n).map (fun k =>
          { index := ((s.ring ring).head + BitVec.ofNat 32 k).toNat, raw := slice raw (64 * k) 64 }) }) ∧
  (∀ s ring raw, ring < 32 → (s.ring ring).phase = .active → s.log.halted = false → (s.ring ring).tail = (s.ring ring).head + 1 →
    BitVec.ofNat 32 (field raw 4 4) ≠ (s.ring ring).next →
    ∃ t, exec (.descriptorFetch ring raw) s = .next t ∧ (t.ring ring).descs = (s.ring ring).descs ∧ (t.ring ring).next = (s.ring ring).next ∧
      (if ((s.ring ring).next - BitVec.ofNat 32 (field raw 4 4)).toNat ≤ 2 ^ 31
       then (t.ring ring).head = (s.ring ring).head + 1 ∧ (t.ring ring).phase = .active
       else (t.ring ring).head = (s.ring ring).head ∧ (t.ring ring).phase = .stopped)) ∧
  (∀ s ring d rest, ring < 32 → (s.ring ring).descs = d :: rest → (s.ring ring).phase ≠ .disabled → d.phase = .done →
    (d.inPitch = true → d.sealed = true) →
    ∃ t, exec (.completionRecordWrite ring) s = .next t ∧ t.ring ring = { s.ring ring with descs := rest } ∧
      .hostWrite (ring / 16) ((s.ring ring).cbase + BitVec.ofNat 64 (32 * (d.index % max (s.ring ring).size.toNat 1))) (completionBytes d)
        false false ∈ t.out ∧ (∀ r, r ≠ ring → t.ring r = s.ring r) ∧ t.tiles = s.tiles ∧ t.hbm = s.hbm) ∧
  (∀ s host ring v, host < 2 → ring < 32 → (s.hport host).up = true → (host = ring / 16 ∨ host = b2n s.host.primary) →
    (s.ring ring).phase = .disabled → bit v.toNat 0 = true → s.log.halted = false →
    ∃ t, exec (.rctlEnWrite host ring v) s = .next t ∧ t.tiles = s.tiles ∧ t.hbm = s.hbm ∧
      t.ring ring = { s.ring ring with vec := some (BitVec.ofNat 8 (bits v.toNat 15 8)), phase := .active, head := 0, tail := 0 }) ∧
  (∀ s host ring v, host < 2 → ring < 32 → (s.hport host).up = true → (host = ring / 16 ∨ host = b2n s.host.primary) →
    (s.ring ring).phase ≠ .disabled → (s.ring ring).pitch.phase = .none → bit v.toNat 0 = false →
    ∃ t, exec (.rctlEnWrite host ring v) s = .next t ∧ (t.ring ring).phase = .disabled ∧ (t.ring ring).descs = [] ∧
      ∀ l, l ∈ t.cmd.launches → l.ring = ring → l.finished = false → l.stopped = true) ∧
  (∀ s host ring, host < 2 → ring < 32 → (s.hport host).up = true → (host = ring / 16 ∨ host = b2n s.host.primary) →
    ∃ t, exec (.rctlRestart host ring) s = .next t ∧ Claims.OnlyRing ring s t ∧
      (t.ring ring).phase = (if (s.ring ring).phase = .stopped ∧ s.log.halted = false then .active else (s.ring ring).phase) ∧
      (t.ring ring).descs = (s.ring ring).descs) ∧
  (∀ s ring, ring < 32 → (s.ring ring).phase = .active → (s.ring ring).tail ≠ (s.ring ring).head →
    ∃ t, exec (.hostReadFailure (.fetch ring)) s = .next t ∧ (t.ring ring).phase = .stopped ∧ (t.ring ring).descs = (s.ring ring).descs ∧
      t.tiles = s.tiles) ∧
  (∀ s ring d start next v, Claims.Running s ring d (.wait start next v) → hostSpace (opndAddr d 8) = true → inPitch s ring = false →
    ∃ t, exec (.hostReadFailure (.descriptor ring)) s = .next t ∧ Claims.Done t ring d 0x0B03 ∧ t.tiles = s.tiles) ∧
  (∀ s ring d, Claims.Runs s ring d 0x02 0 → runningCopy s ring = none → opnd d 24 8 = 0 → opnd d 32 8 ≠ 0 →
    isOwn s (sigTarget (opndAddr d 32)) = true → (s.ring ring).descs = [d] →
    ∃ t, exec (.copy ring []) s = .next t ∧ Claims.Done t ring d 0 ∧ t.hbm = s.hbm ∧ (∀ x, (t.tile x).mem = (s.tile x).mem) ∧
      ∀ x k, t.counter x k = if x = addrTile (sigTarget (opndAddr d 32)) ∧ k = opnd d 40 1
        then s.counter x k + BitVec.ofNat 32 (opnd d 44 4) else s.counter x k) ∧
  (∀ s ring d, Claims.Runs s ring d 0x02 0 → runningCopy s ring = none → inPitch s ring = false →
    (∀ x, x ∈ (s.ring ring).descs → x.phase ≠ .running) → s.hbm.marks = [] → s.cmd.redirects = [] → Mem.wf zeroByte s.hbm.mem = true →
    let src := opndAddr d 8
    let dst := opndAddr d 16
    let n := opnd d 24 8
    n ≠ 0 → isOwn s src = true → addrSpace src = 0 → isOwn s dst = true → addrSpace dst = 0 → addrOff dst % 128 + n ≤ 128 →
    opnd d 32 8 = 0 → copyReady s src n = true → copyReady s dst n = true →
    refusal s (.ring ring) .read none 0 (addrOff src) n = 0 → refusal s (.ring ring) .write none 0 (addrOff dst) n = 0 →
    let a := physKey s (addrOff dst)
    ∃ t, exec (.copy ring []) s = .next t ∧ Claims.Done t ring d 0 ∧ memRead zeroByte t.hbm.mem a n = committedBytes s (addrOff src) n ∧
      (∀ x, x < a ∨ a + n ≤ x → memByte zeroByte t.hbm.mem x = memByte zeroByte s.hbm.mem x) ∧ t.tiles = s.tiles) ∧
  (∀ s ring d, Claims.Runs s ring d 0x02 0 → runningCopy s ring = none → inPitch s ring = false → s.log.ringUp = false →
    let src := opndAddr d 8
    let n := opnd d 24 8
    n ≠ 0 → isOwn s src = true → addrSpace src ≤ 1 → copyReady s src n = true → copyReady s (opndAddr d 16) n = true →
    addrOff (opndAddr d 16) % 128 + n ≤ 128 → refusal s (.ring ring) .read none (addrSpace src) (addrOff src) n ≠ 0 →
    ∃ t, exec (.copy ring []) s = .next t ∧ t.hbm = s.hbm ∧ t.tiles = s.tiles ∧
      Claims.Done t ring d (refusal s (.ring ring) .read none (addrSpace src) (addrOff src) n))

/-! ### The job (chapter 11) -/

/-- Only the log and what a record touches, and the ring pair, changed. -/
def Claims.OnlyRingAndLog (ring : Nat) (s t : State) : Prop :=
  OnlyLog { s with cmd := { s.cmd with rings := t.cmd.rings } } t ∧ ∀ r, r ≠ ring → t.ring r = s.ring r

/-- R304 to R311, R457: a lock takes the record's values, its configuration's digest and a new epoch, and extends MR8; an
unlock returns them to zero; a locked job refuses a lock and a pipe's declaration. A pipe's declaration zeroes its counters;
a produced pack goes out as two lines and each pair of landed lines counts one arrival; credits go back as one SIGNAL. -/
def Obligations.JobLockAndPipes : Prop :=
  (∀ s ring d b v cfg w, Claims.Runs s ring d 0x38 0 → s.job.locked = false → hbmRun s (opndAddr d 16) 256 256 = true →
    ringRead (beginDesc s ring d) ring (addrOff (opndAddr d 16)) 256 = .ok b v → jobRecordOk b = true → s.fab.devValid = true →
    holdsPrepared s = false →
    let a : W64 := BitVec.ofNat 64 (field b 24 8)
    hbmRun s a 256 (field b 32 4) = true → ringRead v ring (addrOff a) (field b 32 4) = .ok cfg w →
    ∃ t, exec (.jobLockLock ring) s = .next t ∧ Claims.Done t ring d 0 ∧ t.job.locked = true ∧
      t.job.jepoch = BitVec.ofNat 64 (field b 16 8) ∧ t.job.digest = BitVec.ofNat 128 (leNat ((sm3 cfg).take 16)) ∧
      t.job.role = BitVec.ofNat 8 (field b 5 1) ∧ t.job.nstage = BitVec.ofNat 16 (field b 2 2) ∧
      t.job.vstages = BitVec.ofNat 8 (field b 4 1) ∧ t.job.pidx = BitVec.ofNat 16 (field b 6 2) ∧
      t.job.pcount = BitVec.ofNat 16 (field b 8 2) ∧ t.job.pipes = s.job.pipes ∧ t.job.pace = s.job.pace ∧
      Claims.CacheEmptied w t ∧ t.fab.tx = [] ∧ t.fab.rx = [] ∧ t.tiles = w.tiles ∧
      t.sec.mr = s.sec.mr.set 8 (sm3 (s.sec.mr.getD 8 (zeros 32) ++ sm3 (leBytes 8 (field b 16 8) ++ (sm3 cfg).take 16)))) ∧
  (∀ s ring d, Claims.Runs s ring d 0x38 0 → s.job.locked = true →
    ∃ t, exec (.jobLockLock ring) s = .next t ∧ Claims.Done t ring d 0x0C01 ∧ Claims.OnlyRingAndLog ring s t) ∧
  (∀ s ring d, Claims.Runs s ring d 0x38 1 → s.job.locked = true → launchRunning s = false → anyPitch s = false → holdsPrepared s = false →
    ∃ t, exec (.jobLockUnlock ring) s = .next t ∧ Claims.Done t ring d 0 ∧
      t.job = { s.job with locked := false, jepoch := 0, digest := 0 } ∧ Claims.CacheEmptied s t ∧ t.tiles = s.tiles ∧
      t.sec.mr = s.sec.mr.set 8 (sm3 (s.sec.mr.getD 8 (zeros 32) ++ sm3 (zeros 24)))) ∧
  (∀ s ring d, Claims.Runs s ring d 0x38 1 → s.job.locked = true → launchRunning s = true →
    ∃ t, exec (.jobLockUnlock ring) s = .next t ∧ Claims.Done t ring d 0x0C02 ∧ Claims.OnlyRingAndLog ring s t) ∧
  (∀ s ring d b v, Claims.Runs s ring d 0x11 0 → s.job.locked = false → hbmRun s (opndAddr d 16) 256 256 = true →
    ringRead (beginDesc s ring d) ring (addrOff (opndAddr d 16)) 256 = .ok b v → pipeOk v b = true →
    tget? v.job.pipes (pipeNum d) = none →
    let p := readPipe b
    p.slots ≠ 0 →
    ∃ t, exec (.pipeDeclare ring) s = .next t ∧ Claims.Done t ring d 0 ∧ tget? t.job.pipes (pipeNum d) = some p ∧
      (∀ n, n ≠ pipeNum d → tget? t.job.pipes n = tget? v.job.pipes n) ∧ t.hbm = v.hbm ∧
      ∀ x k, t.counter x k = if x = p.ctile ∧ (k = p.c1.toNat ∨ k = p.c2.toNat) then 0 else v.counter x k) ∧
  (∀ s ring d, Claims.Runs s ring d 0x11 1 → s.job.locked = false →
    ∃ t, exec (.pipeRemove ring) s = .next t ∧ Claims.Done t ring d 0 ∧ tget? t.job.pipes (pipeNum d) = none ∧
      (∀ n, n ≠ pipeNum d → tget? t.job.pipes n = tget? s.job.pipes n) ∧ t.hbm = s.hbm ∧ t.tiles = s.tiles) ∧
  (∀ s pipe p, pipe < 256 → tget? s.job.pipes pipe = some p → p.receiving = false → p.fold2 = none → produced s p p.k = true →
    (p.k - s.counter p.ctile p.c2.toNat).toNat < p.slots → refusal s .agent .read none (addrSpace p.area) (pipeSlot p p.k) 256 = 0 →
    unitReady s (addrSpace p.area) (pipeSlot p p.k) 256 = true →
    let m := memRead' s ((ringView s p.ring).map (localKey s)) (addrSpace p.area) (pipeSlot p p.k) 256 false
    (m.2.1 = .good ∨ m.2.1 = .poison) →
    ∃ t e f, exec (.pipePackSend pipe) s = .next t ∧
      (txOf t p.peer 3).unacked = (txOf m.2.2 p.peer 3).unacked ++ [e, f] ∧
      e.packet.typ = tPIPE ∧ e.packet.payload = slice m.1 0 128 ∧ f.packet.typ = tPIPE ∧ f.packet.payload = slice m.1 128 128 ∧
      tget? t.job.pipes pipe = some { p with
        k := p.k + 1, fold := if inPitch m.2.2 p.ring then foldPack p.fold m.1 else p.fold } ∧ t.tiles = m.2.2.tiles) ∧
  (∀ s src k p, Claims.Delivered s src 3 tPIPE k → tget? s.job.pipes (k.addr.toNat % 256) = some p → p.receiving = true →
    let j : W32 := BitVec.ofNat 32 (bits k.addr.toNat 40 9)
    let half := bit k.addr.toNat 8
    let off := pipeSlot p j + 128 * b2n half
    let sp := addrSpace p.area
    refusal s (.remote k.src.toNat) .write none sp off 128 = 0 → unitReady s sp off 128 = true → verify k.payload k.e2e = .good →
    k.payload.length = 128 → off % 256 + 128 ≤ 256 → sp ≤ 1 → Mem.wf zeroByte s.hbm.mem = true → s.hbm.marks = [] → s.cmd.redirects = [] →
    Mem.wf zeroByte (s.tile (off / 2 ^ 24)).mem = true →
    ∃ t, exec (.pipe src) s = .next t ∧ (rxOf t src 3).delivered = (rxOf s src 3).delivered.tail ∧
      (if sp = 1 then t.hbm = s.hbm ∧ memRead zeroByte (t.tile (off / 2 ^ 24)).mem (off % 2 ^ 24) 128 = k.payload
       else memRead zeroByte t.hbm.mem (physKey s off) 128 = k.payload ∧ ∀ x, (t.tile x).mem = (s.tile x).mem) ∧
      ∀ x n, t.counter x n = if p.halves.contains (j, !half) = true ∧ x = p.ctile ∧ n = p.c1.toNat then s.counter x n + 1 else s.counter x n) ∧
  (∀ s src k, Claims.Delivered s src 3 tPIPE k → tget? s.job.pipes (k.addr.toNat % 256) = none →
    ∃ t, exec (.pipe src) s = .next t ∧ tget t.fab.drops 6 0 = satInc (tget s.fab.drops 6 0) ∧ t.tiles = s.tiles ∧ t.job = s.job) ∧
  (∀ s pipe p, pipe < 256 → tget? s.job.pipes pipe = some p → p.receiving = true → (s.ring p.ring).pitch.phase = .none → p.peer < 4096 →
    p.peerTile < 1152 →
    let n := s.counter p.ctile p.c2.toNat
    n ≠ p.credited →
    ∃ t e, exec (.pipeCreditReturn pipe) s = .next t ∧ tget? t.job.pipes pipe = some { p with credited := n } ∧ t.tiles = s.tiles ∧
      e ∈ (txOf t p.peer 0).unacked ∧ e.packet.typ = tSIGNAL ∧ e.packet.aux = p.peerCtr ∧
      field e.packet.payload 0 4 = (n - p.credited).toNat)

/-- A message of the pace exchange has arrived for this part's group. -/
def Claims.PaceArrived (s : State) (port : Nat) (k : Packet) (kind : Nat) : Prop :=
  Claims.Arrived s port k (mgmtMine kind s) ∧ field k.payload 0 1 = kind ∧ paceMessage s k = true

/-- R314, R315: an accepted GATHER starts at its first entry; an entry's lines are asked for from another part, or land at
once from this part's memory with their counts. R319 to R323: a pace record sets the group; members report to the collector,
the collector tells them the smallest pace, and silence returns the pace to 64. -/
def Obligations.GathersAndPace : Prop :=
  (∀ s ring d h v b w, Claims.Runs s ring d 0x12 0 → hbmRun s (opndAddr d 16) 256 32 = true →
    ringRead (beginDesc s ring d) ring (addrOff (opndAddr d 16)) 32 = .ok h v →
    let n := gatherCount h
    n ≤ 65536 → allZero h 4 28 = true → hbmRun s (opndAddr d 16) 256 (32 + 32 * n) = true →
    ringRead v ring (addrOff (opndAddr d 16)) (32 + 32 * n) = .ok b w →
    (List.range n).all (gatherFormOk b) = true → (List.range n).all (gatherAddrOk w b) = true →
    (List.range n).all (gatherSpaceOk w b) = true → gatherCount b ≠ 0 →
    (∀ x, x ∈ (s.ring ring).descs → x.phase ≠ .running) →
    ∃ t, exec (.gather ring) s = .next t ∧ Claims.Under t ring d (.gather b 0 0 0 0) ∧ t.hbm = w.hbm ∧ t.tiles = w.tiles) ∧
  (∀ s ring d b next left f, Claims.Running s ring d (.gather b next 0 left f) → next < gatherCount b →
    let e := gatherEntry b next
    entryReady s e = true → (s.ring ring).pitch.phase ≠ .stopping → e.npack = 1 → isOwn s e.src = false →
    agentCount s (gatherDie s e.dst) + 2 ≤ 4096 →
    ∃ t o1 o2, exec (.gatherEntryIssue ring) s = .next t ∧ Claims.Under t ring d (.gather b (next + 1) 0 (left + 2) f) ∧
      t.fab.outstanding = s.fab.outstanding ++ [o1, o2] ∧ o1.packet.typ = tREAD ∧ o2.packet.typ = tREAD ∧
      o1.use_ = .gatherLine (gatherDie s e.dst) ring next 0 ∧ o2.use_ = .gatherLine (gatherDie s e.dst) ring next 1 ∧
      o1.packet.addr = packetAddr e.src ∧ o2.packet.addr = packetAddr (e.src + 128) ∧ t.tiles = s.tiles) ∧
  (∀ s ring d b next left f, Claims.Running s ring d (.gather b next 0 left f) → next < gatherCount b →
    let e := gatherEntry b next
    let dt := addrTile e.dst
    let lo := addrOff e.dst % 2 ^ 24
    entryReady s e = true → inPitch s ring = false → (s.ring ring).pitch.phase = .none → e.npack = 1 → isOwn s e.src = true →
    isOwn s e.dst = true → addrSpace e.src = 0 → addrSpace e.dst = 1 → e.src.toNat % 256 = 0 → e.dst.toNat % 256 = 0 →
    addrOff e.dst / 2 ^ 24 = dt → s.hbm.marks = [] → s.cmd.redirects = [] → Mem.wf zeroByte (s.tile dt).mem = true →
    (∀ i, i < 2 → refusal s (.ring ring) .read none 0 (addrOff e.src + 128 * i) 128 = 0 ∧
      refusal s (.ring ring) .write none 1 (addrOff e.dst + 128 * i) 128 = 0 ∧
      unitReady s 0 (addrOff e.src + 128 * i) 128 = true ∧ unitReady s 1 (addrOff e.dst + 128 * i) 128 = true) →
    ∃ t, exec (.gatherEntryIssue ring) s = .next t ∧ memRead zeroByte (t.tile dt).mem lo 256 = committedBytes s (addrOff e.src) 256 ∧
      (∀ a, a < lo ∨ lo + 256 ≤ a → memByte zeroByte (t.tile dt).mem a = memByte zeroByte (s.tile dt).mem a) ∧
      (∀ x, x ≠ dt → t.tile x = s.tile x) ∧
      (∀ k, t.counter dt k = if e.dcen = true ∧ k = e.dctr.toNat then s.counter dt k + 2 else s.counter dt k) ∧
      (if next + 1 = gatherCount b ∧ left = 0 then Claims.Done t ring d f.toNat else Claims.Under t ring d (.gather b (next + 1) 0 left f))) ∧
  (∀ s ring d b v, Claims.Runs s ring d 0x22 0 → hbmRun s (opndAddr d 16) 256 256 = true →
    ringRead (beginDesc s ring d) ring (addrOff (opndAddr d 16)) 256 = .ok b v → paceRecordOk b = true →
    (field b 1 1 = 0 ∨ collects v (readGroup v b []) = false) →
    ∃ t, exec (.pace ring) s = .next t ∧ Claims.Done t ring d 0 ∧
      t.job = { v.job with pace := if field b 1 1 = 0 then {} else readGroup v b [] } ∧ t.tiles = v.tiles) ∧
  (∀ s ring d b v l w, Claims.Runs s ring d 0x22 0 → hbmRun s (opndAddr d 16) 256 256 = true →
    ringRead (beginDesc s ring d) ring (addrOff (opndAddr d 16)) 256 = .ok b v → paceRecordOk b = true → field b 1 1 ≠ 0 →
    collects v (readGroup v b []) = true →
    let n := field b 8 2
    0 < n → n ≤ 1024 → hbmRun s (BitVec.ofNat 64 (field b 16 8)) 1 (2 * n) = true →
    ringRead v ring (addrOff (BitVec.ofNat 64 (field b 16 8))) (2 * n) = .ok l w →
    (∀ i, i < n → field l (2 * i) 2 < 4096) →
    ∃ t, exec (.pace ring) s = .next t ∧ Claims.Done t ring d 0 ∧
      t.job.pace = readGroup w b ((List.range n).map (fun i => field l (2 * i) 2))) ∧
  (∀ s, s.job.pace.mode ≠ 0 → reportedPace s ≠ s.job.pace.reported → collects s s.job.pace = false →
    usablePaths s (s.job.pace.collector % 4096) true ≠ [] →
    ∃ t, exec .paceReportSend s = .next t ∧ t.job.pace = { s.job.pace with reported := reportedPace s, reportAt := s.clk } ∧
      Claims.Queued t (fun k => k.typ = tMGMT ∧ k.dst = BitVec.ofNat 12 s.job.pace.collector ∧ field k.payload 0 1 = 1 ∧
        field k.payload 1 1 = reportedPace s ∧ field k.payload 2 4 = s.job.pace.group.toNat)) ∧
  (∀ s, collects s s.job.pace = true → groupPaceOf s s.job.pace ≠ s.job.pace.sentPace →
    ∃ t, exec .groupPaceSend s = .next t ∧ t.job.pace.sentPace = groupPaceOf s s.job.pace ∧ t.job.pace.sentAt = s.clk ∧
      t.job.pace.reports = s.job.pace.reports ∧
      (ownDev s ∈ s.job.pace.members → t.job.pace.groupPace = groupPaceOf s s.job.pace) ∧
      ∀ m, m ∈ s.job.pace.members → m ≠ ownDev s → m < 4096 → usablePaths s m true ≠ [] →
        Claims.Queued t (fun k => k.typ = tMGMT ∧ k.dst = BitVec.ofNat 12 m ∧ field k.payload 0 1 = 2 ∧
          field k.payload 1 1 = groupPaceOf s s.job.pace % 256)) ∧
  (∀ s port k, Claims.PaceArrived s port k 1 → collects s s.job.pace = true →
    let told := addReport s s.job.pace.reports k.src.toNat (field k.payload 1 1)
    ∃ t, exec (.mgmtPaceReport port) s = .next t ∧
      t.job.pace = { s.job.pace with reports := if s.job.pace.members.contains k.src.toNat then told else s.job.pace.reports } ∧
      (t.port port).arrived = removeOnce k (s.port port).arrived ∧ t.hbm = s.hbm ∧ t.tiles = s.tiles) ∧
  (∀ s port k, Claims.PaceArrived s port k 2 → k.src.toNat = s.job.pace.collector →
    ∃ t, exec (.mgmtGroupPace port) s = .next t ∧ t.job.pace.groupPace = field k.payload 1 1 ∧ t.job.pace.lastAny = s.clk ∧
      t.job.pace.lost = false ∧ t.job.pace.members = s.job.pace.members ∧
      (t.port port).arrived = removeOnce k (s.port port).arrived ∧ t.hbm = s.hbm ∧ t.tiles = s.tiles) ∧
  (∀ s, s.job.pace.mode ≠ 0 → s.job.pace.groupPace < 64 → s.job.pace.lastBelow + 360000 ≤ s.clk →
    exec .groupPaceTimeout s = .next { s with job := { s.job with pace := { s.job.pace with groupPace := 64 } } }) ∧
  (∀ s, s.job.pace.mode ≠ 0 → s.job.pace.lost = false → s.job.pace.lastAny + 3600000 ≤ s.clk →
    ∃ t, exec .paceLostTimeout s = .next t ∧ OnlyLog { s with job := t.job } t ∧
      t.job = { s.job with pace := { s.job.pace with groupPace := 64, lost := true } })

/-! ### Pitches (chapter 12) -/

/-- Every piece that the stage held is what committed memory now reads there (R342, R345). -/
def Claims.Committed (g : Stage) (t : State) : Prop :=
  ∀ n b, n < 2 ^ 40 → tget? g.pieces n = some b → committedPiece t n = b

/-- R340, R348, R351 to R358: PITCH_OPEN opens a pitch under its number; BELAY commits its stage at once when no other part
takes part, and asks the participants first when some do; one refusal, or silence, fails the pitch and stops its ring pair;
its completion seals the descriptors and applies what was deferred. An abort or a fault drops the stage; a replayable fault
starts the next attempt, up to three replays. -/
def Obligations.PitchAttempts : Prop :=
  (∀ s ring d, Claims.Runs s ring d 0x08 0 → BitVec.ofNat 32 (opnd d 16 4) ∉ s.cmd.storms → levelCode s ring (opndAddr d 24) = 0 →
    let off := addrOff (opndAddr d 24)
    unitReady s 0 off 8 = true → s.cmd.redirects = [] → s.hbm.marks = [] → Mem.wf zeroByte s.hbm.mem = true →
    ∃ t, exec (.pitchOpen ring) s = .next t ∧ Claims.Done t ring d 0 ∧ (t.ring ring).pitch = { openedPitch d with lmap := t.pwr.lmap } ∧
      t.cmd.step = BitVec.ofNat 32 (opnd d 16 4) ∧
      t.cmd.falls = (if s.cmd.step = BitVec.ofNat 32 (opnd d 16 4) then s.cmd.falls else 0) ∧
      (∀ x, memByte zeroByte t.hbm.mem x = if physKey s off ≤ x ∧ x < physKey s off + 8 then 0 else memByte zeroByte s.hbm.mem x)) ∧
  (∀ s ring d, Claims.Runs s ring d 0x08 0 → BitVec.ofNat 32 (opnd d 16 4) ∈ s.cmd.storms →
    ∃ t, exec (.pitchOpen ring) s = .next t ∧ Claims.Done t ring d 0x0104 ∧ (t.ring ring).pitch.phase = .none ∧ t.tiles = s.tiles) ∧
  (∀ s ring d, Claims.Runs s ring d 0x09 0 → runningBelay s ring = none → (s.ring ring).pitch.phase = .open →
    let p := (s.ring ring).pitch
    covered s p.sent = true → attemptBusy s ring = false → p.step ∉ s.cmd.storms → mustFall p = false → p.participants = [] →
    s.cmd.decisions.length < 1024 → captureHolds s ring = false → (∀ g, stageOf s (localKey s ring) = some g → g.bad = []) →
    ∃ t, exec (.belay ring) s = .next t ∧ Claims.Under t ring d .belay ∧ (t.ring ring).pitch.phase = .committing ∧
      stageOf t (localKey s ring) = none ∧ t.hbm = s.hbm ∧ ∀ g, stageOf s (localKey s ring) = some g → Claims.Committed g t) ∧
  (∀ s ring d, Claims.Runs s ring d 0x09 0 → runningBelay s ring = none → (s.ring ring).pitch.phase = .open →
    let p := (s.ring ring).pitch
    covered s p.sent = true → attemptBusy s ring = false → p.step ∉ s.cmd.storms → mustFall p = false → p.participants ≠ [] →
    ∃ t, exec (.belay ring) s = .next t ∧ Claims.Under t ring d .belay ∧ (t.ring ring).pitch.phase = .preparing ∧
      (t.ring ring).pitch.awaiting = p.participants ∧ t.tiles = s.tiles ∧ t.cmd.stages = s.cmd.stages ∧
      ∀ dev, dev ∈ p.participants → ∃ o, o ∈ t.fab.outstanding ∧ o.use_ = .sprep ring dev ∧ o.packet.typ = tSPREP ∧
        o.packet.dst = BitVec.ofNat 12 dev ∧ o.packet.pitch = p.id) ∧
  (∀ s port k ring dev, Claims.Arrived s port k (prepareAnswer s) → tagUse s k = some (.sprep ring dev) →
    let p := (s.ring ring).pitch
    p.phase = .preparing → p.covering = false → p.awaiting = [dev] → p.answers = [] → field k.payload 0 2 = 0 →
    s.cmd.decisions.length < 1024 → captureHolds s ring = false → p.participants ≠ [] →
    ∃ t, exec (.sprepAnswer port) s = .next t ∧ (t.ring ring).pitch.phase = .committing ∧
      (t.ring ring).pitch.awaiting = p.participants ∧ stageOf t (localKey s ring) = none ∧
      (∀ g, stageOf s (localKey s ring) = some g → Claims.Committed g t) ∧
      { no := s.cmd.nextDecision, ring := ring, pitch := p.id, waiting := p.participants } ∈ t.cmd.decisions) ∧
  (∀ s port k ring dev, Claims.Arrived s port k (prepareAnswer s) → tagUse s k = some (.sprep ring dev) →
    let p := (s.ring ring).pitch
    p.phase = .preparing → p.covering = false → p.awaiting = [dev] → field k.payload 0 2 ≠ 0 → (s.ring ring).phase = .active →
    ∃ t, exec (.sprepAnswer port) s = .next t ∧ (t.ring ring).pitch.phase = .none ∧ (t.ring ring).phase = .stopped ∧
      stageOf t (localKey s ring) = none ∧ t.cmd.redirects = s.cmd.redirects) ∧
  (∀ s ring, ring < 32 →
    let p := (s.ring ring).pitch
    p.phase = .preparing → p.covering = false → p.awaiting ≠ [] → p.since + s.fab.fenceTo.toNat * 1200 ≤ s.clk →
    (s.ring ring).phase = .active →
    ∃ t, exec (.belayPrepareTimeout ring) s = .next t ∧ (t.ring ring).pitch.phase = .none ∧ (t.ring ring).phase = .stopped ∧
      stageOf t (localKey s ring) = none ∧ t.cmd.redirects = s.cmd.redirects) ∧
  (∀ s ring d, Claims.Running s ring d .belay → (s.ring ring).phase = .active →
    let p := (s.ring ring).pitch
    p.phase = .committing → p.awaiting = [] → (s.ring ring).deferred = [] →
    runsReady s ((turningSets s ring).map (fun x => roleRun x.2)) = true →
    ∃ t, exec (.belayComplete ring) s = .next t ∧ Claims.Done t ring d 0 ∧ (t.ring ring).pitch.phase = .none ∧ t.tiles = s.tiles ∧
      (t.ring ring).phase = .active ∧ ∀ x, x ∈ (t.ring ring).descs → x.inPitch = true → x.sealed = true) ∧
  (∀ s ring d x, Claims.Running s ring d .belay → (s.ring ring).phase = .active → (s.ring ring).pitch.phase = .committing →
    (s.ring ring).pitch.awaiting = [] → (s.ring ring).deferred = [x] → x.index ≠ d.index → descOpc x = 0x05 →
    isOwn s (sigTarget (opndAddr x 8)) = true → runsReady s ((turningSets s ring).map (fun x => roleRun x.2)) = true →
    ∃ t, exec (.belayComplete ring) s = .next t ∧ Claims.Done t ring d 0 ∧ (t.ring ring).deferred = [] ∧
      ∀ y k, t.counter y k = if y = addrTile (sigTarget (opndAddr x 8)) ∧ k = opnd x 16 1
        then s.counter y k + BitVec.ofNat 32 (opnd x 20 4) else s.counter y k) ∧
  (∀ s ring d, Claims.Runs s ring d 0x0A 0 → (s.ring ring).pitch.phase = .open →
    ∃ t, exec (.pitchAbort ring) s = .next t ∧ Claims.Under t ring d .stopping ∧ (t.ring ring).pitch.phase = .stopping ∧
      (t.ring ring).pitch.aborting = true ∧ t.hbm = s.hbm ∧
      ∀ l, l ∈ t.cmd.launches → l.ring = ring → l.finished = false → l.stopped = true) ∧
  (∀ s ring, ring < 32 → (s.ring ring).pitch.phase = .stopping → (∀ l, l ∈ s.cmd.launches → l.ring = ring → l.finished = true) →
    (s.ring ring).pitch.falling = false → attemptBusy s ring = false →
    let p := (s.ring ring).pitch
    ∃ t, exec (.pitchStopComplete ring) s = .next t ∧ stageOf t (localKey s ring) = none ∧ t.cmd.redirects = s.cmd.redirects ∧
      (t.ring ring).deferred = [] ∧ (t.ring ring).pitch.nfCount = 0 ∧ (t.ring ring).pitch.satCount = 0 ∧
      (if p.aborting = true then (t.ring ring).pitch.phase = .none ∧ (t.ring ring).phase = (s.ring ring).phase
       else if p.replays = true ∧ p.attempt < 3 then
         (t.ring ring).pitch.phase = .open ∧ (t.ring ring).pitch.attempt = p.attempt + 1 ∧
         ∀ x, x ∈ (t.ring ring).descs → ofPitch x = true → descOpc x ≠ 0x08 → x.phase = .accepted
       else (t.ring ring).pitch.phase = .none ∧ ((s.ring ring).phase = .active → (t.ring ring).phase = .stopped) ∧
         (t.ring ring).pitch.fault = (if p.replays = true then 0x0603 else p.fault)))

/-- R346, R347, R349, R350, R360: a participant prepares, commits or discards the stage that a source names, and answers; a
key it does not know is answered with FLT_STAGE_LOST. A source answers queries from its decision records and repeats its
commit to a silent participant. A stage left PREPARED is queried, falls in doubt, and is resolved by `RSRGO`. A committed
block goes home. -/
def Obligations.StagesOfOthers : Prop :=
  (∀ s src k, Claims.Delivered s src 0 tSPREP k → usablePaths s src false ≠ [] → src < 4096 →
    ∃ t, exec (.sprep src) s = .next t ∧ t.tiles = s.tiles ∧
      (match stageOf s (belayKey k) with
       | none => Claims.Answered t k tSTATUS (fun q => field q.payload 0 2 = 0x0609) ∧ t.cmd = s.cmd
       | some g =>
         if g.prepared = true then Claims.Answered t k tSTATUS (fun q => field q.payload 0 2 = 0) ∧ t.cmd = s.cmd
         else if g.refused = true then
           Claims.Answered t k tSTATUS (fun q => field q.payload 0 2 = 0x0604) ∧ stageOf t (belayKey k) = none
         else Claims.Answered t k tSTATUS (fun q => field q.payload 0 2 = 0) ∧
           stageOf t (belayKey k) = some { g with prepared := true, preparedAt := s.clk, queryAt := s.clk })) ∧
  (∀ s src k g, Claims.Delivered s src 0 tSCOMMIT k → usablePaths s src false ≠ [] → src < 4096 → stageOf s (belayKey k) = some g →
    g.prepared = true → g.bad = [] →
    ∃ t, exec (.scommit src) s = .next t ∧ Claims.Answered t k tSTATUS (fun q => field q.payload 0 2 = 0) ∧
      stageOf t (belayKey k) = none ∧ belayKey k ∈ t.cmd.committed ∧ Claims.Committed g t ∧ t.hbm = s.hbm) ∧
  (∀ s src k, Claims.Delivered s src 0 tSCOMMIT k → usablePaths s src false ≠ [] → src < 4096 →
    (∀ g, stageOf s (belayKey k) = some g → g.prepared = false) →
    ∃ t, exec (.scommit src) s = .next t ∧ t.cmd = s.cmd ∧ t.tiles = s.tiles ∧
      Claims.Answered t k tSTATUS (fun q => field q.payload 0 2 = if belayKey k ∈ s.cmd.committed then 0 else 0x0609)) ∧
  (∀ s src k, Claims.Delivered s src 0 tSDISCARD k →
    ∃ t, exec (.sdiscard src) s = .next t ∧ stageOf t (belayKey k) = none ∧ t.hbm = s.hbm ∧ t.tiles = s.tiles ∧
      t.cmd.redirects = s.cmd.redirects ∧ (rxOf t src 0).delivered = (rxOf s src 0).delivered.tail) ∧
  (∀ s src k, Claims.Delivered s src 0 tSQUERY k → usablePaths s src false ≠ [] → src < 4096 →
    ∃ t, exec (.squery src) s = .next t ∧ t.cmd = s.cmd ∧ t.tiles = s.tiles ∧
      Claims.Answered t k tSTATUS (fun q => field q.payload 0 2 =
        if ∃ x, x ∈ s.cmd.decisions ∧ x.ring = k.ring.toNat ∧ x.pitch = k.pitch then 0 else 0x060A)) ∧
  (∀ s i g, s.cmd.stages[i]? = some g → stageOf s (g.src, g.ring, g.pitch) = some g → g.prepared = true → g.src ≠ 0xFFF → queryDue s g = true →
    ∃ t x o, exec (.inDoubtQuery i) s = .next t ∧ stageOf t (g.src, g.ring, g.pitch) = some x ∧ x.asking = true ∧ x.prepared = true ∧
      x.pieces = g.pieces ∧ x.queryAt = s.clk ∧ x.queries = (if g.asking = true then g.queries + 1 else 0) ∧
      x.inDoubt = (g.inDoubt || decide (g.asking = true ∧ 3 ≤ g.queries + 1)) ∧
      o ∈ t.fab.outstanding ∧ o.use_ = .squery g.src g.ring g.pitch.toNat ∧ o.packet.typ = tSQUERY) ∧
  (∀ s tag o, outstandingOf s tag = some o → sentAfresh s o = true → o.sentAt + 240000 ≤ s.clk →
    ∃ t p, exec (.stagePacketResend tag) s = .next t ∧ outstandingOf t tag = some p ∧ p.sentAt = s.clk ∧ p.use_ = o.use_ ∧
      p.packet.typ = o.packet.typ ∧ t.cmd = s.cmd ∧ t.tiles = s.tiles) ∧
  (∀ s no dev x, s.cmd.decisions.find? (fun x => x.no == no) = some x → x.again = true → dev ∈ x.waiting →
    tget x.sentAt dev 0 + 120000000 ≤ s.clk → dev < 4096 →
    ∃ t o, exec (.scommitResend no dev) s = .next t ∧ o ∈ t.fab.outstanding ∧ o.use_ = .scommit no dev ∧ o.packet.typ = tSCOMMIT ∧
      o.packet.pitch = x.pitch ∧ t.tiles = s.tiles ∧ t.cmd.stages = s.cmd.stages) ∧
  (∀ s i r n b, s.cmd.redirects[i]? = some r → r.pieces = [(n, b)] → n / 256 = r.granule → r.granule < 2 ^ 32 → b.length = 256 →
    (∀ k q, s.cmd.redirects[k]? = some q → k ≠ i → q.granule ≠ r.granule) → unitReady s 0 (256 * n) 256 = true →
    Mem.wf zeroByte s.hbm.mem = true →
    let a := granuleOf s (256 * n) * 256
    ∃ t, exec (.stageBlockCopyHome i) s = .next t ∧ t.cmd.redirects = s.cmd.redirects.eraseIdx i ∧ memRead zeroByte t.hbm.mem a 256 = b ∧
      (∀ x, x < a ∨ a + 256 ≤ x → memByte zeroByte t.hbm.mem x = memByte zeroByte s.hbm.mem x) ∧ t.tiles = s.tiles) ∧
  (∀ s host g, Claims.Primary s host → stageOf s (resolveKey s) = some g → g.prepared = true → g.bad = [] →
    ∃ t, exec (.rsrgoCommit host) s = .next t ∧ stageOf t (resolveKey s) = none ∧ resolveKey s ∈ t.cmd.committed ∧
      Claims.Committed g t ∧ t.hbm = s.hbm) ∧
  (∀ s host g, Claims.Primary s host → stageOf s (resolveKey s) = some g → g.prepared = true →
    ∃ t, exec (.rsrgoDiscard host) s = .next t ∧ stageOf t (resolveKey s) = none ∧ t.hbm = s.hbm ∧ t.tiles = s.tiles ∧
      t.cmd.redirects = s.cmd.redirects) ∧
  (∀ s host, Claims.Primary s host → (∀ g, stageOf s (resolveKey s) = some g → g.prepared = false) →
    ∃ t u, exec (.rsrgoCommit host) s = .next t ∧ exec (.rsrgoDiscard host) s = .next u ∧ OnlyLog s t ∧ OnlyLog s u)

/-! ### Bivouac (chapter 13) -/

/-- The 256-byte record that a descriptor names reads as `b`. -/
def Claims.Reads (s : State) (ring : Nat) (d : Desc) (align : Nat) (b : Bytes) (v : State) : Prop :=
  hbmRun s (opndAddr d 16) align 256 = true ∧ ringRead (beginDesc s ring d) ring (addrOff (opndAddr d 16)) 256 = .ok b v

/-- Every other set is as before. -/
def Claims.OtherSets (s t : State) (n : Nat) : Prop := ∀ m, m ≠ n → t.snapSet m = s.snapSet m

/-- The image that a set drains can be read now, and every check of it holds. -/
def Claims.ImageReads (s : State) (k : SnapSet) : Prop :=
  runsReady s (imageRuns k k.frozen) = true ∧ runsRefusal s .read (imageRuns k k.frozen) = none ∧
  (readRuns s (imageRuns k k.frozen)).2.1 = true

/-- R363 to R369, R372, R373, R376 to R378: DECLARE makes a set READY with its role word at read 0, write 1; TAKE freezes a READY set
under its next number and a capture and drain follow; commands of a drain zero, write and flush their places on the drives; a
second failure ends the drives' part of it, silence the partner's; the last drain makes the set READY and applies the TAKE's
signal; RELEASE frees a set and DISCARD zeroes a slot's manifests. -/
def Obligations.SnapshotSets : Prop :=
  (∀ s ring d b v, Claims.Runs s ring d 0x18 0 → Claims.Reads s ring d 256 b v → declareOk v b = true → (readSet b).pcopy = false →
    runsReady v [roleRun (readSet b)] = true → bivouacCode v .write (addrOff (readSet b).roleWord) 8 = 0 → v.cmd.redirects = [] → Mem.wf zeroByte v.hbm.mem = true →
    let n := field b 1 1
    let k := readSet b
    ∃ t, exec (.snapshotDeclare ring) s = .next t ∧ Claims.Done t ring d 0 ∧ Claims.OtherSets v t n ∧
      (t.snapSet n).phase = (if k.recv = true then .recv else .ready) ∧ (t.snapSet n).rd = false ∧ (t.snapSet n).wr = true ∧
      (t.snapSet n).snapNo = 0 ∧ (t.snapSet n).roleStep = 0 ∧ (t.snapSet n).bindings = [] ∧ (t.snapSet n).extents = k.extents ∧
      (t.snapSet n).strm = k.strm ∧ memRead zeroByte t.hbm.mem (physKey v (addrOff k.roleWord)) 8 = [0, 1, 0, 0, 0, 0, 0, 0] ∧
      t.tiles = v.tiles) ∧
  (∀ s ring d b v, Claims.Runs s ring d 0x18 0 → Claims.Reads s ring d 256 b v → declareOk v b = false →
    ∃ t, exec (.snapshotDeclare ring) s = .next t ∧ Claims.Done t ring d 0x0706 ∧ t.snap = v.snap ∧ t.tiles = v.tiles) ∧
  (∀ s ring d b v, Claims.Runs s ring d 0x18 0 → Claims.Reads s ring d 256 b v → declareOk v b = true → (readSet b).pcopy = true →
    runsReady v [roleRun (readSet b)] = true → peerCard v (readSet b).partner = none → usablePaths v (readSet b).partner true ≠ [] →
    ∃ t, exec (.snapshotDeclare ring) s = .next t ∧ Claims.Under t ring d (.partner b) ∧ t.snap.sets = v.snap.sets ∧
      t.snap.queries = v.snap.queries ++ [⟨ring, d.index, (readSet b).partner, s.clk⟩] ∧
      Claims.Queued t (fun q => q.typ = tMGMT ∧ q.dst = BitVec.ofNat 12 (readSet b).partner ∧ field q.payload 0 1 = 3)) ∧
  (∀ s port k, Claims.Arrived s port k (mgmtMine 3 s) → field k.payload 0 1 = 3 →
    usablePaths s k.src.toNat true ≠ [] →
    ∃ t, exec (.mgmtPartnerQuery port) s = .next t ∧ t.snap = s.snap ∧
      Claims.Queued t (fun q => q.typ = tMGMT ∧ q.dst = k.src ∧ field q.payload 0 1 = 4 ∧ field q.payload 2 4 = s.sec.feed.toNat ∧
        field q.payload 6 4 = s.fab.domain.toNat)) ∧
  (∀ s port k q d b, Claims.Arrived s port k (mgmtMine 4 s) → field k.payload 0 1 = 4 → s.snap.queries = [q] →
    q.partner = k.src.toNat → descOf s q.ring q.index = some d → d.run = .partner b →
    runsReady s [roleRun (readSet b)] = true → bivouacCode s .write (addrOff (readSet b).roleWord) 8 = 0 →
    partnerCode s (field k.payload 2 4) (field k.payload 6 4) = 0 → declareOk s b = true →
    ∃ t, exec (.mgmtPartnerAnswer port) s = .next t ∧ Claims.Done t q.ring d 0 ∧ t.snap.queries = [] ∧
      (t.snapSet (field b 1 1)).phase = (if (readSet b).recv = true then .recv else .ready) ∧ Claims.OtherSets s t (field b 1 1)) ∧
  (∀ s port k q d b, Claims.Arrived s port k (mgmtMine 4 s) → field k.payload 0 1 = 4 → s.snap.queries = [q] →
    q.partner = k.src.toNat → descOf s q.ring q.index = some d → d.run = .partner b →
    runsReady s [roleRun (readSet b)] = true → partnerCode s (field k.payload 2 4) (field k.payload 6 4) ≠ 0 →
    ∃ t, exec (.mgmtPartnerAnswer port) s = .next t ∧ t.snap.queries = [] ∧ t.snap.sets = s.snap.sets ∧
      Claims.Done t q.ring d (partnerCode s (field k.payload 2 4) (field k.payload 6 4))) ∧
  (∀ s ring q d b, ring < 32 → s.snap.queries.find? (fun q => q.ring == ring) = some q → q.sentAt + 12000000 ≤ s.clk →
    descOf s ring q.index = some d → d.run = .partner b →
    ∃ t, exec (.partnerQueryTimeout ring) s = .next t ∧ Claims.Done t ring d 0x0706 ∧ q ∉ t.snap.queries ∧ t.snap.sets = s.snap.sets) ∧
  (∀ s ring d b v n, Claims.Runs s ring d 0x18 1 → Claims.Reads s ring d 1 b v → field b 2 1 < 4 → allZero b 3 5 = true →
    allZero b 17 3 = true → allZero b 24 232 = true → field b 8 8 = 0 → bitList (field b 0 2) 16 = [n] →
    runsReady v (snapRuns v 1 b) = true →
    let k := v.snapSet n
    ∃ t, exec (.snapshotTake ring) s = .next t ∧ Claims.Done t ring d 0 ∧ Claims.OtherSets v t n ∧
      (if takeSkips v k (bit (field b 2 1) 0) (bit (field b 2 1) 1) = true then t.snapSet n = k
       else (t.snapSet n).phase = .freezing ∧ (t.snapSet n).frozen = k.rd ∧ (t.snapSet n).snapNo = k.snapNo + 1 ∧
         (t.snapSet n).imgStep = k.roleStep ∧ (t.snapSet n).captured = false ∧ (t.snapSet n).drain.snapNo = k.snapNo ∧
         (t.snapSet n).drain.jepoch = v.job.jepoch ∧ (t.snapSet n).drain.digest = v.job.digest)) ∧
  (∀ s set, set < 16 → (s.snapSet set).phase = .freezing → (s.snapSet set).captured = false →
    let k := s.snapSet set
    runsReady s (captureRun k :: captureSources k) = true → captureRefusal s k = none →
    ∃ t x, exec (.captureComplete set) s = .next t ∧ Claims.OtherSets s t set ∧ t.tiles = s.tiles ∧
      t.snapSet set = { k with captured := true, drain := { k.drain with skewed := x } } ∧ (k.nstrm = 0 → x = 0 ∧ t.hbm = s.hbm)) ∧
  (∀ s set, set < 16 → (s.snapSet set).phase = .freezing → (s.snapSet set).captured = true → stageHolds s (s.snapSet set) = false →
    let k := s.snapSet set
    k.drain.pcopy = false →
    ∃ t, exec (.drainStart set) s = .next t ∧ (t.snapSet set).phase = .draining ∧ Claims.OtherSets s t set ∧ t.hbm = s.hbm ∧
      (k.drain.nvme = true → (t.snapSet set).drain.nvmeStep = 1 ∧ ∀ d, d ∈ drivesOf k → tget (t.snapSet set).drain.left d 0 = 2 ∧
        .nvme d 0x08 (BitVec.ofNat 64 (slotByte s k d k.drain.slot / lbaOf s d)) ((4096 + lbaOf s d - 1) / lbaOf s d) ∈ t.out)) ∧
  (∀ s set drive, set < 16 → drive < 4 → (s.snapSet set).phase = .draining →
    let k := s.snapSet set
    let a := slotByte s k drive k.drain.slot
    k.drain.nvme = true → k.drain.nvmeStep = 1 → tget k.drain.left drive 0 = 2 → Mem.wf zeroByte (tget s.snap.drives drive []) = true →
    ∃ t, exec (.nvmeCommandComplete set drive 0 []) s = .next t ∧ driveBytes t drive a 4096 = zeros 4096 ∧
      tget (t.snapSet set).drain.left drive 0 = 1 ∧ t.hbm = s.hbm ∧
      (∀ x, x < a ∨ a + 4096 ≤ x → memByte zeroByte (tget t.snap.drives drive []) x = memByte zeroByte (tget s.snap.drives drive []) x) ∧
      ∀ d, d ≠ drive → tget t.snap.drives d [] = tget s.snap.drives d []) ∧
  (∀ s set drive i j, set < 16 → drive < 4 → (s.snapSet set).phase = .draining →
    let k := s.snapSet set
    k.drain.nvme = true → k.drain.nvmeStep = 2 → (stripesOn k (drivePos k drive))[i]? = some j →
    tget k.drain.left drive 0 = (stepCmds s k drive 2).length - i → maxTransfer s drive (2 ^ 20) = 2 ^ 20 → Claims.ImageReads s k →
    Mem.wf zeroByte (tget s.snap.drives drive []) = true →
    ∃ t, exec (.nvmeCommandComplete set drive 0 []) s = .next t ∧
      driveBytes t drive (slotByte s k drive k.drain.slot + (8 + i) * 2 ^ 20) (2 ^ 20) = stripeOf (readRuns s (imageRuns k k.frozen)).1 j ∧
      ∀ d, d ≠ drive → tget t.snap.drives d [] = tget s.snap.drives d []) ∧
  (∀ s set drive i j a n z, set < 16 → drive < 4 → (s.snapSet set).phase = .draining →
    let k := s.snapSet set
    k.drain.nvme = true → k.drain.nvmeStep = 2 → (stepCmds s k drive 2)[i]? = some ⟨0x01, a, n, .stripe j, z⟩ →
    tget k.drain.left drive 0 = (stepCmds s k drive 2).length - i → Claims.ImageReads s k →
    Mem.wf zeroByte (tget s.snap.drives drive []) = true →
    ∃ t, exec (.nvmeCommandComplete set drive 0 []) s = .next t ∧ n ≤ maxTransfer s drive (2 ^ 20) ∧
      driveBytes t drive a n = slice (stripeOf (readRuns s (imageRuns k k.frozen)).1 j) z n ∧
      ∀ d, d ≠ drive → tget t.snap.drives d [] = tget s.snap.drives d []) ∧
  (∀ s set drive status, set < 16 → drive < 4 → (s.snapSet set).phase = .draining →
    let k := s.snapSet set
    k.drain.nvme = true → tget k.drain.left drive 0 ≠ 0 → status ≠ 0 →
    ∃ t, exec (.nvmeCommandComplete set drive status []) s = .next t ∧ t.snap.nerr = satInc s.snap.nerr ∧ t.snap.drives = s.snap.drives ∧
      (if tget k.drain.failed drive 0 = 0 then (t.snapSet set).drain.nvme = true ∧ tget (t.snapSet set).drain.failed drive 0 = 1 ∧
          (t.snapSet set).drain.left = k.drain.left
       else (t.snapSet set).drain.nvme = false)) ∧
  (∀ s set, set < 16 → (s.snapSet set).phase = .draining →
    let k := s.snapSet set
    k.drain.pcopy = true → covered s k.drain.cover = true →
    (k.drain.copyStep < 3 → Claims.ImageReads s k ∧ 1 ≤ k.drain.copyStep) →
    ∃ t, exec (.partnerCopyStep set) s = .next t ∧ (t.snapSet set).phase = .draining ∧
      (if k.drain.copyStep < 3 then (t.snapSet set).drain.copyStep = k.drain.copyStep + 1 ∧ (t.snapSet set).drain.pcopy = true
       else (t.snapSet set).drain.pcopy = false ∧ t.fab = s.fab)) ∧
  (∀ s set, set < 16 → (s.snapSet set).phase = .draining →
    let k := s.snapSet set
    k.drain.pcopy = true → covered s k.drain.cover = false →
    max k.drain.copyAt (txOf s k.partner 0).advance + s.fab.fenceTo.toNat * 1200 ≤ s.clk →
    ∃ t, exec (.partnerCopyTimeout set) s = .next t ∧ (t.snapSet set).drain.pcopy = false ∧ (t.snapSet set).phase = .draining ∧
      Claims.OtherSets s t set ∧ t.fab = s.fab) ∧
  (∀ s set, set < 16 → (s.snapSet set).phase = .draining →
    let k := s.snapSet set
    let sig := k.drain.signal
    let a := sigTarget (BitVec.ofNat 64 (field sig 0 8))
    k.drain.nvme = false → k.drain.pcopy = false → takeOpen (s.setSnap set { k with phase := .ready }) k.drain.take = false →
    field sig 0 8 ≠ 0 → isOwn s a = true →
    ∃ t, exec (.drainEnd set) s = .next t ∧ (t.snapSet set).phase = .ready ∧ Claims.OtherSets s t set ∧ t.hbm = s.hbm ∧
      ∀ x n, t.counter x n = if x = addrTile a ∧ n = field sig 8 1 then s.counter x n + BitVec.ofNat 32 (field sig 12 4) else s.counter x n) ∧
  (∀ s ring d b v, Claims.Runs s ring d 0x18 2 → Claims.Reads s ring d 1 b v → field b 0 1 < 16 → allZero b 1 255 = true →
    let n := field b 0 1
    ((v.snapSet n).phase = .ready ∨ (v.snapSet n).phase = .invalid ∨ (v.snapSet n).phase = .recv) →
    ∃ t, exec (.snapshotRelease ring) s = .next t ∧ Claims.Done t ring d 0 ∧ Claims.OtherSets v t n ∧
      t.snapSet n = { v.snapSet n with phase := .free, bindings := [] } ∧ t.hbm = v.hbm) ∧
  (∀ s ring d b v, Claims.Runs s ring d 0x18 3 → Claims.Reads s ring d 1 b v → field b 0 1 < 16 → allZero b 2 254 = true →
    let k := v.snapSet (field b 0 1)
    let slot := field b 1 1
    (k.phase = .ready ∨ k.phase = .invalid) → k.nvme = true → v.snap.en = true → slot < k.nslot →
    (∀ x, x ∈ drivesOf k → Mem.wf zeroByte (tget v.snap.drives x []) = true) →
    ∃ t, exec (.snapshotDiscard ring) s = .next t ∧ Claims.Done t ring d 0 ∧ t.snap.sets = v.snap.sets ∧
      ∀ x, x ∈ drivesOf k → driveBytes t x (slotByte v k x slot) 4096 = zeros 4096)

/-- R370, R371, R373, R379 to R383: CURSOR sets cursors and binds streams; LOAD writes back the newest valid image and makes
the set READY one number on, or refuses; PROMOTE turns a standby part's received images into its own state; `SNCTL` and the
drives' start-up give the root port its links and drives. -/
def Obligations.CursorsAndRestores : Prop :=
  (∀ s ring d h v b w, Claims.Runs s ring d 0x1A 0 → hbmRun s (opndAddr d 16) 16 16 = true →
    ringRead (beginDesc s ring d) ring (addrOff (opndAddr d 16)) 16 = .ok h v →
    let n := field h 0 2
    n ≤ 64 → allZero h 2 14 = true → hbmRun s (opndAddr d 16) 16 (16 + 16 * n) = true →
    ringRead v ring (addrOff (opndAddr d 16)) (16 + 16 * n) = .ok b w → field b 0 2 = n →
    (∀ i, i < n → field b (16 + 16 * i) 1 < 64 ∧ allZero b (17 + 16 * i) 7 = true) →
    ∃ t, exec (.cursorSet ring) s = .next t ∧ Claims.Done t ring d 0 ∧ t.snap.sets = w.snap.sets ∧ t.hbm = w.hbm ∧
      (∀ i, i < n → (∀ j, i < j → j < n → field b (16 + 16 * j) 1 ≠ field b (16 + 16 * i) 1) →
        cursorPos t (field b (16 + 16 * i) 1) = BitVec.ofNat 64 (field b (24 + 16 * i) 8)) ∧
      ∀ c, (∀ i, i < n → field b (16 + 16 * i) 1 ≠ c) → cursorPos t c = cursorPos w c) ∧
  (∀ s ring d h v b w, Claims.Runs s ring d 0x1A 1 → hbmRun s (opndAddr d 16) 16 16 = true →
    ringRead (beginDesc s ring d) ring (addrOff (opndAddr d 16)) 16 = .ok h v →
    let n := field h 0 2
    n ≤ 256 → allZero h 3 13 = true → hbmRun s (opndAddr d 16) 16 (16 + 16 * n) = true →
    ringRead v ring (addrOff (opndAddr d 16)) (16 + 16 * n) = .ok b w → field b 0 2 = n →
    let k := w.snapSet (field b 2 1)
    let l := (List.range n).map (readBinding b)
    field b 2 1 < 16 → k.phase ≠ .free → bindingsApart l = true →
    (∀ x, x ∈ l → x.table < k.nstrm ∧ x.cur < 64 ∧ 1 ≤ x.ntile ∧ x.tile0 + x.ntile ≤ 1152 ∧ x.stream0 + x.nstream ≤ 256) →
    ∃ t, exec (.cursorBind ring) s = .next t ∧ Claims.Done t ring d 0 ∧ Claims.OtherSets w t (field b 2 1) ∧
      t.snapSet (field b 2 1) = { k with bindings := l } ∧ t.snap.cursors = w.snap.cursors) ∧
  (∀ s ring d b v j m list, Claims.Runs s ring d 0x19 0 → Claims.Reads s ring d 1 b v → field b 0 1 < 16 → field b 2 1 < 2 →
    allZero b 3 253 = true → v.job.locked = true → launchRunning v = false → anyPitch v = false → v.snap.en = true →
    let n := field b 0 1
    let k := v.snapSet n
    let slots := loadSlots k (field b 1 1)
    (k.phase = .ready ∨ k.phase = .invalid) → (field b 1 1 = 0xFF ∨ field b 1 1 < k.nslot) → runsReady v (loadRuns k) = true →
    runsRefusal v .write (loadRuns k) = none →
    (∀ x, x ∈ slots → slotTorn v k x = false) → newestImage v k slots = some (j, m) → manifestFits v n k m (bit (field b 2 1) 0) = true →
    loadList v k j (slice m 72 32) = some list → (goodStripes k list (loadStripe v k j)).length = setStripes k →
    let cap := slice (goodStripes k list (loadStripe v k j)).flatten 0 (setLc k)
    (v.snap.policy = false ∨ skewed k cap = []) →
    ∃ t, exec (.restoreLoad ring) s = .next t ∧ Claims.Done t ring d 0 ∧ Claims.OtherSets v t n ∧ (t.snapSet n).phase = .ready ∧
      (t.snapSet n).rd = false ∧ (t.snapSet n).wr = true ∧ (t.snapSet n).snapNo = BitVec.ofNat 32 (field m 4 4 + 1) ∧
      (t.snapSet n).roleStep = BitVec.ofNat 32 (field m 8 4) ∧ (t.snapSet n).jepoch = BitVec.ofNat 64 (field m 16 8) ∧
      (∀ c, c < 64 → cursorPos t c = BitVec.ofNat 64 (field (realign k cap) (16 * c) 8)) ∧
      t.snap.skew = BitVec.ofNat 16 (min (skewed k cap).length 65535) ∧ t.snap.drives = v.snap.drives ∧ t.tiles = v.tiles) ∧
  (∀ s ring d b v, Claims.Runs s ring d 0x19 0 → Claims.Reads s ring d 1 b v → (v.job.locked = false ∨ launchRunning v = true ∨ v.snap.en = false) →
    ∃ t, exec (.restoreLoad ring) s = .next t ∧ Claims.Done t ring d 0x0706 ∧ t.snap = v.snap ∧ t.tiles = v.tiles) ∧
  (∀ s ring d b v n x, Claims.Runs s ring d 0x19 1 → Claims.Reads s ring d 1 b v → allZero b 2 2 = true → allZero b 8 248 = true →
    bitList (field b 0 2) 16 = [n] → runsReady v (promoteRuns (v.snapSet n)) = true → promoteCheck v [n] (field b 4 4) = 0 →
    let u := readManifests v [n]
    promoteBuffer u (u.snapSet n) (field b 4 4) = some x → promoteRefusal u (u.snapSet n) x = none →
    (promoteSet u n (field b 4 4) x).1 = 0 →
    ∃ t, exec (.restorePromote ring) s = .next t ∧ Claims.Done t ring d 0 ∧ t.snap.role = .promoted ∧ (t.snapSet n).phase = .ready ∧
      (t.snapSet n).rd = x ∧ (t.snapSet n).wr = !x ∧ (t.snapSet n).roleStep = BitVec.ofNat 32 (field b 4 4) ∧ Claims.OtherSets v t n) ∧
  (∀ s ring d b v, Claims.Runs s ring d 0x19 1 → Claims.Reads s ring d 1 b v → allZero b 2 2 = true → allZero b 8 248 = true →
    let named := bitList (field b 0 2) 16
    runsReady v (named.flatMap (fun n => promoteRuns (v.snapSet n))) = true → promoteCheck v named (field b 4 4) ≠ 0 →
    ∃ t, exec (.restorePromote ring) s = .next t ∧ Claims.Done t ring d 0x0708 ∧ t.snap = v.snap ∧ t.tiles = v.tiles) ∧
  (∀ s host v, Claims.Primary s host →
    let sp : BitVec 2 := BitVec.ofNat 2 (bits v.toNat 2 1)
    sp ≠ 3 → (s.snap.en = false ∨ sp = s.snap.split) → (bit v.toNat 0 = false ∨ s.pins.straps.getLsbD 1 = true) →
    ∃ t, exec (.snctlEnWrite host v) s = .next t ∧ t.snap.en = bit v.toNat 0 ∧ t.snap.split = sp ∧ t.snap.policy = bit v.toNat 3 ∧
      t.snap.sets = s.snap.sets ∧ t.snap.drives = s.snap.drives ∧ t = { s with snap := t.snap } ∧
      (¬(bit v.toNat 0 = true ∧ s.snap.en = true) → t.snap.present = 0 ∧ t.snap.usable = 0)) ∧
  (∀ s host v, Claims.Primary s host → bits v.toNat 2 1 = 3 → ∃ t, exec (.snctlEnWrite host v) s = .next t ∧ OnlyLog s t) ∧
  (∀ s p u l m, s.snap.en = true → s.snap.present = 0 →
    ∃ t, exec (.nvmeInitComplete p u l m) s = .next t ∧ t.snap.present = p &&& snapLinks s ∧ t = { s with snap := t.snap, pins := t.pins } ∧
      (∀ k, k < 4 → t.snap.usable.getLsbD k = (t.snap.present.getLsbD k && u.getLsbD k && (l.getD k 0 == 512 || l.getD k 0 == 4096))) ∧
      t.snap.drives = s.snap.drives ∧ t.snap.sets = s.snap.sets)

/-- The port's link is up. -/
def Claims.HostUp (s : State) (host : Nat) : Prop := host < 2 ∧ (s.hport host).up = true

/-- R361, R362: the primary role goes to the port that accepts an offer's token within 100 ms, or that claims it when the
primary's link has been down for 100 ms; every other attempt is only logged, and an offer lapses. -/
def Obligations.PrimaryRole : Prop :=
  (∀ s host token, Claims.HostUp s host → host = primaryPort s → token ≠ 0 →
    exec (.hoverOffer host token) s = .next { s with host := { s.host with offer := some token, offerAt := s.clk } }) ∧
  (∀ s host token, Claims.HostUp s host → (host ≠ primaryPort s ∨ token = 0) →
    ∃ t, exec (.hoverOffer host token) s = .next t ∧ OnlyLog s t ∧ t.host.primary = s.host.primary ∧ t.host.offer = s.host.offer) ∧
  (∀ s host token, Claims.HostUp s host → host ≠ primaryPort s → token ≠ 0 → s.host.offer = some token → s.clk < s.host.offerAt + 120000000 →
    ∃ t, exec (.hoverAccept host token) s = .next t ∧ t = { s with host := t.host } ∧ primaryPort t = host ∧ t.host.offer = none ∧
      t.host.ports = s.host.ports) ∧
  (∀ s host token, Claims.HostUp s host → (host = primaryPort s ∨ s.host.offer ≠ some token ∨ s.host.offerAt + 120000000 ≤ s.clk) →
    ∃ t, exec (.hoverAccept host token) s = .next t ∧ OnlyLog s t ∧ t.host.primary = s.host.primary ∧ t.host.offer = s.host.offer) ∧
  (∀ s host, Claims.HostUp s host → host ≠ primaryPort s → (s.hport (primaryPort s)).up = false →
    (s.hport (primaryPort s)).downAt + 120000000 ≤ s.clk →
    ∃ t, exec (.hoverClaim host) s = .next t ∧ t = { s with host := t.host } ∧ primaryPort t = host ∧ t.host.ports = s.host.ports) ∧
  (∀ s host, Claims.HostUp s host → (s.hport (primaryPort s)).up = true →
    ∃ t, exec (.hoverClaim host) s = .next t ∧ OnlyLog s t ∧ t.host.primary = s.host.primary) ∧
  (∀ s token, s.host.offer = some token → s.host.offerAt + 120000000 ≤ s.clk →
    ∃ t, exec .handoverOfferLapse s = .next t ∧ OnlyLog s t ∧ t.host.primary = s.host.primary ∧ t.host.offer = none)

/-! ### Power and heat (chapter 14) -/

/-- Only the power controller's registers and the log changed. -/
def Claims.OnlyPower (s t : State) : Prop := OnlyLog { s with pwr := t.pwr } t

/-- A tile's row is not due to switch off: it is off, or a tile of it is usable and its `PROWOFF` bit or a launch keeps it on. -/
def Claims.RowStays (s : State) (tile : Nat) : Prop :=
  rowDomain tile ∉ s.pwr.domains ∨
    (rowUsable s (rowDomain tile) = true ∧ (rowHeldOff s (rowDomain tile) = false ∨ rowWanted s (rowDomain tile) = true))

/-- R384 to R403, R414: a sample moves the level, the mean and the ramp lines, and a draw above 3000 W sheds; a control tick
keeps every share between its floor and its ceiling, the pace at most the group's, and the hold load within its part of the
pace, and a row that launches or its bit keep on stays; the limits take values within their ranges and refuse others; a hint or
envelope is kept beside those accepted before, waits or is refused. -/
def Obligations.PowerControl : Prop :=
  (∀ s watts, s.pins.vaux = true → s.pwr.sampleAt + 1200 ≤ s.clk →
    let lv := ((watts :: s.pwr.samples).take 1000).sum
    ∃ t, exec (.powerSample watts) s = .next t ∧ Claims.OnlyPower s t ∧ t.pwr.level = lv ∧ t.pwr.sampleAt = s.clk ∧
      t.pwr.upCeil = min (s.pwr.upCeil + s.pwr.rup.toNat) (lv * 1000) ∧
      t.pwr.downFloor = max (s.pwr.downFloor - s.pwr.rdown.toNat) (lv * 1000) ∧ t.pwr.cap = s.pwr.cap ∧ t.pwr.phase = s.pwr.phase ∧
      (s.pwr.shed = true → t.pwr.shed = decide (lv > 2800000)) ∧
      (s.pwr.shed = false → ((watts :: s.pwr.samples).take 100).sum > 300000 → (s.pwr.phase = .run ∨ s.pwr.phase = .throttle) →
        t.pwr.shed = true ∧ t.pwr.own = 16 ∧ t.pwr.comp = 16 ∧ t.pwr.mem = s.pwr.floorMem ∧ t.pwr.link = s.pwr.floorLink ∧
        t.pwr.boost = false ∧ t.pwr.clamps = satInc s.pwr.clamps) ∧
      (s.pwr.shed = false → ((watts :: s.pwr.samples).take 100).sum ≤ 300000 → t.pwr.shed = false ∧ t.pwr.own = s.pwr.own)) ∧
  (∀ s, s.pwr.tickAt + 12000 ≤ s.clk → (s.pwr.phase = .run ∨ s.pwr.phase = .throttle) →
    ∃ t, exec .controlTick s = .next t ∧ t.pwr.tickAt = s.clk ∧ t.pwr.ticks = s.pwr.ticks + 1 ∧ t.fab = s.fab ∧
      (∀ x, Claims.RowStays s x → t.tile x = s.tile x) ∧
      (s.pwr.shed = false → ∀ i, i < 3 →
        shareOf t.pwr i ≤ shareCeil s.pwr i ∧ min (shareCeil s.pwr i) (shareFloor s.pwr i) ≤ shareOf t.pwr i) ∧
      (s.pwr.shed = true → ∀ i, i < 3 → shareOf t.pwr i = shareOf s.pwr i) ∧
      t.pwr.comp.toNat ≤ min t.pwr.own.toNat (matchPace s) ∧ t.pwr.holdWatts.toNat * 64 ≤ 810 * t.pwr.comp.toNat ∧
      (s.pwr.phase = .throttle → t.pwr.holdWatts = 0) ∧ t.pwr.throttles = s.pwr.throttles ∧
      t.pwr.phase = (if s.pwr.throttles = [] ∧ s.pwr.coolPart = none then .run else .throttle)) ∧
  (∀ s, s.pwr.tickAt + 12000 ≤ s.clk → s.pwr.phase = .floor → hottestDie s > s.pwr.floorTemp - 5 →
    ∃ t, exec .controlTick s = .next t ∧ t.pwr.phase = .floor ∧ t.pwr.own = 0 ∧ t.pwr.comp = 0 ∧ t.pwr.mem = s.pwr.floorMem ∧
      t.pwr.link = s.pwr.floorLink ∧ t.pwr.holdWatts = 0 ∧ t.pwr.bind = 2 ∧ Claims.OnlyPower { s with tiles := t.tiles } t ∧
      ∀ x, Claims.RowStays s x → t.tile x = s.tile x) ∧
  (∀ s host v, Claims.Primary s host →
    let w := v.toNat % 4096
    ∃ t, exec (.pcapWrite host v) s = .next t ∧
      (if 1000 ≤ w ∧ w ≤ s.pwr.maxCap.toNat then t.pwr.cap = BitVec.ofNat 12 w ∧ t = { s with pwr := t.pwr } ∧
          (w < s.pwr.cap.toNat → s.pwr.level * 1000 > w * 1000000 → t.pwr.capFall = some (s.pwr.level * 1000))
       else OnlyLog s t)) ∧
  (∀ s host v, Claims.Primary s host →
    let w := v.toNat % 32
    ∃ t, exec (.pwinWrite host v) s = .next t ∧
      (if 1 ≤ w ∧ w ≤ 30 then t.pwr.win = BitVec.ofNat 5 w ∧ t = { s with pwr := { s.pwr with win := t.pwr.win, avg := t.pwr.avg } } ∧
          t.pwr.avg = (s.pwr.samples.take (w * 1000000)).sum / (w * 1000000)
       else OnlyLog s t)) ∧
  (∀ s host v, Claims.Primary s host →
    let w := v.toNat % 128
    ∃ t, exec (.pfixWrite host v) s = .next t ∧
      (if w = 0 ∨ (16 ≤ w ∧ w ≤ 64) then t = { s with pwr := { s.pwr with fix := BitVec.ofNat 7 w } } else OnlyLog s t)) ∧
  (∀ s host, Claims.Primary s host →
    ∃ t, exec (.envclr host) s = .next t ∧ t.pwr.envelope = [] ∧ t = { s with pwr := t.pwr } ∧ t.pwr.nextEnv = s.pwr.nextEnv ∧
      t.pwr.hints = s.pwr.hints) ∧
  (∀ s ring d, Claims.Runs s ring d 0x20 0 →
    let start := opnd d 8 8
    let dur := opnd d 16 4
    let w := opnd d 20 2
    w ≠ 0 → dur ≠ 0 → s.ns < start + dur * 1000 → (∀ h, h ∈ s.pwr.hints → ¬(h.start = start ∧ h.dur = dur ∧ h.watts = w)) →
    (s.pwr.hints.length < 16 →
      ∃ t, exec (.hint ring) s = .next t ∧ Claims.Done t ring d 0 ∧ t.tiles = s.tiles ∧
        t.pwr.hints = s.pwr.hints ++ [⟨start, dur, w, s.pwr.level / 1000, s.ns⟩] ∧
        (w ≤ s.pwr.level / 1000 → t.pwr.clamps = s.pwr.clamps)) ∧
      (16 ≤ s.pwr.hints.length → exec (.hint ring) s = .next s)) ∧
  (∀ s ring d, Claims.Runs s ring d 0x20 0 → (opnd d 20 2 = 0 ∨ opnd d 16 4 = 0) → s.pwr.hints.length < 16 →
    ∃ t, exec (.hint ring) s = .next t ∧ Claims.Done t ring d 0 ∧ t.pwr = s.pwr) ∧
  (∀ s ring d h v b w, Claims.Runs s ring d 0x21 0 → hbmRun s (opndAddr d 16) 256 16 = true →
    ringRead (beginDesc s ring d) ring (addrOff (opndAddr d 16)) 16 = .ok h v →
    let n := field h 2 2
    field h 0 1 = 1 → field h 1 1 = 0 → n ≤ 256 → allZero h 4 12 = true → hbmRun s (opndAddr d 16) 256 (16 + 16 * n) = true →
    ringRead v ring (addrOff (opndAddr d 16)) (16 + 16 * n) = .ok b w → 0 < n →
    (∀ j, j < n → allZero b (26 + 16 * j) 6 = true ∧ field b (24 + 16 * j) 2 ≤ w.pwr.cap.toNat) →
    let pts := (List.range n).map (fun j => (field b (16 + 16 * j) 8, field b (24 + 16 * j) 2))
    slopesOk w.pwr pts = true → s.ns < field b 16 8 →
    ∃ t, exec (.envelope ring) s = .next t ∧ Claims.Done t ring d 0 ∧ t.pwr.nextEnv = w.pwr.nextEnv.filter (fun e => !envDue s.ns e) ++ [pts] ∧
      t.tiles = w.tiles ∧ t.hbm = w.hbm) ∧
  (∀ s ring d h v, Claims.Runs s ring d 0x21 0 → hbmRun s (opndAddr d 16) 256 16 = true →
    ringRead (beginDesc s ring d) ring (addrOff (opndAddr d 16)) 16 = .ok h v → (field h 0 1 ≠ 1 ∨ field h 2 2 > 256) →
    ∃ t, exec (.envelope ring) s = .next t ∧ Claims.Done t ring d 0x0807 ∧ t.pwr = s.pwr)

/-- The part has tripped (R412): every VIN12 domain is off, and what they held is lost. -/
def Claims.Tripped (t : State) (detail : Nat) : Prop :=
  t.pwr.phase = .tripped ∧ t.pwr.tripDetail = BitVec.ofNat 8 detail ∧ t.pins.tripLow = true ∧ t.pwr.domains = [] ∧ t.tiles = [] ∧
  t.hbm.mem = [] ∧ t.log.halted = true

/-- R202, R203, R406 to R413: two agreeing sensors give their greater reading, one at 110 °C or a comparator trips the part;
a hot source lowers its share's ceiling by a step each millisecond and a cool part raises it again; coolant sets a ceiling,
and its silence 0.7 × C; a stack stops above 105 °C and goes on at 100 °C. -/
def Obligations.HeatAndCoolant : Prop :=
  (∀ s spot (a b : Int), spot < 228 → s.pins.vaux = true → (tget s.pwr.spots spot {}).dis = false → -40 ≤ a → a ≤ 150 → -40 ≤ b →
    b ≤ 150 → (a - b).natAbs ≤ 5 → max a b < 110 →
    ∃ t, exec (.sensorRead spot a b) s = .next t ∧ (tget t.pwr.spots spot {}).used = max a b ∧
      (∀ n, n ≠ spot → tget t.pwr.spots n {} = tget s.pwr.spots n {}) ∧ t.tiles = s.tiles ∧
      t.pins = { s.pins with tripLow := s.pins.tripLow && !(s.pins.resetLow && diesCool t) } ∧
      (s.pins.tripLow = true → t.pins.tripLow = false → t.pwr.phase = .off)) ∧
  (∀ s spot (a b : Int), spot < 228 → s.pins.vaux = true → -40 ≤ a → a ≤ 150 → -40 ≤ b → b ≤ 150 → 110 ≤ max a b →
    s.pwr.phase ≠ .off → s.pwr.phase ≠ .tripped →
    ∃ t, exec (.sensorRead spot a b) s = .next t ∧ Claims.Tripped t 1) ∧
  (∀ s, s.pwr.phase ≠ .off → s.pwr.phase ≠ .tripped → ∃ t, exec .thermalComparatorTrip s = .next t ∧ Claims.Tripped t 1) ∧
  (∀ s, s.pwr.phase = .floor → s.pwr.floorAt + 2400000000 ≤ s.clk → hottestDie s > s.pwr.floorTemp - 5 →
    ∃ t, exec .floorTimeout s = .next t ∧ Claims.Tripped t 2) ∧
  (∀ s x, s.pwr.throttles = [x] → x.lastAt + 1200000 ≤ s.clk → sourceTemp s x.source ≥ 100 →
    let i := (throttleShares x.source).1
    let a := min (x.ceil i) (shareOf s.pwr i)
    shareFloor s.pwr i < a →
    ∃ t, exec .throttleStep s = .next t ∧ t = { s with pwr := { s.pwr with throttles := [{ x.put i (a - 1) with lastAt := s.clk }] } }) ∧
  (∀ s, (∀ x, x ∈ s.pwr.throttles → sourceTemp s x.source < 100) → exec .throttleStep s = .next s) ∧
  (∀ s x i, s.pwr.throttles = [x] → coolerThan s 97 = true → s.pwr.recoverAt + 12000000 ≤ s.clk →
    (shareOrder s.pwr).find? (fun i => decide (x.ceil i < 64)) = some i →
    ∃ t, exec .throttleRecoverStep s = .next t ∧ t.pwr.recoverAt = s.clk ∧
      (let y := x.put i (x.ceil i + 1)
       t.pwr.throttles = if y.comp = 64 ∧ y.mem = 64 ∧ y.link = 64 then [] else [y])) ∧
  (∀ s flow inlet outlet, s.pins.vaux = true →
    ∃ t, exec (.coolantRead flow inlet outlet) s = .next t ∧ Claims.OnlyPower s t ∧ t.pwr.coolLost = false ∧ t.pwr.coolAt = s.clk ∧
      t.pwr.flow.toNat = min flow 4095 ∧ t.pwr.inlet.toNat = min inlet 255 ∧
      coolCeil t.pwr = (if 350 ≤ flow ∧ inlet ≤ 40 then none
        else some (s.pwr.cap.toNat * 1000 * (min 350 flow * (20 - (inlet - 40))) / 7))) ∧
  (∀ s, s.pins.vaux = true → s.pwr.coolLost = false → s.pwr.coolAt + 120000000 ≤ s.clk →
    ∃ t, exec .coolantReadTimeout s = .next t ∧ Claims.OnlyPower s t ∧ t.pwr.coolLost = true ∧
      coolCeil t.pwr = some (s.pwr.cap.toNat * 700000) ∧ (s.pwr.phase = .run → t.pwr.phase = .throttle)) ∧
  (∀ s k c, k < 24 →
    ∃ t, exec (.hbmTempRead k c) s = .next t ∧ (t.stack k).temp.toNat = min c 255 ∧
      (∀ n, n ≠ k → (t.stack n).temp = (s.stack n).temp ∧ (t.stack n).stop = (s.stack n).stop ∧ (s.log.ringUp = false → t.stack n = s.stack n)) ∧
      (t.stack k).stop = (if c > 105 then true else if c ≤ 100 then false else (s.stack k).stop) ∧ t.tiles = s.tiles)

/-! ### Time (chapter 15) -/

/-- R418 to R426: LEADER_ELECTION completes in every state: it takes the least entry of leader, distance and port, and its
registers follow. HOLDOVER_TIMEOUT completes in HOLDOVER when no upstream was chosen for 1 ms: the part is FREE at the rate it has.
TNOWLO_READ completes over a link that is up: it returns the time and latches the other parts of the same sample. A near sample on
the upstream steps the base and counts toward the lock. -/
def Obligations.TimeBaseRules : Prop :=
  (∀ s, ∃ t, exec .leaderElection s = .next t ∧ t.tiles = s.tiles ∧ t.time.now = s.time.now ∧
      (match elect s with
       | none => t.time.leadValid = false ∧ t.time.selfLead = false ∧ t.time.upstream = none
       | some x => t.time.leadValid = true ∧ t.time.leadNum = BitVec.ofNat 12 x.leader ∧ t.time.dist = BitVec.ofNat 4 x.dist ∧
           t.time.selfLead = x.port.isNone ∧ (x.port.isNone = true → t.time.phase = .locked ∧ t.time.freq = 0 ∧ t.time.inc = 3579139413) ∧
           t.time.upstream = (if x.locked = true then x.port else none))) ∧
  (∀ s x, elect s = some x → (s.time.cand = true → s.fab.devValid = true → x.leader ≤ ownDev s) ∧
    ∀ n c, n < 16 → portChoice s n = some c → x.leader < c.leader ∨ (x.leader = c.leader ∧ x.dist ≤ c.dist)) ∧
  (∀ s, s.time.phase = .locked → (elect s).isNone = true →
    ∃ t, exec .leaderElection s = .next t ∧ t.time.phase = .holdover ∧ t.time.holdAt = s.clk) ∧
  (∀ s, s.time.phase = .holdover → s.time.upstream = none → s.time.holdAt + 1200000 ≤ s.clk →
    ∃ t, exec .holdoverTimeout s = .next t ∧ t.time = { s.time with phase := .free, streak := 0 } ∧
      OnlyLog { s with time := t.time, fab := t.fab } t) ∧
  (∀ s host, Claims.HostUp s host →
    ∃ t, exec (.tnowloRead host) s = .next t ∧ t.out = .barRead host 0x18020 (BitVec.ofNat 32 s.ns) :: s.out ∧
      t.time.latchHi = BitVec.ofNat 32 (s.ns / 2 ^ 32) ∧ t.time.latchF = BitVec.ofNat 16 (s.time.now / 2 ^ 16) ∧
      t.time.now = s.time.now ∧ t = { s with time := t.time, out := t.out }) ∧
  (∀ s port x, s.time.upstream = some port → s.time.selfLead = false → s.time.phase = .acquiring →
    let th := thetaOf x (tget s.time.asym port 0)
    th.natAbs ≤ 100 * 125 * 2 ^ 17 →
    (useSample s port x).time.now = wrap 96 (s.time.now + th * 2 ^ 15 / 125) ∧ (useSample s port x).time.steps = satInc s.time.steps ∧
      (useSample s port x).time.phase = (if 15 ≤ s.time.streak ∧ s.time.dist.toNat ≤ s.time.maxHop.toNat then .locked else .acquiring))

/-! ### Security (chapter 17) -/

/-- R448 to R456, R462: boot runs the first slot whose manifest, floor and images pass and applies a blob that passes, or stops
in a FATAL halt (whether a slot passes rests on the key whose hash the ROM holds, a constant of Config, DESIGN CHOICE, log entry 14); the floor rises to its target within the running version and the blob's; a flash operation starts outside
the guarded places and does what it names. -/
def Obligations.BootAndFlash : Prop :=
  (∀ s readable, bootDue s = true → ∃ t, exec (.bootVerify readable) s = .next t ∧
    (∀ slot,
      (if slot = true then (∃ a, trySlot s readable false = .failed a) ∧ (∀ a, trySlot (noteReason s false a) readable true = .passed)
        else trySlot s readable false = .passed) →
      blobReason s 0 = 0 →
      let m := flashBytes s (slotBase slot) 512
      let b := flashBytes s (blobBase 0) 512
      t.sec.verified = true ∧ t.sec.slot = slot ∧ t.pwr.phase = .enabling ∧
        t.sec.svn = BitVec.ofNat 32 (field m 4 4) ∧ t.sec.vkey = slice m 304 64 ∧ t.sec.blob = b ∧
        t.sec.bsvn = BitVec.ofNat 32 (field b 4 4) ∧ t.pwr.maxCap = BitVec.ofNat 12 (field b 24 2) ∧
        t.sec.floor = s.sec.floor ∧ t.sec.flash = s.sec.flash ∧ t.sec.noCfg = s.sec.noCfg ∧ t.log = s.log ∧
        (∀ i, i < 6 → 16 ≤ s.sec.mr.length → t.sec.mr.getD i [] =
          sm3 (s.sec.mr.getD i (zeros 32) ++ slice (entryOfType m (i + 1)) 16 32))) ∧
    (∀ a b, trySlot s readable false = .failed a → trySlot (noteReason s false a) readable true = .failed b → s.log.fcode = 0 →
      t.sec.verified = false ∧ t.sec.bootFailed = true ∧ t.log.halted = true ∧
        t.pins.faultLow = true ∧ t.log.fcode = (if a = 6 ∧ b = 6 then 0x0A02 else 0x0A01) ∧ t.pwr.phase = .off ∧
        t.sec.reasonA = BitVec.ofNat 4 a ∧ t.sec.reasonB = BitVec.ofNat 4 b)) ∧
  (∀ s readable, bootDue s = false → exec (.bootVerify readable) s = .next s) ∧
  (∀ s host v, Claims.Primary s host →
    let n := bits v.toNat 30 0
    ∃ t, exec (.sfadvGo host v) s = .next t ∧
      (if s.sec.advancing = false ∧ s.sec.floor.toNat ≤ n ∧ n ≤ s.sec.svn.toNat ∧ n ≤ s.sec.bsvn.toNat then
        t.sec.advancing = true ∧ t.sec.target = BitVec.ofNat 31 n ∧ t.sec.floor = s.sec.floor ∧ t = { s with sec := t.sec }
       else OnlyLog s t)) ∧
  (∀ s, s.sec.advancing = true → (s.sec.floorAhead = true ∨ s.sec.fOp = .none) →
    ∃ t, exec .floorAdvanceComplete s = .next t ∧ t.sec.floor.toNat = s.sec.target.toNat ∧ t.sec.advancing = false ∧
      t.sec.flash = s.sec.flash ∧ t.sec.mr = s.sec.mr ∧ t = { s with sec := t.sec }) ∧
  (∀ s host, Claims.Primary s host → s.sec.fOp = .none →
    let a := s.sec.fAddr.toNat
    ∃ t u v, exec (.sfcmdErase host) s = .next t ∧ exec (.sfcmdProgram host) s = .next u ∧ exec (.sfcmdRead host) s = .next v ∧
      (if flashGuarded s (a / 65536 * 65536) 65536 = true then OnlyLog s t
       else t = { s with sec := { s.sec with fOp := .erase, fOpAddr := BitVec.ofNat 27 (a / 65536 * 65536) } }) ∧
      (if flashGuarded s a 4096 = true then OnlyLog s u
       else u = { s with sec := { s.sec with fOp := .program, fOpAddr := s.sec.fAddr } }) ∧
      v = { s with sec := { s.sec with fOp := .read, fOpAddr := s.sec.fAddr } }) ∧
  (∀ s host, Claims.Primary s host → s.sec.fOp ≠ .none →
    ∃ t u v, exec (.sfcmdErase host) s = .next t ∧ exec (.sfcmdProgram host) s = .next u ∧ exec (.sfcmdRead host) s = .next v ∧
      OnlyLog s t ∧ OnlyLog s u ∧ OnlyLog s v) ∧
  (∀ s, s.sec.fOp ≠ .none → s.sec.advancing = false → Mem.wf erasedByte s.sec.flash = true →
    let a := s.sec.fOpAddr.toNat
    ∃ t, exec .flashOpComplete s = .next t ∧ t.sec.fOp = .none ∧ t = { s with sec := t.sec } ∧ t.sec.floor = s.sec.floor ∧
      (s.sec.fOp = .erase → ∀ x, memByte erasedByte t.sec.flash x = if a ≤ x ∧ x < a + 65536 then 0xFF else memByte erasedByte s.sec.flash x) ∧
      (s.sec.fOp = .program → flashBytes t a 4096 = List.zipWith (· &&& ·) (flashBytes s a 4096) (bufferBytes s) ∧
        ∀ x, x < a ∨ a + 4096 ≤ x → memByte erasedByte t.sec.flash x = memByte erasedByte s.sec.flash x) ∧
      (s.sec.fOp = .read → t.sec.flash = s.sec.flash ∧ bufferBytes t = flashBytes s a 4096))

/-- R457 to R461: a report is taken at its request and signed in order by the identity key; the host may extend MR10 to MR15 alone,
one extension at a time (it lasts its control cycle: DESIGN CHOICE, log entry 123); an unlock token that fails leaves the scopes as they are and says which condition it fails; every attempt
draws a fresh challenge; a management request is answered from its registers through the endpoint it came through, SMBus from VAUX
onward or a port whose link is up, the kept record of a trip before the log's (DESIGN CHOICE, log entry 120). -/
def Obligations.AttestationAndUnlock : Prop :=
  (∀ s nonce, (reportBody s nonce).length = 768 ∧ slice (reportBody s nonce) 16 32 = slice nonce 0 32 ∧
    ∀ m, m < 16 → slice (reportBody s nonce) (192 + 32 * m) 32 = slice (s.sec.mr.getD m []) 0 32) ∧
  (∀ s host, Claims.Primary s host → s.sec.attBusy = false → s.sec.attests.length < 4 →
    ∃ t a, exec (.sattGo host) s = .next t ∧ t = { s with sec := { s.sec with attBusy := true, attests := s.sec.attests ++ [a] } } ∧
      a.body = reportBody s (wordBytes s.sec.nonce) ∧ a.for_ = .host host (BitVec.ofNat 64 (s.sec.attLo.toNat + s.sec.attHi.toNat * 2 ^ 32))) ∧
  (∀ s host, Claims.Primary s host → (s.sec.attBusy = true ∨ 4 ≤ s.sec.attests.length) →
    ∃ t, exec (.sattGo host) s = .next t ∧ OnlyLog s t) ∧
  (∀ s nonce via, managed s via = true →
    ∃ t, exec (.attest nonce via) s = .next t ∧
      (if s.sec.attests.length < 4 then t = { s with sec := { s.sec with attests := s.sec.attests ++ [⟨.management via, reportBody s nonce⟩] } }
       else OnlyLog s t)) ∧
  (∀ s a rest, s.sec.attests = a :: rest → s.pins.vaux = true → s.pins.resetLow = false →
    let sig := reportSignature s a.body
    ∃ t, exec .attestReportComplete s = .next t ∧ sig.length = 64 ∧ t.sec.attests = rest ∧ t.sec.mr = s.sec.mr ∧ t.free = s.free + 1 ∧
      (match a.for_ with
       | .management via => t.out = if managed s via = true then .management via 0x04 (a.body ++ sig) :: s.out else s.out
       | .host p addr => t.sec.attBusy = false ∧
           ((s.hport p).up = true → t.sec.attDone = true ∧ .hostWrite p addr (a.body ++ sig) false false ∈ t.out))) ∧
  (∀ s host v, Claims.Primary s host →
    let k := bits v.toNat 3 0
    ∃ t, exec (.smrxGo host v) s = .next t ∧
      (if k < 10 ∨ s.sec.extAt = some s.clk then OnlyLog s t
       else t.sec.mrIndex = BitVec.ofNat 4 k ∧ t = { s with sec := t.sec } ∧ t.sec.extAt = some s.clk ∧
         t.sec.mr = s.sec.mr.set k (sm3 (s.sec.mr.getD k (zeros 32) ++ wordBytes s.sec.mrd)))) ∧
  (∀ s host token, Claims.Primary s host →
    ∃ t, exec (.sdgoGo host token) s = .next t ∧ t.free = s.free + 1 ∧ t.sec.challenge = Config.challenge s.free ∧
      (if tokenDetail s token = 0 then t.sec.debug = true ∧ t.sec.scopes = s.sec.scopes ||| BitVec.ofNat 8 (field token 1 1) ∧
          t.sec.mr = s.sec.mr.set 9 (sm3 (s.sec.mr.getD 9 (zeros 32) ++ sm3 (slice token 0 256)))
       else t.sec.debug = s.sec.debug ∧ t.sec.scopes = s.sec.scopes ∧ t.sec.mr = s.sec.mr)) ∧
  (∀ s token via, managed s via = true →
    ∃ t, exec (.unlock token via) s = .next t ∧ t.free = s.free + 1 ∧ t.sec.challenge = Config.challenge s.free ∧
      t.out.head? = some (.management via 0x06 [BitVec.ofNat 8 (tokenDetail s token)]) ∧
      (if tokenDetail s token = 0 then t.sec.debug = true ∧ t.sec.scopes = s.sec.scopes ||| BitVec.ofNat 8 (field token 1 1)
       else t.sec.debug = s.sec.debug ∧ t.sec.scopes = s.sec.scopes ∧ t.sec.mr = s.sec.mr)) ∧
  (∀ s lseq via r, managed s via = true → tripRecord s lseq = none → s.log.early.find? (fun r => r.lseq == lseq) = some r →
    exec (.getLog lseq via) s = .next { s with out := .management via 0x01 (recordBytes r) :: s.out }) ∧
  (∀ s lseq via r, managed s via = true → s.log.trip = some r → r.lseq = lseq →
    exec (.getLog lseq via) s = .next { s with out := .management via 0x01 (recordBytes r) :: s.out }) ∧
  (∀ s off via, managed s via = true →
    exec (.getCert off via) s = .next { s with out := .management via 0x03 (slice (flashBytes s 0x4010000 4096) off 64) :: s.out }) ∧
  (∀ s via, managed s via = true →
    exec (.getChal via) s = .next { s with out := .management via 0x05 (beBytes 32 s.sec.challenge.toNat) :: s.out } ∧
    exec (.getBoot via) s = .next { s with out := .management via 0x07 (leBytes 4 (readSstat s) ++ leBytes 4 (readSboot s) ++
      leBytes 4 s.sec.floor.toNat ++ leBytes 4 s.sec.svn.toNat) :: s.out } ∧
    ∃ b, exec (.getSensors via) s = .next { s with out := .management via 0x02 b :: s.out } ∧ b.length = 80 ∧
      slice b 0 4 = leBytes 4 (readPstat s)) ∧
  (∀ s ty vendor via, managed s via = true →
    exec (.mctpControlMessage ty vendor via) s =
      .next { s with out := .mctp via ty (ty == 0 || (ty == 0x7E && vendor == 0x1F3A)) :: s.out }) ∧
  (∀ s ty vendor via, managed s via = false → exec (.mctpControlMessage ty vendor via) s = .next s) ∧
  (∀ s, managed s .smbus = (s.pins.vaux && !s.pins.resetLow)) ∧
  (∀ s p, (p < 2 → (s.hport p).up = false) → managed s (.vdm p) = false)

/-! ### Host attachment and registers (chapter 18) -/

/-- R463 to R473: a window read returns committed bytes and a window write leaves its own, within the window as it is sized; a
port's link trains once its domain and HBM are up; its resets disable its ring pairs and a Function Level Reset keeps its
configuration space but for what starts requests; a vector's message is the write of its entry and waits while it is masked; BAR4
and configuration space hold what is written to them (where a field stands, what a Function Level Reset clears and an access
beyond a window's size are the model's: PRESUMED, log entry 124). -/
def Obligations.HostPorts : Prop :=
  (∀ s host off n, Claims.HostUp s host →
    let a := windowOff s host off
    beyondBar s host off n = false → beyondHbm a n = false → refusal s .engine .read none 0 a n = 0 → unitReady s 0 a n = true → s.hbm.marks = [] → s.cmd.redirects = [] →
    ∃ t, exec (.bar2Read host off n) s = .next t ∧ t.out = .bar2 host (committedBytes s a n) false :: s.out ∧ t.hbm.mem = s.hbm.mem ∧
      t.tiles = s.tiles) ∧
  (∀ s host off n, Claims.HostUp s host → beyondBar s host off n = true →
    exec (.bar2Read host off n) s = .next { s with out := .bar2Unsupported host :: s.out }) ∧
  (∀ s host off b p, Claims.HostUp s host → beyondBar s host off b.length = true → exec (.bar2Write host off b p) s = .next s) ∧
  (∀ s host off n, Claims.HostUp s host → beyondBar s host off n = false → beyondHbm (windowOff s host off) n = true →
    ∃ t, exec (.bar2Read host off n) s = .next t ∧ OnlyLog s t ∧ .bar2Unsupported host ∈ t.out) ∧
  (∀ s host off n, Claims.HostUp s host →
    let a := windowOff s host off
    beyondBar s host off n = false → beyondHbm a n = false → refusal s .engine .read none 0 a n ≠ 0 →
    ∃ t, exec (.bar2Read host off n) s = .next t ∧ OnlyLog s t ∧ .bar2Abort host ∈ t.out) ∧
  (∀ s host off b, Claims.HostUp s host →
    let a := windowOff s host off
    beyondBar s host off b.length = false → beyondHbm a b.length = false → refusal s .engine .write none 0 a b.length = 0 → unitReady s 0 a b.length = true → s.hbm.marks = [] →
    s.cmd.redirects = [] → a % 256 + b.length ≤ 256 → 0 < b.length → Mem.wf zeroByte s.hbm.mem = true →
    ∃ t, exec (.bar2Write host off b false) s = .next t ∧ memRead zeroByte t.hbm.mem (physKey s a) b.length = b ∧ t.tiles = s.tiles ∧
      (∀ x, x < physKey s a ∨ physKey s a + b.length ≤ x → memByte zeroByte t.hbm.mem x = memByte zeroByte s.hbm.mem x) ∧
      t.log = s.log) ∧
  (∀ s host off b p, Claims.HostUp s host → beyondBar s host off b.length = false → beyondHbm (windowOff s host off) b.length = true →
    ∃ t, exec (.bar2Write host off b p) s = .next t ∧ OnlyLog s t) ∧
  (∀ s host speed lanes, host < 2 → hostPowered s host = true → (s.hport host).up = false → linkOk speed lanes = true →
    trainingEnded s = true →
    ∃ t, exec (.hostLinkTrain host speed lanes) s = .next t ∧ t = { s with host := t.host, log := t.log, out := t.out } ∧
      (s.log.mirEn = false → t = { s with host := t.host }) ∧ t.log.early = s.log.early ∧ (t.hport host).up = true ∧
      (t.hport host).perst = false ∧ (t.hport host).speed = speed ∧ (t.hport host).width = lanes ∧
      (t.hport host).flit = decide (speed = 6) ∧ t.hport (1 - host) = s.hport (1 - host)) ∧
  (∀ s host, host < 2 →
    ∃ t, exec (.perstAssert host) s = .next t ∧ (t.hport host).up = false ∧ (t.hport host).perst = true ∧
      (hostPowered s host = true → (t.hport host).cfg = [] ∧ ∀ r, r / 16 = host → (t.ring r).phase = .disabled)) ∧
  (∀ s host d3hot, Claims.HostUp s host →
    ∃ t, exec (.functionLevelReset host d3hot) s = .next t ∧ (t.hport host).up = true ∧ (t.hport host).vectors = [] ∧
      (t.hport host).win = 0 ∧ powerState (t.hport host) = (if d3hot = true then 3 else 0) ∧
      (∀ off, off ≠ 0x04 → off ≠ 0x44 → off ≠ 0x50 → tget? (t.hport host).cfg off = tget? (s.hport host).cfg off) ∧
      ∀ r, r / 16 = host → (t.ring r).phase = .disabled) ∧
  (∀ s host v, host < 2 → v < 256 → (vectorOf s host v).timing = true → 0 < (vectorOf s host v).count →
    (vectorOf s host v).firstAt + (s.hport host).modTime.toNat * 1200 ≤ s.clk →
    ∃ t, exec (.msixModerationTimer host v) s = .next t ∧ (vectorOf t host v).count = 0 ∧ t = { s with host := t.host, out := t.out } ∧
      (if (vectorOf s host v).masked = true then (vectorOf t host v).pba = true ∧ t.out = s.out
       else t.out = .msix host v (vectorOf s host v).addr (vectorOf s host v).data :: s.out ∧ (t.hport host).sent = satInc (s.hport host).sent)) ∧
  (∀ s host v, Claims.HostUp s host → v < 256 →
    ∃ t, exec (.msixVectorUnmask host v) s = .next t ∧ (vectorOf t host v).masked = false ∧ (vectorOf t host v).pba = false ∧
      t = { s with host := t.host, out := t.out } ∧
      t.out = (if (vectorOf s host v).pba = true then .msix host v (vectorOf s host v).addr (vectorOf s host v).data :: s.out
        else s.out)) ∧
  (∀ s host k v, Claims.HostUp s host → k < 256 →
    ∃ a b c, exec (.registerWrite host (16 * k) v .bar4) s = .next a ∧ exec (.registerWrite host (16 * k + 4) v .bar4) s = .next b ∧
      exec (.registerWrite host (16 * k + 8) v .bar4) s = .next c ∧
      a = { s with host := a.host } ∧ b = { s with host := b.host } ∧ c = { s with host := c.host } ∧
      (vectorOf a host k).addr.toNat = (vectorOf s host k).addr.toNat / 2 ^ 32 * 2 ^ 32 + v.toNat / 4 * 4 ∧
      (vectorOf b host k).addr.toNat = v.toNat * 2 ^ 32 + (vectorOf s host k).addr.toNat % 2 ^ 32 ∧
      (vectorOf c host k).data = v ∧ ∀ n, n ≠ k → vectorOf a host n = vectorOf s host n) ∧
  (∀ s host off, Claims.HostUp s host → off < 2 ^ 13 → off % 4 = 0 →
    exec (.rcRegisterRead host off .bar4) s =
      .next { s with out := .spaceRead host .bar4 off (BitVec.ofNat 32 (bar4Value (s.hport host) off)) :: s.out }) ∧
  (∀ s host off, Claims.HostUp s host → off < 2 ^ 12 → off % 4 = 0 → (cfgRow off).open_ = 0 →
    exec (.rcRegisterRead host off .config) s =
      .next { s with out := .spaceRead host .config off (BitVec.ofNat 32 (cfgValue (s.hport host) off)) :: s.out }) ∧
  (∀ h : HostPort, h.cfg = [] → cfgValue h 0x00 = 0x24161F3A ∧ cfgValue h 0x08 = 0x12000000 ∧ cfgValue h 0x2C = 0x00011F3A ∧
    bar2Size h = 2 ^ 30 ∧ powerState h = 0) ∧
  (∀ s host v, Claims.HostUp s host → 10 ≤ bits v.toNat 13 8 → bits v.toNat 13 8 ≤ 21 →
    ∃ t, exec (.registerWrite host 0x160 v .config) s = .next t ∧ t = { s with host := t.host } ∧
      bar2Size (t.hport host) = 2 ^ (20 + bits v.toNat 13 8)) ∧
  (∀ s host v, Claims.HostUp s host → bit v.toNat 15 = true →
    exec (.registerWrite host 0x68 v .config) s = exec (.functionLevelReset host false) s) ∧
  (∀ s host v, Claims.HostUp s host → v.toNat % 4 = 3 → powerState (s.hport host) = 0 →
    exec (.registerWrite host 0x44 v .config) s = exec (.functionLevelReset host true) s) ∧
  (∀ s host v, Claims.HostUp s host → v.toNat % 4 = 0 → powerState (s.hport host) = 3 →
    ∃ t, exec (.registerWrite host 0x44 v .config) s = .next t ∧ t = { s with host := t.host } ∧ (t.hport host).cfg = [] ∧
      (t.hport host).vectors = (s.hport host).vectors)

/-- R4 to R7, R437, R440, R444, R468, R474 to R477: the log's and mirror's registers take values within range; the log ring comes up
with what the early buffer holds; two records of one control cycle (the commands between two
idle steps: DEDUCED, log entry 125) stand by class, then unit; a register read answers its value,
and clears of a read-clear count what stood before this control cycle; a write takes effect from the port that may make it and is
refused out of range; a misaligned access moves nothing. -/
def Obligations.HostRegisters : Prop :=
  (∀ s host v, Claims.Primary s host →
    let reg := bits v.toNat 11 1
    let lg := bits v.toNat 20 16
    ∃ t, exec (.elogWrite host v) s = .next t ∧
      (if reg ≤ 1535 ∧ 16 ≤ lg ∧ lg ≤ 24 ∧ (s.log.en = true → reg = s.log.region.toNat ∧ lg = s.log.log2n.toNat) ∧
          inPool s (reg * 2 ^ 30) (64 * 2 ^ lg) = false then
        t = { s with log := t.log } ∧ t.log.en = bit v.toNat 0 ∧ t.log.region = BitVec.ofNat 11 reg ∧ t.log.log2n = BitVec.ofNat 5 lg ∧
        t.log.next = s.log.next ∧ t.log.early = s.log.early
       else OnlyLog s t)) ∧
  (∀ s host v, Claims.Primary s host →
    let lg := bits v.toNat 6 2
    6 ≤ lg → lg ≤ 16 → (s.log.mirEn = true → bit v.toNat 1 = s.log.mirPort ∧ lg = s.log.mirLog2n.toNat) →
    ∃ t, exec (.emirctlWrite host v) s = .next t ∧ t.log.mirEn = bit v.toNat 0 ∧ t.log.mirPort = bit v.toNat 1 ∧
      t.log.mirLog2n = BitVec.ofNat 5 lg ∧ t = { s with log := t.log, out := t.out }) ∧
  (∀ s host v, Claims.Primary s host → (bits v.toNat 6 2 < 6 ∨ 16 < bits v.toNat 6 2) →
    ∃ t, exec (.emirctlWrite host v) s = .next t ∧ OnlyLog s t ∧ t.log.mirEn = s.log.mirEn) ∧
  (∀ s r, s.log.en = true → s.log.ringUp = false → hbmTrained s = true → s.log.early = [r] → s.log.copied = 0 →
    Mem.wf zeroByte s.hbm.mem = true → s.hbm.commit = none →
    let off := s.log.region.toNat * 2 ^ 30 + r.lseq.toNat % 2 ^ s.log.log2n.toNat * 64
    retiredRun s off 64 = false → offRun s off 64 = false →
    ∃ t, exec .logRingUp s = .next t ∧ t.log.ringUp = true ∧ t.log.early = [r] ∧ t.log.next = s.log.next ∧
      memRead zeroByte t.hbm.mem (physKey s off) 64 = recordBytes r) ∧
  (∀ s f g, thisCycle s = [] → s.log.ringUp = false → s.log.early.length < 255 → (∀ q, q ∈ s.log.early → q.lseq ≠ s.log.next) →
    suppressed s f = false → suppressed (record s f) g = false → outranks (recordOf s g) (recordOf s f) = true →
    ∃ x y, (record (record s f) g).log.early = s.log.early ++ [x, y] ∧ x.code = BitVec.ofNat 16 g.code ∧ x.lseq = s.log.next ∧
      y.code = BitVec.ofNat 16 f.code ∧ y.lseq = s.log.next + 1) ∧
  (∀ s host off, Claims.HostUp s host → off < 2 ^ 20 → off % 4 = 0 →
    ∃ t, exec (.rcRegisterRead host off .bar0) s = .next t ∧ t.out = .barRead host off (BitVec.ofNat 32 (readValue s host off)) :: s.out ∧
      (isRc off = false → readValue s host off = readReg s host off)) ∧
  (∀ s host, Claims.HostUp s host →
    let m := min (tget s.counts 0x10054 0) s.pwr.clamps.toNat
    let n := min (tget s.counts 0x18014 0) s.time.steps.toNat
    exec (.rcRegisterRead host 0x10054 .bar0) s = .next { s with
      pwr := { s.pwr with clamps := BitVec.ofNat 32 (s.pwr.clamps.toNat - m) }, counts := tdel s.counts 0x10054
      out := .barRead host 0x10054 (BitVec.ofNat 32 m) :: s.out } ∧
    exec (.rcRegisterRead host 0x18014 .bar0) s = .next { s with
      time := { s.time with steps := BitVec.ofNat 32 (s.time.steps.toNat - n) }, counts := tdel s.counts 0x18014
      out := .barRead host 0x18014 (BitVec.ofNat 32 n) :: s.out }) ∧
  (∀ s host v, Claims.Primary s host →
    let l := bits v.toNat 6 0
    let m := bits v.toNat 14 8
    let c := bits v.toNat 22 16
    ∃ t, exec (.registerWrite host 0x10020 v .bar0) s = .next t ∧
      (if 16 ≤ l ∧ l ≤ 64 ∧ 16 ≤ m ∧ m ≤ 64 ∧ 16 ≤ c ∧ c ≤ 64 then
        t = { s with pwr := { s.pwr with floorLink := BitVec.ofNat 7 l, floorMem := BitVec.ofNat 7 m, floorComp := BitVec.ofNat 7 c } }
       else OnlyLog s t)) ∧
  (∀ s host v, Claims.Primary s host →
    exec (.registerWrite host 0x18018 v .bar0) s = .next { s with time := { s.time with setLo := v } } ∧
    exec (.registerWrite host 0x10000 v .bar0) s = exec (.pcapWrite host v) s ∧
    exec (.registerWrite host 0x18004 v .bar0) s = exec (.tepochWrite host v) s ∧
    exec (.registerWrite host 0x30000 v .bar0) s = exec (.fdevWrite host v) s ∧
    exec (.registerWrite host 0x50000 v .bar0) s = exec (.snctlEnWrite host v) s ∧
    exec (.registerWrite host 0x8000 v .bar0) s = exec (.elogWrite host v) s) ∧
  (∀ s host v, Claims.HostUp s host → host ≠ b2n s.host.primary →
    ∃ t, exec (.registerWrite host 0x10020 v .bar0) s = .next t ∧ OnlyLog s t) ∧
  (∀ s host off v, Claims.HostUp s host → off < 2 ^ 20 → off % 4 ≠ 0 →
    ∃ t, exec (.registerWrite host off v .bar0) s = .next t ∧ OnlyLog s t) ∧
  (∀ s host off, Claims.HostUp s host → off % 4 = 0 → exec (.bar0BadAccess host off 4 false) s = .next s) ∧
  (∀ s host off size w, Claims.HostUp s host → size ≠ 4 → size ≠ 8 →
    ∃ t, exec (.bar0BadAccess host off size w) s = .next t ∧ OnlyLog s t ∧ (w = false → .barUnsupported host off ∈ t.out))

/-! ### Pins and power-up (chapter 19) -/

/-- R415, R416, R440, R484 to R489, R494: VAUX wakes the part at its reset values with its straps, keeping the flash, the floor
and the drives; the PLL's lock or its failure, a lost clock, PWR_OK and RESET_N move the part between its power states; each
domain comes on in the order once the level is within the ramp (DEDUCED, log entry 88), a tile row with its test and cleared banks; a stack that trains holds zeros. -/
def Obligations.PinsAndPowerUp : Prop :=
  (∀ s straps, s.pins.vaux = false →
    ∃ t, exec (.vauxRise straps) s = .next t ∧ t.pins.vaux = true ∧ t.pins.straps = straps ∧ t.pins.powerOk = s.pins.powerOk ∧
      t.tiles = [] ∧ t.hbm = {} ∧ t.cmd = {} ∧ t.job = {} ∧ t.log = {} ∧ t.pwr = {} ∧ t.sec.flash = s.sec.flash ∧
      t.sec.floor = s.sec.floor ∧ t.sec.owner = s.sec.owner ∧ t.sec.verified = false ∧ t.snap.drives = s.snap.drives ∧
      t.pending = s.pending) ∧
  (∀ s, s.pins.vaux = true → s.sec.fOp = .none → s.sec.advancing = false →
    ∃ t, exec .vauxRemove s = .next t ∧ t.pins = { powerOk := s.pins.powerOk } ∧ t.tiles = [] ∧ t.hbm = {} ∧ t.log = {} ∧
      t.sec.flash = s.sec.flash ∧ t.sec.floor = s.sec.floor ∧ t.sec.owner = s.sec.owner ∧ t.snap.drives = s.snap.drives ∧
      t.out = s.out) ∧
  (∀ s, s.pins.vaux = true → s.pins.resetLow = false → s.time.pllLocked = false → s.time.clockLost = false →
    exec (.rootPllLock true) s = .next { s with time := { s.time with pllLocked := true } } ∧
    ∃ t, exec (.rootPllLock false) s = .next t ∧ t.time.clockLost = true ∧ t.time.pllLocked = false ∧ t.sec.bootFailed = true ∧
      t.log.halted = true ∧ t.pins.faultLow = true ∧ (s.log.fcode = 0 → t.log.fcode = 0x0903)) ∧
  (∀ s, s.pins.vaux = true → s.time.pllLocked = true →
    ∃ t, exec .clockLoss s = .next t ∧ t.pwr.domains = [] ∧ t.tiles = [] ∧ t.hbm.mem = [] ∧ t.time.clockLost = true ∧
      t.time.pllLocked = false ∧ t.log.halted = true ∧ t.pins.tripLow = s.pins.tripLow ∧
      t.pwr.phase = (if s.pwr.phase = .tripped then .tripped else .off)) ∧
  (∀ s, s.pins.powerOk = false →
    ∃ t, exec .pwrOkRise s = .next t ∧ t.pins.powerOk = true ∧ t = { s with pins := t.pins, pwr := { s.pwr with phase := t.pwr.phase } } ∧
      t.pwr.phase = (if mayEnable s = true ∧ s.pwr.phase = .off then .enabling else s.pwr.phase)) ∧
  (∀ s, s.pins.powerOk = true → s.pwr.phase ≠ .off → s.pwr.phase ≠ .tripped →
    ∃ t, exec .pwrOkFall s = .next t ∧ t.pins.powerOk = false ∧ t.pwr.phase = .off ∧ t.pwr.powerOkLoss = true ∧ t.pwr.domains = [] ∧ t.time.asym = s.time.asym ∧
      t.tiles = [] ∧ t.hbm.mem = [] ∧ t.job.jepoch = 0 ∧ t.sec = s.sec ∧ t.log.early = s.log.early) ∧
  (∀ s d tests, (powerOrder s.pins.straps)[s.pwr.upDone]? = some d → mayEnable s = true → s.pins.powerOk = true → s.pwr.phase = .enabling →
    s.pwr.level * 1000 ≤ s.pwr.upCeil →
    (d < 108 → d % 9 ≠ 8 → s.pwr.rowOff = 0 ∧ ∃ x, x ∈ rowTiles d ∧ widthFor 0 (tget tests x 0) ≠ 0) →
    ∃ t, exec (.domainEnable tests) s = .next t ∧ d ∈ t.pwr.domains ∧ t.pwr.upDone = s.pwr.upDone + 1 ∧
      (∀ n, n ≠ d → (n ∈ t.pwr.domains ↔ n ∈ s.pwr.domains)) ∧
      (d < 108 ∧ d % 9 ≠ 8 → ∀ x, x ∈ rowTiles d → (t.tile x).mem = [] ∧ (t.tile x).badMap = tget tests x 0 ∧
        (t.tile x).mode = (if widthFor 0 (tget tests x 0) = 0 then 2 else 0)) ∧
      (¬(d < 108 ∧ d % 9 ≠ 8) → t.tiles = s.tiles)) ∧
  (∀ s k repaired spares, k < 24 → 108 + k ∈ s.pwr.domains → (s.stack k).trained = false → (s.stack k).failed = false → s.log.trip = none →
    ∃ t, exec (.hbmTrainingComplete k true repaired spares) s = .next t ∧ (t.stack k).trained = true ∧
      (∀ n, n ≠ k → t.stack n = s.stack n) ∧
      (∀ a, memByte zeroByte t.hbm.mem a = if stackOfPlace (a / 256) = k then 0 else memByte zeroByte s.hbm.mem a) ∧
      t.tiles = s.tiles) ∧
  (∀ s k repaired spares, k < 24 → 108 + k ∈ s.pwr.domains → (s.stack k).trained = false → (s.stack k).failed = false →
    ∃ t, exec (.hbmTrainingComplete k false repaired spares) s = .next t ∧ (t.stack k).failed = true ∧ t.log.halted = true ∧
      (s.log.fcode = 0 → t.log.fcode = 0x0307)) ∧
  (∀ s, s.pins.vaux = true → s.pins.resetLow = false →
    ∃ t, exec .resetNAssert s = .next t ∧ t.pins.resetLow = true ∧ t.pins.vaux = true ∧ t.pins.straps = s.pins.straps ∧
      t.pins.faultLow = false ∧ t.tiles = [] ∧ t.hbm = {} ∧ t.cmd = {} ∧ t.job = {} ∧ t.log.next = 0 ∧ t.log.halted = false ∧
      t.pwr.spots = s.pwr.spots ∧ t.pwr.domains = [] ∧ t.snap.drives = s.snap.drives ∧ t.sec.verified = false ∧
      t.pins.tripLow = (s.pins.tripLow && !diesCool s) ∧ (s.sec.fOp = .none → t.sec.flash = s.sec.flash) ∧
      (s.sec.advancing = false → t.sec.floor = s.sec.floor)) ∧
  (∀ s, s.pins.vaux = true → s.pins.resetLow = true →
    ∃ t, exec .resetNRelease s = .next t ∧ t.pins.resetLow = false ∧ t = { s with pins := t.pins, pwr := { s.pwr with phase := t.pwr.phase } } ∧
      t.pwr.phase = (if s.pins.tripLow = true ∧ diesCool s = false then .tripped else .off))

/-! ### The whole machine -/

/-- A step runs the command at the front of the queue on the state with the queue's rest; on an empty queue it is one idle
control cycle (the model's choice, DESIGN CHOICE, log entry 1), which changes the model's clock, its note of the read-clear fields
and the time base alone. -/
def Obligations.StepRunsFront : Prop :=
  (∀ (c : Instr) (s : State), step { s with pending := c :: s.pending } = exec c s) ∧
  (∀ s : State, s.pending = [] → ∃ t, step s = .next t ∧ t = { s with clk := s.clk + 1, counts := rcCounts s, time := { s.time with now := t.time.now } } ∧
    t.time.now = (if s.pins.vaux = true ∧ s.time.pllLocked = true then (s.time.now + s.time.inc) % 2 ^ 96 else s.time.now))

/-- Right after reset every memory is in the canonical form, nothing waits, and no power, lock, halt or time stands. -/
def Obligations.ResetState : Prop :=
  Canonical State.reset = true ∧ State.reset.pending = [] ∧ State.reset.tiles = [] ∧ State.reset.hbm.mem = [] ∧
  State.reset.pwr.phase = .off ∧ State.reset.pwr.domains = [] ∧ State.reset.pins.vaux = false ∧ State.reset.pins.faultLow = false ∧
  State.reset.log.next = 0 ∧ State.reset.log.halted = false ∧ State.reset.job.locked = false ∧ State.reset.job.jepoch = 0 ∧
  State.reset.time.phase = .free ∧ State.reset.time.now = 0 ∧ (∀ r, (State.reset.ring r).phase = .disabled) ∧
  (∀ p, (State.reset.port p).phase = .off) ∧ ∀ b, (State.reset.bucket b).phase = .free

/-- From every state whose memories are in the canonical form, every step that answers a next state keeps them so. -/
def Obligations.StepKeepsCanonical : Prop :=
  ∀ s t : State, Canonical s = true → step s = .next t → Canonical t = true

/-- Ordinary data never ends a run: whatever the state, every command that names units of the part answers a next state, and the
only other outcome of any command is the fault that a unit it names does not exist (R15 to R20, R260, R273, R308, R325, R363, R406). -/
def Obligations.WellFormedCommandsRun : Prop :=
  (∀ (i : Instr) (s : State), i.wf = true → ∃ t, exec i s = .next t) ∧
  (∀ (i : Instr) (s : State), exec i s = .fault .noSuchUnit ∨ ∃ t, exec i s = .next t)

/-! ### Rules of the specification stated whole -/

/-- The write is refused: it does nothing but record the fault. -/
def Claims.Refused (s t : State) (code detail : Nat) : Prop := (∃ unit, t = note s code detail unit) ∧ OnlyLog s t

/-- R248: a SIGNAL adds its count to arrival counter `AUX` of the tile `ADDR`[34:24] names, modulo 2^32, whatever the
ownership of any region; every other counter and every memory is as before. -/
def Obligations.SignalAddsToCounter : Prop :=
  ∀ s src k, Claims.Delivered s src 0 tSIGNAL k → packetSpace k = 1 → bits k.addr.toNat 34 24 < 1152 → bits k.addr.toNat 47 35 = 0 →
    ∃ t, exec (.signalPacket src) s = .next t ∧ t.hbm = s.hbm ∧ t.fab.owners = s.fab.owners ∧
      (∀ x, (t.tile x).mem = (s.tile x).mem) ∧
      ∀ x n, t.counter x n = if x = bits k.addr.toNat 34 24 ∧ n = k.aux.toNat
        then s.counter x n + BitVec.ofNat 32 (field k.payload 0 4) else s.counter x n

/-- R74: MSWAP makes the whole shadow set the active set in one cycle and leaves the shadow set as it was; MSWAP with an
invalid shadow set, and MRUN with an invalid active set, are refused with 0x0108 and change neither set. -/
def Obligations.SwapActivatesShadow : Prop :=
  (∀ s tile w, Claims.MatrixHead s tile w 0x02 → (s.tile tile).mload = none → cellsFree (s.tile tile) = true →
    mswapRefusal (s.tile tile) w = 0 → RecordPlace s tile w →
    ∃ t, exec (.mswap tile) s = .next t ∧ OnlyTileAndLog tile s t ∧ (t.tile tile).active = (s.tile tile).shadow ∧
      (t.tile tile).shadow = (s.tile tile).shadow ∧ (t.tile tile).shadow.valid = true ∧
      (t.tile tile).mqueue = (s.tile tile).mqueue.tail ∧
      (t.tile tile).acc0 = (s.tile tile).acc0 ∧ (t.tile tile).acc1 = (s.tile tile).acc1 ∧
      Completed s t tile w (matrixRecord w {} 1)) ∧
  (∀ s tile w, Claims.MatrixHead s tile w 0x02 → (s.tile tile).mload = none → cellsFree (s.tile tile) = true →
    (s.tile tile).shadow.valid = false → RecordPlace s tile w →
    mswapRefusal { s.tile tile with shadow := { (s.tile tile).shadow with valid := true } } w = 0 →
    ∃ t, exec (.mswap tile) s = .next t ∧ Stopped t tile 0x0108 ∧ (t.tile tile).active = (s.tile tile).active ∧
      (t.tile tile).shadow = (s.tile tile).shadow) ∧
  (∀ s tile w, Claims.MatrixHead s tile w 0x03 → cellsFree (s.tile tile) = true → 0 < rNvec w →
    (s.tile tile).active.valid = false → RecordPlace s tile w →
    mrunRefusal { s.tile tile with active := { (s.tile tile).active with valid := true, squareChecked := true } } w = 0 →
    ∃ t, exec (.mrun tile) s = .next t ∧ Stopped t tile 0x0108 ∧ (t.tile tile).mruns = (s.tile tile).mruns ∧
      (t.tile tile).active = (s.tile tile).active ∧ (t.tile tile).shadow = (s.tile tile).shadow)

/-- R423: the primary's write of `TEPOCH` sets the epoch and leaves the part FREE, unless the job is LOCKED, when it is
refused with 0x0C01; a time is written through `TSETLO` and then `TSETHI`, in FREE alone: in any other state `TSETHI` is
refused with 0x0902. -/
def Obligations.TimeWritesGuarded : Prop :=
  (∀ s host v, Claims.Primary s host → s.job.locked = false →
    ∃ t, exec (.tepochWrite host v) s = .next t ∧ t.time.epoch = v ∧ t.time.phase = .free ∧ t.time.upstream = none ∧
      t.time.leadValid = false ∧ t.time.freq = 0 ∧ t.time.now = s.time.now ∧ t.hbm = s.hbm ∧ t.tiles = s.tiles) ∧
  (∀ s host v, Claims.Primary s host → s.job.locked = true →
    ∃ t, exec (.tepochWrite host v) s = .next t ∧ Claims.Refused s t 0x0C01 0) ∧
  (∀ s host v, Claims.Primary s host →
    exec (.registerWrite host 0x18018 v .bar0) s = .next { s with time := { s.time with setLo := v } }) ∧
  (∀ s host v, Claims.Primary s host → s.time.phase = .free →
    ∃ t, exec (.tsethiWrite host v) s = .next t ∧ t = { s with time := t.time } ∧
      t.time.now = (v.toNat * 2 ^ 32 + s.time.setLo.toNat) * 2 ^ 32 ∧ t.time.phase = .free) ∧
  (∀ s host v, Claims.Primary s host → s.time.phase ≠ .free →
    ∃ t, exec (.tsethiWrite host v) s = .next t ∧ Claims.Refused s t 0x0902 0)

/-- R443: an INFO or CORRECTED fault with the code, unit and detail of a record written less than 1 ms earlier is counted
and not written; the next record of the combination carries the count in `SUPPR`; CONTAINED and FATAL faults are always
written. -/
def Obligations.LogSuppressesRepeats : Prop :=
  (∀ s f, classOf f.code ≤ 1 → f.code < 2 ^ 16 → f.detail < 2 ^ 8 → suppressed s f = false →
    (record s f).log.next = s.log.next + 1 ∧
    suppressOf (record s f) f = some ⟨BitVec.ofNat 16 f.code, f.unit, BitVec.ofNat 8 f.detail, s.clk, 0⟩) ∧
  (∀ s f e, classOf f.code ≤ 1 → suppressOf s f = some e → s.clk < e.at_ + 1200000 →
    record s f = { s with log := { s.log with suppress := (record s f).log.suppress } } ∧
    suppressOf (record s f) f = some { e with count := e.count + 1 } ∧
    ∀ g, (g.code ≠ f.code ∨ g.unit ≠ f.unit ∨ g.detail ≠ f.detail) → suppressOf (record s f) g = suppressOf s g) ∧
  (∀ s f e, suppressOf s f = some e → e.at_ + 1200000 ≤ s.clk → s.log.ringUp = false → s.log.early.length < 256 →
    (record s f).log.next = s.log.next + 1 ∧
    ∃ r, r ∈ thisCycle (record s f) ∧ r.code = BitVec.ofNat 16 f.code ∧ r.unit = f.unit ∧ r.detail = BitVec.ofNat 8 f.detail ∧
      r.suppr = BitVec.ofNat 16 (min e.count 0xFFFF) ∧
      ((∀ q, q ∈ thisCycle s → outranks (recordOf s f) q = false) →
        (record s f).log.early = s.log.early ++ [r] ∧ r.lseq = s.log.next)) ∧
  (∀ s f, 2 ≤ classOf f.code → (record s f).log.next = s.log.next + 1)
end

