-- ==== Sys2Proof/Laws/Tables.lean ====
section
/-! SUPPORT. Laws of the sparse tables and of byte memory: a read after a write, what a write leaves alone, and that
every memory operation keeps the canonical form. -/

namespace Sys2Proof.Machine

/-! ### Sparse tables -/

theorem tget?_tset {α : Type} (t : Table α) (k j : Nat) (v : α) :
    tget? (tset t k v) j = if j = k then some v else tget? t j := by
  induction t with
  | nil =>
    by_cases h : j = k
    · simp [tset, tget?, h]
    · simp [tset, tget?, h, Ne.symm h]
  | cons p r ih =>
    obtain ⟨a, x⟩ := p
    simp only [tset]
    split
    · by_cases h : j = k
      · simp [tget?, h]
      · simp [tget?, h, Ne.symm h]
    · split
      · subst_vars
        by_cases h : j = a
        · simp [tget?, h]
        · simp [tget?, h, Ne.symm h]
      · by_cases h : a = j <;> by_cases h2 : j = k <;> simp_all [tget?]

@[simp] theorem tget?_tset_self {α : Type} (t : Table α) (k : Nat) (v : α) : tget? (tset t k v) k = some v := by
  simp [tget?_tset]

/-- A read after a write. -/
theorem tget_tset {α : Type} (t : Table α) (k j : Nat) (v d : α) :
    tget (tset t k v) j d = if j = k then v else tget t j d := by
  simp only [tget, tget?_tset]
  split <;> simp

@[simp] theorem tget_tset_self {α : Type} (t : Table α) (k : Nat) (v d : α) : tget (tset t k v) k d = v := by
  simp [tget_tset]

@[simp] theorem tget_tset_ne {α : Type} (t : Table α) {k j : Nat} (v d : α) (h : j ≠ k) :
    tget (tset t k v) j d = tget t j d := by
  simp [tget_tset, h]

@[simp] theorem tget_tmod_self {α : Type} (t : Table α) (k : Nat) (d : α) (f : α → α) :
    tget (tmod t k d f) k d = f (tget t k d) := by
  simp [tmod]

@[simp] theorem tget_tmod_ne {α : Type} (t : Table α) {k j : Nat} (d : α) (f : α → α) (h : j ≠ k) :
    tget (tmod t k d f) j d = tget t j d := by
  simp [tmod, h]

theorem tget?_tdel {α : Type} (t : Table α) (k j : Nat) :
    tget? (tdel t k) j = if j = k then none else tget? t j := by
  induction t with
  | nil => simp [tdel, tget?]
  | cons p r ih =>
    obtain ⟨a, x⟩ := p
    simp only [tdel] at ih
    by_cases hk : a = k
    · subst hk
      by_cases hj : j = a
      · simp_all [tdel]
      · simp_all [tdel, tget?, Ne.symm hj]
    · by_cases hj : a = j
      · subst hj
        simp_all [tdel, tget?]
      · simp_all [tdel, tget?]

@[simp] theorem tget_tdel_self {α : Type} (t : Table α) (k : Nat) (d : α) : tget (tdel t k) k d = d := by
  simp [tget, tget?_tdel]

@[simp] theorem tget_tdel_ne {α : Type} (t : Table α) {k j : Nat} (d : α) (h : j ≠ k) :
    tget (tdel t k) j d = tget t j d := by
  simp [tget, tget?_tdel, h]

/-- What a property of every listed value becomes when a value is listed. -/
theorem all_tset {α : Type} (p : Nat × α → Bool) (t : Table α) (k : Nat) (v : α)
    (h : t.all p = true) (hv : p (k, v) = true) : (tset t k v).all p = true := by
  induction t with
  | nil => simp [tset, hv]
  | cons q r ih =>
    obtain ⟨a, x⟩ := q
    simp only [List.all_cons, Bool.and_eq_true] at h
    simp only [tset]
    split
    · simp_all
    · split <;> simp_all

/-- A property of every listed value, read at a number, with the default for an unlisted one. -/
theorem tget_of_all {α : Type} (p : α → Bool) (t : Table α) (k : Nat) (d : α)
    (h : t.all (fun q => p q.2) = true) (hd : p d = true) : p (tget t k d) = true := by
  induction t with
  | nil => simpa [tget, tget?] using hd
  | cons q r ih =>
    obtain ⟨a, x⟩ := q
    simp only [List.all_cons, Bool.and_eq_true] at h
    by_cases hk : a = k
    · simpa [tget, tget?, hk] using h.1
    · simpa [tget, tget?, hk] using ih h.2

/-! ### Byte memory -/

/-- An address below the first listed one reads as unlisted. -/
theorem memByte_low (d : Byte) (m : Mem) (lo c : Nat) (h : Mem.wfFrom d lo m = true) (hc : c < lo) :
    memByte d m c = d := by
  induction m generalizing lo with
  | nil => rfl
  | cons e q ih =>
    obtain ⟨y, w⟩ := e
    simp only [Mem.wfFrom, Bool.and_eq_true, decide_eq_true_eq] at h
    simp only [memByte]
    rw [if_neg (by omega)]
    exact ih (y + 1) h.2 (by omega)

/-- Storing a byte in a canonical memory: the byte is read back, and every other address reads as before. -/
theorem memByte_memSet (d : Byte) (m : Mem) (lo a c : Nat) (b : Byte) (h : Mem.wfFrom d lo m = true) :
    memByte d (memSet d m a b) c = if c = a then b else memByte d m c := by
  induction m generalizing lo with
  | nil =>
    by_cases hb : b = d
    · by_cases hc : c = a <;> simp [memSet, memByte, hb]
    · by_cases hc : c = a
      · simp [memSet, memByte, hb, hc]
      · simp [memSet, memByte, hb, hc, Ne.symm hc]
  | cons p r ih =>
    obtain ⟨x, v⟩ := p
    simp only [Mem.wfFrom, Bool.and_eq_true, decide_eq_true_eq] at h
    obtain ⟨⟨h1, h2⟩, h3⟩ := h
    simp only [memSet]
    by_cases hax : a < x
    · by_cases hb : b = d
      · by_cases hc : c = a
        · subst hc hb
          simp only [if_pos hax, if_true, memByte]
          rw [if_neg (by omega)]
          exact memByte_low _ r (x + 1) c h3 (by omega)
        · simp [hax, hb, hc]
      · by_cases hc : c = a
        · simp [hax, hb, hc, memByte]
        · simp [hax, hb, hc, memByte, Ne.symm hc]
    · by_cases hae : a = x
      · subst hae
        by_cases hb : b = d
        · by_cases hc : c = a
          · subst hc hb
            simp only [Nat.lt_irrefl, if_false, if_true]
            exact memByte_low _ r (c + 1) c h3 (by omega)
          · simp [hb, hc, memByte, Ne.symm hc]
        · by_cases hc : c = a
          · simp [hb, hc, memByte]
          · simp [hb, hc, memByte, Ne.symm hc]
      · simp only [if_neg hax, if_neg hae, memByte]
        by_cases hc : x = c
        · simp only [if_pos hc]
          rw [if_neg (by omega)]
        · simp only [if_neg hc]
          exact ih (x + 1) h3

theorem wfFrom_mono (d : Byte) (m : Mem) (a b : Nat) (h : Mem.wfFrom d b m = true) (hab : a ≤ b) :
    Mem.wfFrom d a m = true := by
  cases m with
  | nil => rfl
  | cons p r =>
    obtain ⟨x, v⟩ := p
    simp only [Mem.wfFrom, Bool.and_eq_true, decide_eq_true_eq] at h ⊢
    exact ⟨⟨by omega, h.1.2⟩, h.2⟩

theorem memSet_wfFrom (d : Byte) (m : Mem) (lo a : Nat) (b : Byte) (h : Mem.wfFrom d lo m = true) (ha : lo ≤ a) :
    Mem.wfFrom d lo (memSet d m a b) = true := by
  induction m generalizing lo with
  | nil => by_cases hb : b = d <;> simp_all [memSet, Mem.wfFrom]
  | cons p r ih =>
    obtain ⟨x, v⟩ := p
    simp only [Mem.wfFrom, Bool.and_eq_true, decide_eq_true_eq] at h
    obtain ⟨⟨h1, h2⟩, h3⟩ := h
    simp only [memSet]
    split
    · split
      · simp [Mem.wfFrom, h1, h2, h3]
      · simp only [Mem.wfFrom, Bool.and_eq_true, decide_eq_true_eq]
        exact ⟨⟨ha, by assumption⟩, ⟨by omega, h2⟩, h3⟩
    · split
      · split
        · exact wfFrom_mono d r lo (x + 1) h3 (by omega)
        · simp only [Mem.wfFrom, Bool.and_eq_true, decide_eq_true_eq]
          subst_vars
          exact ⟨⟨by omega, by assumption⟩, h3⟩
      · simp only [Mem.wfFrom, Bool.and_eq_true, decide_eq_true_eq]
        exact ⟨⟨h1, h2⟩, ih (x + 1) h3 (by omega)⟩

/-- Storing one byte keeps the canonical form. -/
theorem memSet_wf (d : Byte) (m : Mem) (a : Nat) (b : Byte) (h : Mem.wf d m = true) : Mem.wf d (memSet d m a b) = true :=
  memSet_wfFrom d m 0 a b h (Nat.zero_le a)

/-- Storing bytes keeps the canonical form. -/
theorem memWrite_wf (d : Byte) (b : Bytes) (m : Mem) (a : Nat) (h : Mem.wf d m = true) :
    Mem.wf d (memWrite d m a b) = true := by
  induction b generalizing m a with
  | nil => exact h
  | cons x r ih => exact ih (memSet d m a x) (a + 1) (memSet_wf d m a x h)

theorem filter_wfFrom (d : Byte) (p : Host.Cell → Bool) (m : Mem) (lo : Nat) (h : Mem.wfFrom d lo m = true) :
    Mem.wfFrom d lo (m.filter p) = true := by
  induction m generalizing lo with
  | nil => rfl
  | cons q r ih =>
    obtain ⟨x, v⟩ := q
    simp only [Mem.wfFrom, Bool.and_eq_true, decide_eq_true_eq] at h
    simp only [List.filter_cons]
    split
    · simp only [Mem.wfFrom, Bool.and_eq_true, decide_eq_true_eq]
      exact ⟨h.1, ih (x + 1) h.2⟩
    · exact wfFrom_mono d _ lo (x + 1) (ih (x + 1) h.2) (by omega)

/-- Clearing a run keeps the canonical form. -/
theorem memClear_wf (d : Byte) (m : Mem) (a n : Nat) (h : Mem.wf d m = true) : Mem.wf d (memClear m a n) = true :=
  filter_wfFrom d _ m 0 h

/-- Storing bytes leaves every address outside them as it was. -/
theorem memByte_memWrite_outside (d : Byte) (b : Bytes) (m : Mem) (a c : Nat) (h : Mem.wf d m = true)
    (hc : c < a ∨ a + b.length ≤ c) : memByte d (memWrite d m a b) c = memByte d m c := by
  induction b generalizing m a with
  | nil => rfl
  | cons x r ih =>
    simp only [List.length_cons] at hc
    simp only [memWrite]
    rw [ih (memSet d m a x) (a + 1) (memSet_wf d m a x h) (by omega), memByte_memSet d m 0 a c x h, if_neg (by omega)]

/-- Bytes just stored are read back. -/
theorem memRead_memWrite (d : Byte) (b : Bytes) (m : Mem) (a : Nat) (h : Mem.wf d m = true) :
    memRead d (memWrite d m a b) a b.length = b := by
  induction b generalizing m a with
  | nil => rfl
  | cons x r ih =>
    simp only [memWrite, List.length_cons, memRead]
    rw [ih (memSet d m a x) (a + 1) (memSet_wf d m a x h),
      memByte_memWrite_outside d r (memSet d m a x) (a + 1) a (memSet_wf d m a x h) (by omega),
      memByte_memSet d m 0 a a x h, if_pos rfl]

end Sys2Proof.Machine
end

