-- ==== Sys2Proof/Laws/State.lean ====
section
/-! SUPPORT. Laws of the state's accessors: what a unit reads as after it or another was replaced, and one lemma per
field for every named update. -/

namespace Sys2Proof.Machine

/-! ### Reading a unit after a replacement -/

theorem State.tile_setTile (s : State) (k j : Nat) (x : Tile) : (s.setTile k x).tile j = if j = k then x else s.tile j := by
  simp [State.tile, State.setTile, tget_tset]

@[simp] theorem State.tile_setTile_self (s : State) (k : Nat) (x : Tile) : (s.setTile k x).tile k = x := by
  simp [State.tile_setTile]

@[simp] theorem State.tile_setTile_ne (s : State) {k j : Nat} (x : Tile) (h : j ≠ k) : (s.setTile k x).tile j = s.tile j := by
  simp [State.tile_setTile, h]

theorem State.port_setPort (s : State) (k j : Nat) (x : Port) : (s.setPort k x).port j = if j = k then x else s.port j := by
  simp [State.port, State.setPort, tget_tset]

@[simp] theorem State.port_setPort_self (s : State) (k : Nat) (x : Port) : (s.setPort k x).port k = x := by
  simp [State.port_setPort]

@[simp] theorem State.port_setPort_ne (s : State) {k j : Nat} (x : Port) (h : j ≠ k) : (s.setPort k x).port j = s.port j := by
  simp [State.port_setPort, h]

theorem State.ring_setRing (s : State) (k j : Nat) (x : RingPair) : (s.setRing k x).ring j = if j = k then x else s.ring j := by
  simp [State.ring, State.setRing, tget_tset]

@[simp] theorem State.ring_setRing_self (s : State) (k : Nat) (x : RingPair) : (s.setRing k x).ring k = x := by
  simp [State.ring_setRing]

@[simp] theorem State.ring_setRing_ne (s : State) {k j : Nat} (x : RingPair) (h : j ≠ k) : (s.setRing k x).ring j = s.ring j := by
  simp [State.ring_setRing, h]

theorem State.hport_setHport (s : State) (k j : Nat) (x : HostPort) : (s.setHport k x).hport j = if j = k then x else s.hport j := by
  simp [State.hport, State.setHport, tget_tset]

@[simp] theorem State.hport_setHport_self (s : State) (k : Nat) (x : HostPort) : (s.setHport k x).hport k = x := by
  simp [State.hport_setHport]

@[simp] theorem State.hport_setHport_ne (s : State) {k j : Nat} (x : HostPort) (h : j ≠ k) : (s.setHport k x).hport j = s.hport j := by
  simp [State.hport_setHport, h]

theorem State.bucket_setBucket (s : State) (k j : Nat) (x : Bucket) : (s.setBucket k x).bucket j = if j = k then x else s.bucket j := by
  simp [State.bucket, State.setBucket, tget_tset]

@[simp] theorem State.bucket_setBucket_self (s : State) (k : Nat) (x : Bucket) : (s.setBucket k x).bucket k = x := by
  simp [State.bucket_setBucket]

@[simp] theorem State.bucket_setBucket_ne (s : State) {k j : Nat} (x : Bucket) (h : j ≠ k) : (s.setBucket k x).bucket j = s.bucket j := by
  simp [State.bucket_setBucket, h]

theorem State.snapSet_setSnap (s : State) (k j : Nat) (x : SnapSet) : (s.setSnap k x).snapSet j = if j = k then x else s.snapSet j := by
  simp [State.snapSet, State.setSnap, tget_tset]

@[simp] theorem State.snapSet_setSnap_self (s : State) (k : Nat) (x : SnapSet) : (s.setSnap k x).snapSet k = x := by
  simp [State.snapSet_setSnap]

@[simp] theorem State.snapSet_setSnap_ne (s : State) {k j : Nat} (x : SnapSet) (h : j ≠ k) : (s.setSnap k x).snapSet j = s.snapSet j := by
  simp [State.snapSet_setSnap, h]

theorem State.stack_setStack (s : State) (k j : Nat) (x : Stack) : (s.setStack k x).stack j = if j = k then x else s.stack j := by
  simp [State.stack, State.setStack, tget_tset]

@[simp] theorem State.stack_setStack_self (s : State) (k : Nat) (x : Stack) : (s.setStack k x).stack k = x := by
  simp [State.stack_setStack]

@[simp] theorem State.stack_setStack_ne (s : State) {k j : Nat} (x : Stack) (h : j ≠ k) : (s.setStack k x).stack j = s.stack j := by
  simp [State.stack_setStack, h]

/-! ### Reading a unit after another kind was replaced -/

@[simp] theorem State.port_setTile (s : State) (k j : Nat) (x : Tile) : (s.setTile k x).port j = s.port j := rfl
@[simp] theorem State.ring_setTile (s : State) (k j : Nat) (x : Tile) : (s.setTile k x).ring j = s.ring j := rfl
@[simp] theorem State.hport_setTile (s : State) (k j : Nat) (x : Tile) : (s.setTile k x).hport j = s.hport j := rfl
@[simp] theorem State.bucket_setTile (s : State) (k j : Nat) (x : Tile) : (s.setTile k x).bucket j = s.bucket j := rfl
@[simp] theorem State.snapSet_setTile (s : State) (k j : Nat) (x : Tile) : (s.setTile k x).snapSet j = s.snapSet j := rfl
@[simp] theorem State.stack_setTile (s : State) (k j : Nat) (x : Tile) : (s.setTile k x).stack j = s.stack j := rfl

@[simp] theorem State.tile_setPort (s : State) (k j : Nat) (x : Port) : (s.setPort k x).tile j = s.tile j := rfl
@[simp] theorem State.ring_setPort (s : State) (k j : Nat) (x : Port) : (s.setPort k x).ring j = s.ring j := rfl
@[simp] theorem State.hport_setPort (s : State) (k j : Nat) (x : Port) : (s.setPort k x).hport j = s.hport j := rfl
@[simp] theorem State.bucket_setPort (s : State) (k j : Nat) (x : Port) : (s.setPort k x).bucket j = s.bucket j := rfl
@[simp] theorem State.snapSet_setPort (s : State) (k j : Nat) (x : Port) : (s.setPort k x).snapSet j = s.snapSet j := rfl
@[simp] theorem State.stack_setPort (s : State) (k j : Nat) (x : Port) : (s.setPort k x).stack j = s.stack j := rfl

@[simp] theorem State.tile_setRing (s : State) (k j : Nat) (x : RingPair) : (s.setRing k x).tile j = s.tile j := rfl
@[simp] theorem State.port_setRing (s : State) (k j : Nat) (x : RingPair) : (s.setRing k x).port j = s.port j := rfl
@[simp] theorem State.hport_setRing (s : State) (k j : Nat) (x : RingPair) : (s.setRing k x).hport j = s.hport j := rfl
@[simp] theorem State.bucket_setRing (s : State) (k j : Nat) (x : RingPair) : (s.setRing k x).bucket j = s.bucket j := rfl
@[simp] theorem State.snapSet_setRing (s : State) (k j : Nat) (x : RingPair) : (s.setRing k x).snapSet j = s.snapSet j := rfl
@[simp] theorem State.stack_setRing (s : State) (k j : Nat) (x : RingPair) : (s.setRing k x).stack j = s.stack j := rfl

@[simp] theorem State.tile_setHport (s : State) (k j : Nat) (x : HostPort) : (s.setHport k x).tile j = s.tile j := rfl
@[simp] theorem State.port_setHport (s : State) (k j : Nat) (x : HostPort) : (s.setHport k x).port j = s.port j := rfl
@[simp] theorem State.ring_setHport (s : State) (k j : Nat) (x : HostPort) : (s.setHport k x).ring j = s.ring j := rfl
@[simp] theorem State.bucket_setHport (s : State) (k j : Nat) (x : HostPort) : (s.setHport k x).bucket j = s.bucket j := rfl
@[simp] theorem State.snapSet_setHport (s : State) (k j : Nat) (x : HostPort) : (s.setHport k x).snapSet j = s.snapSet j := rfl
@[simp] theorem State.stack_setHport (s : State) (k j : Nat) (x : HostPort) : (s.setHport k x).stack j = s.stack j := rfl

@[simp] theorem State.tile_setBucket (s : State) (k j : Nat) (x : Bucket) : (s.setBucket k x).tile j = s.tile j := rfl
@[simp] theorem State.port_setBucket (s : State) (k j : Nat) (x : Bucket) : (s.setBucket k x).port j = s.port j := rfl
@[simp] theorem State.ring_setBucket (s : State) (k j : Nat) (x : Bucket) : (s.setBucket k x).ring j = s.ring j := rfl
@[simp] theorem State.hport_setBucket (s : State) (k j : Nat) (x : Bucket) : (s.setBucket k x).hport j = s.hport j := rfl
@[simp] theorem State.snapSet_setBucket (s : State) (k j : Nat) (x : Bucket) : (s.setBucket k x).snapSet j = s.snapSet j := rfl
@[simp] theorem State.stack_setBucket (s : State) (k j : Nat) (x : Bucket) : (s.setBucket k x).stack j = s.stack j := rfl

@[simp] theorem State.tile_setSnap (s : State) (k j : Nat) (x : SnapSet) : (s.setSnap k x).tile j = s.tile j := rfl
@[simp] theorem State.port_setSnap (s : State) (k j : Nat) (x : SnapSet) : (s.setSnap k x).port j = s.port j := rfl
@[simp] theorem State.ring_setSnap (s : State) (k j : Nat) (x : SnapSet) : (s.setSnap k x).ring j = s.ring j := rfl
@[simp] theorem State.hport_setSnap (s : State) (k j : Nat) (x : SnapSet) : (s.setSnap k x).hport j = s.hport j := rfl
@[simp] theorem State.bucket_setSnap (s : State) (k j : Nat) (x : SnapSet) : (s.setSnap k x).bucket j = s.bucket j := rfl
@[simp] theorem State.stack_setSnap (s : State) (k j : Nat) (x : SnapSet) : (s.setSnap k x).stack j = s.stack j := rfl

@[simp] theorem State.tile_setStack (s : State) (k j : Nat) (x : Stack) : (s.setStack k x).tile j = s.tile j := rfl
@[simp] theorem State.port_setStack (s : State) (k j : Nat) (x : Stack) : (s.setStack k x).port j = s.port j := rfl
@[simp] theorem State.ring_setStack (s : State) (k j : Nat) (x : Stack) : (s.setStack k x).ring j = s.ring j := rfl
@[simp] theorem State.hport_setStack (s : State) (k j : Nat) (x : Stack) : (s.setStack k x).hport j = s.hport j := rfl
@[simp] theorem State.bucket_setStack (s : State) (k j : Nat) (x : Stack) : (s.setStack k x).bucket j = s.bucket j := rfl
@[simp] theorem State.snapSet_setStack (s : State) (k j : Nat) (x : Stack) : (s.setStack k x).snapSet j = s.snapSet j := rfl

/-! ### One lemma per field per update -/

@[simp] theorem State.setTile_clk (s : State) (k : Nat) (x : Tile) : (s.setTile k x).clk = s.clk := rfl
@[simp] theorem State.setTile_free (s : State) (k : Nat) (x : Tile) : (s.setTile k x).free = s.free := rfl
@[simp] theorem State.setTile_reqs (s : State) (k : Nat) (x : Tile) : (s.setTile k x).reqs = s.reqs := rfl
@[simp] theorem State.setTile_nextReq (s : State) (k : Nat) (x : Tile) : (s.setTile k x).nextReq = s.nextReq := rfl
@[simp] theorem State.setTile_edges (s : State) (k : Nat) (x : Tile) : (s.setTile k x).edges = s.edges := rfl
@[simp] theorem State.setTile_hbm (s : State) (k : Nat) (x : Tile) : (s.setTile k x).hbm = s.hbm := rfl
@[simp] theorem State.setTile_fab (s : State) (k : Nat) (x : Tile) : (s.setTile k x).fab = s.fab := rfl
@[simp] theorem State.setTile_red (s : State) (k : Nat) (x : Tile) : (s.setTile k x).red = s.red := rfl
@[simp] theorem State.setTile_job (s : State) (k : Nat) (x : Tile) : (s.setTile k x).job = s.job := rfl
@[simp] theorem State.setTile_cmd (s : State) (k : Nat) (x : Tile) : (s.setTile k x).cmd = s.cmd := rfl
@[simp] theorem State.setTile_snap (s : State) (k : Nat) (x : Tile) : (s.setTile k x).snap = s.snap := rfl
@[simp] theorem State.setTile_pwr (s : State) (k : Nat) (x : Tile) : (s.setTile k x).pwr = s.pwr := rfl
@[simp] theorem State.setTile_time (s : State) (k : Nat) (x : Tile) : (s.setTile k x).time = s.time := rfl
@[simp] theorem State.setTile_log (s : State) (k : Nat) (x : Tile) : (s.setTile k x).log = s.log := rfl
@[simp] theorem State.setTile_sec (s : State) (k : Nat) (x : Tile) : (s.setTile k x).sec = s.sec := rfl
@[simp] theorem State.setTile_host (s : State) (k : Nat) (x : Tile) : (s.setTile k x).host = s.host := rfl
@[simp] theorem State.setTile_pins (s : State) (k : Nat) (x : Tile) : (s.setTile k x).pins = s.pins := rfl
@[simp] theorem State.setTile_out (s : State) (k : Nat) (x : Tile) : (s.setTile k x).out = s.out := rfl
@[simp] theorem State.setTile_pending (s : State) (k : Nat) (x : Tile) : (s.setTile k x).pending = s.pending := rfl

@[simp] theorem State.setPort_clk (s : State) (k : Nat) (x : Port) : (s.setPort k x).clk = s.clk := rfl
@[simp] theorem State.setPort_free (s : State) (k : Nat) (x : Port) : (s.setPort k x).free = s.free := rfl
@[simp] theorem State.setPort_tiles (s : State) (k : Nat) (x : Port) : (s.setPort k x).tiles = s.tiles := rfl
@[simp] theorem State.setPort_reqs (s : State) (k : Nat) (x : Port) : (s.setPort k x).reqs = s.reqs := rfl
@[simp] theorem State.setPort_nextReq (s : State) (k : Nat) (x : Port) : (s.setPort k x).nextReq = s.nextReq := rfl
@[simp] theorem State.setPort_edges (s : State) (k : Nat) (x : Port) : (s.setPort k x).edges = s.edges := rfl
@[simp] theorem State.setPort_hbm (s : State) (k : Nat) (x : Port) : (s.setPort k x).hbm = s.hbm := rfl
@[simp] theorem State.setPort_red (s : State) (k : Nat) (x : Port) : (s.setPort k x).red = s.red := rfl
@[simp] theorem State.setPort_job (s : State) (k : Nat) (x : Port) : (s.setPort k x).job = s.job := rfl
@[simp] theorem State.setPort_cmd (s : State) (k : Nat) (x : Port) : (s.setPort k x).cmd = s.cmd := rfl
@[simp] theorem State.setPort_snap (s : State) (k : Nat) (x : Port) : (s.setPort k x).snap = s.snap := rfl
@[simp] theorem State.setPort_pwr (s : State) (k : Nat) (x : Port) : (s.setPort k x).pwr = s.pwr := rfl
@[simp] theorem State.setPort_time (s : State) (k : Nat) (x : Port) : (s.setPort k x).time = s.time := rfl
@[simp] theorem State.setPort_log (s : State) (k : Nat) (x : Port) : (s.setPort k x).log = s.log := rfl
@[simp] theorem State.setPort_sec (s : State) (k : Nat) (x : Port) : (s.setPort k x).sec = s.sec := rfl
@[simp] theorem State.setPort_host (s : State) (k : Nat) (x : Port) : (s.setPort k x).host = s.host := rfl
@[simp] theorem State.setPort_pins (s : State) (k : Nat) (x : Port) : (s.setPort k x).pins = s.pins := rfl
@[simp] theorem State.setPort_out (s : State) (k : Nat) (x : Port) : (s.setPort k x).out = s.out := rfl
@[simp] theorem State.setPort_pending (s : State) (k : Nat) (x : Port) : (s.setPort k x).pending = s.pending := rfl

@[simp] theorem State.setRing_clk (s : State) (k : Nat) (x : RingPair) : (s.setRing k x).clk = s.clk := rfl
@[simp] theorem State.setRing_free (s : State) (k : Nat) (x : RingPair) : (s.setRing k x).free = s.free := rfl
@[simp] theorem State.setRing_tiles (s : State) (k : Nat) (x : RingPair) : (s.setRing k x).tiles = s.tiles := rfl
@[simp] theorem State.setRing_reqs (s : State) (k : Nat) (x : RingPair) : (s.setRing k x).reqs = s.reqs := rfl
@[simp] theorem State.setRing_nextReq (s : State) (k : Nat) (x : RingPair) : (s.setRing k x).nextReq = s.nextReq := rfl
@[simp] theorem State.setRing_edges (s : State) (k : Nat) (x : RingPair) : (s.setRing k x).edges = s.edges := rfl
@[simp] theorem State.setRing_hbm (s : State) (k : Nat) (x : RingPair) : (s.setRing k x).hbm = s.hbm := rfl
@[simp] theorem State.setRing_fab (s : State) (k : Nat) (x : RingPair) : (s.setRing k x).fab = s.fab := rfl
@[simp] theorem State.setRing_red (s : State) (k : Nat) (x : RingPair) : (s.setRing k x).red = s.red := rfl
@[simp] theorem State.setRing_job (s : State) (k : Nat) (x : RingPair) : (s.setRing k x).job = s.job := rfl
@[simp] theorem State.setRing_snap (s : State) (k : Nat) (x : RingPair) : (s.setRing k x).snap = s.snap := rfl
@[simp] theorem State.setRing_pwr (s : State) (k : Nat) (x : RingPair) : (s.setRing k x).pwr = s.pwr := rfl
@[simp] theorem State.setRing_time (s : State) (k : Nat) (x : RingPair) : (s.setRing k x).time = s.time := rfl
@[simp] theorem State.setRing_log (s : State) (k : Nat) (x : RingPair) : (s.setRing k x).log = s.log := rfl
@[simp] theorem State.setRing_sec (s : State) (k : Nat) (x : RingPair) : (s.setRing k x).sec = s.sec := rfl
@[simp] theorem State.setRing_host (s : State) (k : Nat) (x : RingPair) : (s.setRing k x).host = s.host := rfl
@[simp] theorem State.setRing_pins (s : State) (k : Nat) (x : RingPair) : (s.setRing k x).pins = s.pins := rfl
@[simp] theorem State.setRing_out (s : State) (k : Nat) (x : RingPair) : (s.setRing k x).out = s.out := rfl
@[simp] theorem State.setRing_pending (s : State) (k : Nat) (x : RingPair) : (s.setRing k x).pending = s.pending := rfl

@[simp] theorem State.setHport_clk (s : State) (k : Nat) (x : HostPort) : (s.setHport k x).clk = s.clk := rfl
@[simp] theorem State.setHport_free (s : State) (k : Nat) (x : HostPort) : (s.setHport k x).free = s.free := rfl
@[simp] theorem State.setHport_tiles (s : State) (k : Nat) (x : HostPort) : (s.setHport k x).tiles = s.tiles := rfl
@[simp] theorem State.setHport_reqs (s : State) (k : Nat) (x : HostPort) : (s.setHport k x).reqs = s.reqs := rfl
@[simp] theorem State.setHport_nextReq (s : State) (k : Nat) (x : HostPort) : (s.setHport k x).nextReq = s.nextReq := rfl
@[simp] theorem State.setHport_edges (s : State) (k : Nat) (x : HostPort) : (s.setHport k x).edges = s.edges := rfl
@[simp] theorem State.setHport_hbm (s : State) (k : Nat) (x : HostPort) : (s.setHport k x).hbm = s.hbm := rfl
@[simp] theorem State.setHport_fab (s : State) (k : Nat) (x : HostPort) : (s.setHport k x).fab = s.fab := rfl
@[simp] theorem State.setHport_red (s : State) (k : Nat) (x : HostPort) : (s.setHport k x).red = s.red := rfl
@[simp] theorem State.setHport_job (s : State) (k : Nat) (x : HostPort) : (s.setHport k x).job = s.job := rfl
@[simp] theorem State.setHport_cmd (s : State) (k : Nat) (x : HostPort) : (s.setHport k x).cmd = s.cmd := rfl
@[simp] theorem State.setHport_snap (s : State) (k : Nat) (x : HostPort) : (s.setHport k x).snap = s.snap := rfl
@[simp] theorem State.setHport_pwr (s : State) (k : Nat) (x : HostPort) : (s.setHport k x).pwr = s.pwr := rfl
@[simp] theorem State.setHport_time (s : State) (k : Nat) (x : HostPort) : (s.setHport k x).time = s.time := rfl
@[simp] theorem State.setHport_log (s : State) (k : Nat) (x : HostPort) : (s.setHport k x).log = s.log := rfl
@[simp] theorem State.setHport_sec (s : State) (k : Nat) (x : HostPort) : (s.setHport k x).sec = s.sec := rfl
@[simp] theorem State.setHport_pins (s : State) (k : Nat) (x : HostPort) : (s.setHport k x).pins = s.pins := rfl
@[simp] theorem State.setHport_out (s : State) (k : Nat) (x : HostPort) : (s.setHport k x).out = s.out := rfl
@[simp] theorem State.setHport_pending (s : State) (k : Nat) (x : HostPort) : (s.setHport k x).pending = s.pending := rfl

@[simp] theorem State.setBucket_clk (s : State) (k : Nat) (x : Bucket) : (s.setBucket k x).clk = s.clk := rfl
@[simp] theorem State.setBucket_free (s : State) (k : Nat) (x : Bucket) : (s.setBucket k x).free = s.free := rfl
@[simp] theorem State.setBucket_tiles (s : State) (k : Nat) (x : Bucket) : (s.setBucket k x).tiles = s.tiles := rfl
@[simp] theorem State.setBucket_reqs (s : State) (k : Nat) (x : Bucket) : (s.setBucket k x).reqs = s.reqs := rfl
@[simp] theorem State.setBucket_nextReq (s : State) (k : Nat) (x : Bucket) : (s.setBucket k x).nextReq = s.nextReq := rfl
@[simp] theorem State.setBucket_edges (s : State) (k : Nat) (x : Bucket) : (s.setBucket k x).edges = s.edges := rfl
@[simp] theorem State.setBucket_hbm (s : State) (k : Nat) (x : Bucket) : (s.setBucket k x).hbm = s.hbm := rfl
@[simp] theorem State.setBucket_fab (s : State) (k : Nat) (x : Bucket) : (s.setBucket k x).fab = s.fab := rfl
@[simp] theorem State.setBucket_job (s : State) (k : Nat) (x : Bucket) : (s.setBucket k x).job = s.job := rfl
@[simp] theorem State.setBucket_cmd (s : State) (k : Nat) (x : Bucket) : (s.setBucket k x).cmd = s.cmd := rfl
@[simp] theorem State.setBucket_snap (s : State) (k : Nat) (x : Bucket) : (s.setBucket k x).snap = s.snap := rfl
@[simp] theorem State.setBucket_pwr (s : State) (k : Nat) (x : Bucket) : (s.setBucket k x).pwr = s.pwr := rfl
@[simp] theorem State.setBucket_time (s : State) (k : Nat) (x : Bucket) : (s.setBucket k x).time = s.time := rfl
@[simp] theorem State.setBucket_log (s : State) (k : Nat) (x : Bucket) : (s.setBucket k x).log = s.log := rfl
@[simp] theorem State.setBucket_sec (s : State) (k : Nat) (x : Bucket) : (s.setBucket k x).sec = s.sec := rfl
@[simp] theorem State.setBucket_host (s : State) (k : Nat) (x : Bucket) : (s.setBucket k x).host = s.host := rfl
@[simp] theorem State.setBucket_pins (s : State) (k : Nat) (x : Bucket) : (s.setBucket k x).pins = s.pins := rfl
@[simp] theorem State.setBucket_out (s : State) (k : Nat) (x : Bucket) : (s.setBucket k x).out = s.out := rfl
@[simp] theorem State.setBucket_pending (s : State) (k : Nat) (x : Bucket) : (s.setBucket k x).pending = s.pending := rfl

@[simp] theorem State.setSnap_clk (s : State) (k : Nat) (x : SnapSet) : (s.setSnap k x).clk = s.clk := rfl
@[simp] theorem State.setSnap_free (s : State) (k : Nat) (x : SnapSet) : (s.setSnap k x).free = s.free := rfl
@[simp] theorem State.setSnap_tiles (s : State) (k : Nat) (x : SnapSet) : (s.setSnap k x).tiles = s.tiles := rfl
@[simp] theorem State.setSnap_reqs (s : State) (k : Nat) (x : SnapSet) : (s.setSnap k x).reqs = s.reqs := rfl
@[simp] theorem State.setSnap_nextReq (s : State) (k : Nat) (x : SnapSet) : (s.setSnap k x).nextReq = s.nextReq := rfl
@[simp] theorem State.setSnap_edges (s : State) (k : Nat) (x : SnapSet) : (s.setSnap k x).edges = s.edges := rfl
@[simp] theorem State.setSnap_hbm (s : State) (k : Nat) (x : SnapSet) : (s.setSnap k x).hbm = s.hbm := rfl
@[simp] theorem State.setSnap_fab (s : State) (k : Nat) (x : SnapSet) : (s.setSnap k x).fab = s.fab := rfl
@[simp] theorem State.setSnap_red (s : State) (k : Nat) (x : SnapSet) : (s.setSnap k x).red = s.red := rfl
@[simp] theorem State.setSnap_job (s : State) (k : Nat) (x : SnapSet) : (s.setSnap k x).job = s.job := rfl
@[simp] theorem State.setSnap_cmd (s : State) (k : Nat) (x : SnapSet) : (s.setSnap k x).cmd = s.cmd := rfl
@[simp] theorem State.setSnap_pwr (s : State) (k : Nat) (x : SnapSet) : (s.setSnap k x).pwr = s.pwr := rfl
@[simp] theorem State.setSnap_time (s : State) (k : Nat) (x : SnapSet) : (s.setSnap k x).time = s.time := rfl
@[simp] theorem State.setSnap_log (s : State) (k : Nat) (x : SnapSet) : (s.setSnap k x).log = s.log := rfl
@[simp] theorem State.setSnap_sec (s : State) (k : Nat) (x : SnapSet) : (s.setSnap k x).sec = s.sec := rfl
@[simp] theorem State.setSnap_host (s : State) (k : Nat) (x : SnapSet) : (s.setSnap k x).host = s.host := rfl
@[simp] theorem State.setSnap_pins (s : State) (k : Nat) (x : SnapSet) : (s.setSnap k x).pins = s.pins := rfl
@[simp] theorem State.setSnap_out (s : State) (k : Nat) (x : SnapSet) : (s.setSnap k x).out = s.out := rfl
@[simp] theorem State.setSnap_pending (s : State) (k : Nat) (x : SnapSet) : (s.setSnap k x).pending = s.pending := rfl

@[simp] theorem State.setStack_clk (s : State) (k : Nat) (x : Stack) : (s.setStack k x).clk = s.clk := rfl
@[simp] theorem State.setStack_free (s : State) (k : Nat) (x : Stack) : (s.setStack k x).free = s.free := rfl
@[simp] theorem State.setStack_tiles (s : State) (k : Nat) (x : Stack) : (s.setStack k x).tiles = s.tiles := rfl
@[simp] theorem State.setStack_reqs (s : State) (k : Nat) (x : Stack) : (s.setStack k x).reqs = s.reqs := rfl
@[simp] theorem State.setStack_nextReq (s : State) (k : Nat) (x : Stack) : (s.setStack k x).nextReq = s.nextReq := rfl
@[simp] theorem State.setStack_edges (s : State) (k : Nat) (x : Stack) : (s.setStack k x).edges = s.edges := rfl
@[simp] theorem State.setStack_fab (s : State) (k : Nat) (x : Stack) : (s.setStack k x).fab = s.fab := rfl
@[simp] theorem State.setStack_red (s : State) (k : Nat) (x : Stack) : (s.setStack k x).red = s.red := rfl
@[simp] theorem State.setStack_job (s : State) (k : Nat) (x : Stack) : (s.setStack k x).job = s.job := rfl
@[simp] theorem State.setStack_cmd (s : State) (k : Nat) (x : Stack) : (s.setStack k x).cmd = s.cmd := rfl
@[simp] theorem State.setStack_snap (s : State) (k : Nat) (x : Stack) : (s.setStack k x).snap = s.snap := rfl
@[simp] theorem State.setStack_pwr (s : State) (k : Nat) (x : Stack) : (s.setStack k x).pwr = s.pwr := rfl
@[simp] theorem State.setStack_time (s : State) (k : Nat) (x : Stack) : (s.setStack k x).time = s.time := rfl
@[simp] theorem State.setStack_log (s : State) (k : Nat) (x : Stack) : (s.setStack k x).log = s.log := rfl
@[simp] theorem State.setStack_sec (s : State) (k : Nat) (x : Stack) : (s.setStack k x).sec = s.sec := rfl
@[simp] theorem State.setStack_host (s : State) (k : Nat) (x : Stack) : (s.setStack k x).host = s.host := rfl
@[simp] theorem State.setStack_pins (s : State) (k : Nat) (x : Stack) : (s.setStack k x).pins = s.pins := rfl
@[simp] theorem State.setStack_out (s : State) (k : Nat) (x : Stack) : (s.setStack k x).out = s.out := rfl
@[simp] theorem State.setStack_pending (s : State) (k : Nat) (x : Stack) : (s.setStack k x).pending = s.pending := rfl

@[simp] theorem State.emit_clk (s : State) (o : Out) : (s.emit o).clk = s.clk := rfl
@[simp] theorem State.emit_free (s : State) (o : Out) : (s.emit o).free = s.free := rfl
@[simp] theorem State.emit_tiles (s : State) (o : Out) : (s.emit o).tiles = s.tiles := rfl
@[simp] theorem State.emit_reqs (s : State) (o : Out) : (s.emit o).reqs = s.reqs := rfl
@[simp] theorem State.emit_nextReq (s : State) (o : Out) : (s.emit o).nextReq = s.nextReq := rfl
@[simp] theorem State.emit_edges (s : State) (o : Out) : (s.emit o).edges = s.edges := rfl
@[simp] theorem State.emit_hbm (s : State) (o : Out) : (s.emit o).hbm = s.hbm := rfl
@[simp] theorem State.emit_fab (s : State) (o : Out) : (s.emit o).fab = s.fab := rfl
@[simp] theorem State.emit_red (s : State) (o : Out) : (s.emit o).red = s.red := rfl
@[simp] theorem State.emit_job (s : State) (o : Out) : (s.emit o).job = s.job := rfl
@[simp] theorem State.emit_cmd (s : State) (o : Out) : (s.emit o).cmd = s.cmd := rfl
@[simp] theorem State.emit_snap (s : State) (o : Out) : (s.emit o).snap = s.snap := rfl
@[simp] theorem State.emit_pwr (s : State) (o : Out) : (s.emit o).pwr = s.pwr := rfl
@[simp] theorem State.emit_time (s : State) (o : Out) : (s.emit o).time = s.time := rfl
@[simp] theorem State.emit_log (s : State) (o : Out) : (s.emit o).log = s.log := rfl
@[simp] theorem State.emit_sec (s : State) (o : Out) : (s.emit o).sec = s.sec := rfl
@[simp] theorem State.emit_host (s : State) (o : Out) : (s.emit o).host = s.host := rfl
@[simp] theorem State.emit_pins (s : State) (o : Out) : (s.emit o).pins = s.pins := rfl
@[simp] theorem State.emit_pending (s : State) (o : Out) : (s.emit o).pending = s.pending := rfl
@[simp] theorem State.emit_out (s : State) (o : Out) : (s.emit o).out = o :: s.out := rfl

@[simp] theorem State.tile_emit (s : State) (o : Out) (k : Nat) : (s.emit o).tile k = s.tile k := rfl
@[simp] theorem State.port_emit (s : State) (o : Out) (k : Nat) : (s.emit o).port k = s.port k := rfl
@[simp] theorem State.ring_emit (s : State) (o : Out) (k : Nat) : (s.emit o).ring k = s.ring k := rfl
@[simp] theorem State.hport_emit (s : State) (o : Out) (k : Nat) : (s.emit o).hport k = s.hport k := rfl
@[simp] theorem State.bucket_emit (s : State) (o : Out) (k : Nat) : (s.emit o).bucket k = s.bucket k := rfl
@[simp] theorem State.snapSet_emit (s : State) (o : Out) (k : Nat) : (s.emit o).snapSet k = s.snapSet k := rfl
@[simp] theorem State.stack_emit (s : State) (o : Out) (k : Nat) : (s.emit o).stack k = s.stack k := rfl

@[simp] theorem State.draw_clk (s : State) : s.draw.2.clk = s.clk := rfl
@[simp] theorem State.draw_tiles (s : State) : s.draw.2.tiles = s.tiles := rfl
@[simp] theorem State.draw_reqs (s : State) : s.draw.2.reqs = s.reqs := rfl
@[simp] theorem State.draw_nextReq (s : State) : s.draw.2.nextReq = s.nextReq := rfl
@[simp] theorem State.draw_edges (s : State) : s.draw.2.edges = s.edges := rfl
@[simp] theorem State.draw_hbm (s : State) : s.draw.2.hbm = s.hbm := rfl
@[simp] theorem State.draw_fab (s : State) : s.draw.2.fab = s.fab := rfl
@[simp] theorem State.draw_red (s : State) : s.draw.2.red = s.red := rfl
@[simp] theorem State.draw_job (s : State) : s.draw.2.job = s.job := rfl
@[simp] theorem State.draw_cmd (s : State) : s.draw.2.cmd = s.cmd := rfl
@[simp] theorem State.draw_snap (s : State) : s.draw.2.snap = s.snap := rfl
@[simp] theorem State.draw_pwr (s : State) : s.draw.2.pwr = s.pwr := rfl
@[simp] theorem State.draw_time (s : State) : s.draw.2.time = s.time := rfl
@[simp] theorem State.draw_log (s : State) : s.draw.2.log = s.log := rfl
@[simp] theorem State.draw_sec (s : State) : s.draw.2.sec = s.sec := rfl
@[simp] theorem State.draw_host (s : State) : s.draw.2.host = s.host := rfl
@[simp] theorem State.draw_pins (s : State) : s.draw.2.pins = s.pins := rfl
@[simp] theorem State.draw_out (s : State) : s.draw.2.out = s.out := rfl
@[simp] theorem State.draw_pending (s : State) : s.draw.2.pending = s.pending := rfl

/-! ### Threads and counters -/

@[simp] theorem Thread.reg_zero (th : Thread) : th.reg 0 = 0 := rfl

/-- A register after a write: g0 reads as zero whatever is written to it. -/
theorem Thread.reg_setReg (th : Thread) (n m : Nat) (v : W64) :
    (th.setReg n v).reg m = if m = n ∧ n ≠ 0 then v else th.reg m := by
  by_cases hn : n = 0
  · simp [Thread.setReg, hn]
  · by_cases hm : m = 0
    · subst hm
      simp [Thread.reg, Ne.symm hn]
    · by_cases h : m = n
      · simp [Thread.setReg, Thread.reg, hn, h]
      · simp [Thread.setReg, Thread.reg, hn, hm, h]

@[simp] theorem Thread.setReg_pc (th : Thread) (n : Nat) (v : W64) : (th.setReg n v).pc = th.pc := by
  unfold Thread.setReg; split <;> rfl
@[simp] theorem Thread.setReg_p (th : Thread) (n : Nat) (v : W64) : (th.setReg n v).p = th.p := by
  unfold Thread.setReg; split <;> rfl
@[simp] theorem Thread.setReg_phase (th : Thread) (n : Nat) (v : W64) : (th.setReg n v).phase = th.phase := by
  unfold Thread.setReg; split <;> rfl
@[simp] theorem Thread.setReg_wait (th : Thread) (n : Nat) (v : W64) : (th.setReg n v).wait = th.wait := by
  unfold Thread.setReg; split <;> rfl
@[simp] theorem Thread.setReg_sent (th : Thread) (n : Nat) (v : W64) : (th.setReg n v).sent = th.sent := by
  unfold Thread.setReg; split <;> rfl

/-- A thread of a tile after one was replaced. -/
theorem Tile.thread_tset (t : Tile) (k j : Nat) (x : Thread) :
    Tile.thread { t with threads := tset t.threads k x } j = if j = k then x else t.thread j := by
  simp [Tile.thread, tget_tset]

/-- A tile after one of its threads was replaced. -/
theorem State.tile_setThread (s : State) (tile slot j : Nat) (th : Thread) :
    (s.setThread tile slot th).tile j =
      if j = tile then { s.tile tile with threads := tset (s.tile tile).threads slot th } else s.tile j := by
  simp [State.setThread, State.tile_setTile]

/-- An arrival counter after an addition (R152). -/
theorem State.counter_addCounter (s : State) (tile k t' k' : Nat) (n : W32) :
    (addCounter s tile k n).counter t' k' =
      if t' = tile ∧ k' = k then s.counter tile k + n else s.counter t' k' := by
  by_cases h : t' = tile
  · subst h
    by_cases hk : k' = k <;> simp [addCounter, State.counter, hk]
  · simp [addCounter, State.counter, h]

/-- An arrival counter after it was set: what its control cycle has added stays (R152). -/
theorem State.counter_setCounter (s : State) (tile k t' k' : Nat) (n : W32) :
    (setCounter s tile k n).counter t' k' = if t' = tile ∧ k' = k then n + s.added tile k else s.counter t' k' := by
  by_cases h : t' = tile
  · subst h
    by_cases hk : k' = k <;> simp [setCounter, State.counter, State.added, hk]
  · simp [setCounter, State.counter, h]

end Sys2Proof.Machine
end

