-- ==== Sys2Proof/Laws/Log.lean ====
section
/-! SUPPORT. What recording a fault can do (R440 to R444): it touches the log ring's bytes in HBM, the log, the ports'
vectors and what the part sent, and nothing else. -/

namespace Sys2Proof.Machine

open Sys2Proof.Safety

theorem ringGranule_congr {s t : State} (hc : t.hbm.commit = s.hbm.commit) (ha : t.hbm.active = s.hbm.active)
    (hr : t.log.region = s.log.region) (hl : t.log.log2n = s.log.log2n) (g : Nat) : RingGranule t g ↔ RingGranule s g := by
  have h : ∀ off, granuleOf (landView t) off = granuleOf (landView s) off := by
    intro off
    unfold landView
    rw [hc]
    cases s.hbm.commit with
    | none => simp only [granuleOf, placeOf, activeRegion, ha]; rfl
    | some x => rfl
  simp only [RingGranule, hr, hl, h]

/-- A change of the log, the ports and what is sent, with the ring where it was. -/
theorem onlyLog_of_quiet {s t : State} (h : t = { s with log := t.log, host := t.host, out := t.out })
    (hu : t.log.ringUp = s.log.ringUp) (hr : t.log.region = s.log.region) (hl : t.log.log2n = s.log.log2n) : OnlyLog s t := by
  have hb : t.hbm = s.hbm := by rw [h]
  refine ⟨?_, ⟨hu, hr, hl⟩, fun _ => hb, fun hw => ⟨by rw [hb]; exact hw, fun a _ => by rw [hb]⟩⟩
  rw [h]

theorem onlyLog_refl (s : State) : OnlyLog s s := onlyLog_of_quiet rfl rfl rfl rfl

theorem onlyLog_trans {s t u : State} (h : OnlyLog s t) (k : OnlyLog t u) : OnlyLog s u := by
  obtain ⟨h1, ⟨h2, h3, h4⟩, h5, h6⟩ := h
  obtain ⟨k1, ⟨k2, k3, k4⟩, k5, k6⟩ := k
  have hc : t.hbm.commit = s.hbm.commit := by rw [h1]
  have ha : t.hbm.active = s.hbm.active := by rw [h1]
  refine ⟨?_, ⟨k2.trans h2, k3.trans h3, k4.trans h4⟩, fun hu => (k5 (h2.trans hu)).trans (h5 hu), fun hw => ?_⟩
  · rw [k1, h1]
  · have a1 := h6 hw
    have a2 := k6 a1.1
    exact ⟨a2.1, fun a hn => (a2.2 a (fun hx => hn ((ringGranule_congr hc ha h3 h4 _).mp hx))).trans (a1.2 a hn)⟩

theorem onlyLog_tiles {s t : State} (h : OnlyLog s t) : t.tiles = s.tiles := by rw [h.1]
theorem onlyLog_tile {s t : State} (h : OnlyLog s t) (k : Nat) : t.tile k = s.tile k := by rw [h.1]; rfl
theorem onlyLog_ring {s t : State} (h : OnlyLog s t) (k : Nat) : t.ring k = s.ring k := by rw [h.1]; rfl
theorem onlyLog_port {s t : State} (h : OnlyLog s t) (k : Nat) : t.port k = s.port k := by rw [h.1]; rfl
theorem onlyLog_snap {s t : State} (h : OnlyLog s t) : t.snap = s.snap := by rw [h.1]
theorem onlyLog_sec {s t : State} (h : OnlyLog s t) : t.sec = s.sec := by rw [h.1]
theorem onlyLog_clk {s t : State} (h : OnlyLog s t) : t.clk = s.clk := by rw [h.1]
theorem onlyLog_pending {s t : State} (h : OnlyLog s t) : t.pending = s.pending := by rw [h.1]

theorem setVector_onlyLog (s : State) (p v : Nat) (x : Vector256) : OnlyLog s (setVector s p v x) := onlyLog_of_quiet rfl rfl rfl rfl

theorem sendMessage_onlyLog (s : State) (p v : Nat) : OnlyLog s (sendMessage s p v) := onlyLog_of_quiet rfl rfl rfl rfl

theorem vectorFire_onlyLog (s : State) (p v : Nat) : OnlyLog s (vectorFire s p v) := by
  unfold vectorFire
  dsimp only
  split
  · exact setVector_onlyLog _ _ _ _
  · exact onlyLog_trans (setVector_onlyLog _ _ _ _) (sendMessage_onlyLog _ _ _)

theorem vectorEvent_onlyLog (s : State) (p v : Nat) : OnlyLog s (vectorEvent s p v) := by
  unfold vectorEvent
  dsimp only
  split
  · exact onlyLog_trans (setVector_onlyLog _ _ _ _) (vectorFire_onlyLog _ _ _)
  · exact setVector_onlyLog _ _ _ _

theorem errorEvents_onlyLog (s : State) (cls : Nat) : OnlyLog s (errorEvents s cls) := by
  have one : ∀ (t : State) (p : Nat), OnlyLog t
      (if (t.hport p).errEn && decide (cls ≥ (t.hport p).errCls.toNat) then vectorEvent t p (t.hport p).errV.toNat else t) := by
    intro t p
    split
    · exact vectorEvent_onlyLog _ _ _
    · exact onlyLog_refl _
  simp only [errorEvents, List.foldl_cons, List.foldl_nil]
  exact onlyLog_trans (one _ _) (one _ _)

theorem splice_length (b x : Bytes) (i : Nat) (h : i + x.length ≤ b.length) : (splice b i x).length = b.length := by
  simp [splice, slice]
  omega

theorem leBytes_length (n v : Nat) : (leBytes n v).length = n := by
  induction n generalizing v with
  | zero => rfl
  | succ n ih => simp [leBytes, ih]

theorem layout_length (n : Nat) (fs : List (Nat × Nat × Nat)) (h : fs.all (fun f => decide (f.1 + f.2.1 ≤ n)) = true) :
    (layout n fs).length = n := by
  have go : ∀ (fs : List (Nat × Nat × Nat)) (b : Bytes), b.length = n → fs.all (fun f => decide (f.1 + f.2.1 ≤ n)) = true →
      (fs.foldl (fun b f => splice b f.1 (leBytes f.2.1 f.2.2)) b).length = n := by
    intro fs
    induction fs with
    | nil => intro b hb _; exact hb
    | cons f r ih =>
      intro b hb hf
      simp only [List.all_cons, Bool.and_eq_true, decide_eq_true_eq] at hf
      exact ih _ ((splice_length _ _ _ (by rw [leBytes_length, hb]; exact hf.1)).trans hb) hf.2
  exact go fs _ (by simp [zeros]) h

theorem recordBytes_length (r : LogRecord) : (recordBytes r).length = 64 := layout_length _ _ (by simp)

/-- A posted record reaches one granule of the ring and what goes with a write there. -/
theorem postRecord_onlyLog (s : State) (b : Bytes) (k : Nat) (hb : b.length = 64) (hu : s.log.ringUp = true) :
    OnlyLog s (postRecord s (s.log.region.toNat * 2 ^ 30 + k % 2 ^ s.log.log2n.toNat * 64) b) := by
  have hlo : (s.log.region.toNat * 2 ^ 30 + k % 2 ^ s.log.log2n.toNat * 64) % 256 + 64 ≤ 256 := by omega
  have hg : RingGranule s (granuleOf (landView s) (s.log.region.toNat * 2 ^ 30 + k % 2 ^ s.log.log2n.toNat * 64)) := ⟨k, rfl⟩
  generalize s.log.region.toNat * 2 ^ 30 + k % 2 ^ s.log.log2n.toNat * 64 = off at *
  unfold postRecord
  dsimp only
  split
  · exact onlyLog_refl s
  generalize granuleOf (landView s) off = g at *
  have hm : (holdWrite (granuleWrite (callStack s g) g (off % 256) b false) g (off % 256) b).hbm.mem =
      memWrite zeroByte s.hbm.mem (g * 256 + off % 256) b := by
    unfold holdWrite granuleWrite
    dsimp only
    repeat' split
    all_goals rfl
  refine ⟨?_, ?_, fun h => absurd (hu.symm.trans h) (by decide), fun hw => ?_⟩
  · unfold holdWrite granuleWrite
    dsimp only
    repeat' split
    all_goals rfl
  · unfold holdWrite granuleWrite
    dsimp only
    repeat' split
    all_goals exact ⟨rfl, rfl, rfl⟩
  · rw [hm]
    refine ⟨memWrite_wf _ _ _ _ hw, fun a ha => memByte_memWrite_outside _ _ _ _ _ hw ?_⟩
    have : a / 256 ≠ g := fun h => ha (h ▸ hg)
    omega

theorem writeRing_onlyLog (s : State) (r : LogRecord) (hu : s.log.ringUp = true) : OnlyLog s (writeRing s r) := by
  have h := postRecord_onlyLog s (recordBytes r) r.lseq.toNat (recordBytes_length r) hu
  refine onlyLog_trans h (onlyLog_of_quiet rfl rfl rfl rfl)

theorem appendRecord_onlyLog (s : State) (r : LogRecord) : OnlyLog s (appendRecord s r) := by
  unfold appendRecord
  dsimp only
  split
  · rename_i hu
    exact onlyLog_trans (t := { s with log := { s.log with next := s.log.next + 1, unmirrored := s.log.unmirrored ++ [r.lseq] } })
      (onlyLog_of_quiet rfl rfl rfl rfl) (writeRing_onlyLog _ _ hu)
  · split <;> exact onlyLog_of_quiet rfl rfl rfl rfl

theorem replaceRecord_onlyLog (s : State) (r : LogRecord) : OnlyLog s (replaceRecord s r) := by
  unfold replaceRecord
  dsimp only
  split
  · rename_i hu
    refine onlyLog_trans (t := { s with log := { s.log with early := s.log.early.map (fun q => if q.lseq = r.lseq then r else q) } })
      (onlyLog_of_quiet rfl rfl rfl rfl) ?_
    exact postRecord_onlyLog _ _ _ (recordBytes_length r) hu
  · exact onlyLog_of_quiet rfl rfl rfl rfl

theorem foldl_onlyLog {α : Type} (f : State → α → State) (h : ∀ u x, OnlyLog u (f u x)) (l : List α) (s : State) :
    OnlyLog s (l.foldl f s) := by
  induction l generalizing s with
  | nil => exact onlyLog_refl s
  | cons x r ih => exact onlyLog_trans (h s x) (ih _)

theorem storeRecord_onlyLog (s : State) (r : LogRecord) : OnlyLog s (storeRecord s r) := by
  unfold storeRecord
  dsimp only
  have h1 := foldl_onlyLog replaceRecord replaceRecord_onlyLog (movedBy s r).dropLast s
  split
  · exact onlyLog_trans (onlyLog_trans h1 (appendRecord_onlyLog _ _)) (onlyLog_of_quiet rfl rfl rfl rfl)
  · exact onlyLog_trans h1 (onlyLog_of_quiet rfl rfl rfl rfl)

theorem mirrorOne_onlyLog (s : State) (r : LogRecord) : OnlyLog s (mirrorOne s r) := onlyLog_of_quiet rfl rfl rfl rfl

/-- Everything a record can change. -/
theorem record_onlyLog (s : State) (f : Raise) : OnlyLog s (record s f) := by
  unfold record
  split
  · exact onlyLog_of_quiet rfl rfl rfl rfl
  · dsimp only
    refine onlyLog_trans ?_ (errorEvents_onlyLog _ _)
    have h : OnlyLog s (storeRecord { s with log := { s.log with suppress := restartSuppress s f } } (recordOf s f)) :=
      onlyLog_trans (t := { s with log := { s.log with suppress := restartSuppress s f } }) (onlyLog_of_quiet rfl rfl rfl rfl)
        (storeRecord_onlyLog _ _)
    split
    · exact onlyLog_trans h (foldl_onlyLog mirrorOne mirrorOne_onlyLog _ _)
    · exact h

theorem note_onlyLog (s : State) (code detail : Nat) (unit : W16) : OnlyLog s (note s code detail unit) := record_onlyLog _ _

@[simp] theorem record_tiles (s : State) (f : Raise) : (record s f).tiles = s.tiles := onlyLog_tiles (record_onlyLog s f)
@[simp] theorem record_tile (s : State) (f : Raise) (k : Nat) : (record s f).tile k = s.tile k := onlyLog_tile (record_onlyLog s f) k
@[simp] theorem record_ring (s : State) (f : Raise) (k : Nat) : (record s f).ring k = s.ring k := onlyLog_ring (record_onlyLog s f) k
@[simp] theorem record_port (s : State) (f : Raise) (k : Nat) : (record s f).port k = s.port k := onlyLog_port (record_onlyLog s f) k
@[simp] theorem record_snap (s : State) (f : Raise) : (record s f).snap = s.snap := onlyLog_snap (record_onlyLog s f)
@[simp] theorem record_sec (s : State) (f : Raise) : (record s f).sec = s.sec := onlyLog_sec (record_onlyLog s f)
@[simp] theorem record_clk (s : State) (f : Raise) : (record s f).clk = s.clk := onlyLog_clk (record_onlyLog s f)
@[simp] theorem record_pending (s : State) (f : Raise) : (record s f).pending = s.pending := onlyLog_pending (record_onlyLog s f)
@[simp] theorem note_tiles (s : State) (c d : Nat) (u : W16) : (note s c d u).tiles = s.tiles := record_tiles _ _
@[simp] theorem note_tile (s : State) (c d : Nat) (u : W16) (k : Nat) : (note s c d u).tile k = s.tile k := record_tile _ _ _
@[simp] theorem note_ring (s : State) (c d : Nat) (u : W16) (k : Nat) : (note s c d u).ring k = s.ring k := record_ring _ _ _
@[simp] theorem note_port (s : State) (c d : Nat) (u : W16) (k : Nat) : (note s c d u).port k = s.port k := record_port _ _ _
@[simp] theorem note_pending (s : State) (c d : Nat) (u : W16) : (note s c d u).pending = s.pending := record_pending _ _

/-- A record that is recorded once a millisecond also notes when. -/
theorem noteOnce_frame (s : State) (key : Nat) (f : Raise) :
    ∃ l, OnlyLog { s with fab := { s.fab with logAt := l } } (noteOnce s key f) := by
  unfold noteOnce
  split
  · split
    · exact ⟨s.fab.logAt, onlyLog_refl s⟩
    · exact ⟨_, record_onlyLog _ _⟩
  · exact ⟨_, record_onlyLog _ _⟩

/-! ### HBM keeps its canonical form -/

theorem hbmMem_wf_of_host {s t : State} (h : t.hbm = s.hbm) (hw : Mem.wf zeroByte s.hbm.mem = true) :
    Mem.wf zeroByte t.hbm.mem = true := by rw [h]; exact hw

theorem record_mem_wf (s : State) (f : Raise) (h : Mem.wf zeroByte s.hbm.mem = true) :
    Mem.wf zeroByte (record s f).hbm.mem = true := ((record_onlyLog s f).2.2.2 h).1

/-- While the log ring is down, recording a fault leaves HBM as it was. -/
theorem record_hbm_of_down (s : State) (f : Raise) (h : s.log.ringUp = false) : (record s f).hbm = s.hbm :=
  (record_onlyLog s f).2.2.1 h

end Sys2Proof.Machine
end

