-- ==== Sys2Proof/Laws/Canonical.lean ====
section
/-! SUPPORT. Every operation that writes a memory keeps the canonical form: HBM, the banks of the tiles, the drives and
the flash. -/

namespace Sys2Proof.Machine

open Sys2Proof.Safety

/-- Canonical form, read from the four memories it speaks of. -/
theorem canonical_iff (s : State) : Canonical s = true ↔
    Mem.wf zeroByte s.hbm.mem = true ∧ s.tiles.all (fun x => Mem.wf zeroByte x.2.mem) = true ∧
    s.snap.drives.all (fun x => Mem.wf zeroByte x.2) = true ∧ Mem.wf erasedByte s.sec.flash = true := by
  simp [Canonical, and_assoc]

theorem canonical_congr {s t : State} (h : Canonical s = true) (h1 : t.hbm.mem = s.hbm.mem) (h2 : t.tiles = s.tiles)
    (h3 : t.snap.drives = s.snap.drives) (h4 : t.sec.flash = s.sec.flash) : Canonical t = true := by
  unfold Canonical at *
  rw [h1, h2, h3, h4]
  exact h

theorem canonical_tile {s : State} (h : Canonical s = true) (k : Nat) : Mem.wf zeroByte (s.tile k).mem = true :=
  tget_of_all (fun x : Tile => Mem.wf zeroByte x.mem) s.tiles k {} ((canonical_iff s).mp h).2.1 rfl

theorem canonical_setTile {s : State} (h : Canonical s = true) (k : Nat) (x : Tile) (hx : Mem.wf zeroByte x.mem = true) :
    Canonical (s.setTile k x) = true := by
  obtain ⟨a, b, c, d⟩ := (canonical_iff s).mp h
  exact (canonical_iff _).mpr ⟨a, all_tset _ _ _ _ b hx, c, d⟩

/-- A change of a tile that leaves its bytes alone. -/
theorem canonical_setTile_mem {s : State} (h : Canonical s = true) (k : Nat) (x : Tile) (hx : x.mem = (s.tile k).mem) :
    Canonical (s.setTile k x) = true :=
  canonical_setTile h k x (by rw [hx]; exact canonical_tile h k)

theorem canonical_setPort {s : State} (h : Canonical s = true) (k : Nat) (x : Port) : Canonical (s.setPort k x) = true :=
  canonical_congr h rfl rfl rfl rfl
theorem canonical_setRing {s : State} (h : Canonical s = true) (k : Nat) (x : RingPair) : Canonical (s.setRing k x) = true :=
  canonical_congr h rfl rfl rfl rfl
theorem canonical_setHport {s : State} (h : Canonical s = true) (k : Nat) (x : HostPort) : Canonical (s.setHport k x) = true :=
  canonical_congr h rfl rfl rfl rfl
theorem canonical_setBucket {s : State} (h : Canonical s = true) (k : Nat) (x : Bucket) : Canonical (s.setBucket k x) = true :=
  canonical_congr h rfl rfl rfl rfl
theorem canonical_setSnap {s : State} (h : Canonical s = true) (k : Nat) (x : SnapSet) : Canonical (s.setSnap k x) = true :=
  canonical_congr h rfl rfl rfl rfl
theorem canonical_setStack {s : State} (h : Canonical s = true) (k : Nat) (x : Stack) : Canonical (s.setStack k x) = true :=
  canonical_congr h rfl rfl rfl rfl
theorem canonical_setThread {s : State} (h : Canonical s = true) (tile slot : Nat) (th : Thread) :
    Canonical (s.setThread tile slot th) = true :=
  canonical_setTile_mem h tile _ rfl
theorem canonical_addCounter {s : State} (h : Canonical s = true) (tile k : Nat) (n : W32) :
    Canonical (addCounter s tile k n) = true :=
  canonical_setTile_mem h tile _ rfl
theorem canonical_setCounter {s : State} (h : Canonical s = true) (tile k : Nat) (n : W32) :
    Canonical (setCounter s tile k n) = true :=
  canonical_setTile_mem h tile _ rfl
theorem canonical_emit {s : State} (h : Canonical s = true) (o : Out) : Canonical (s.emit o) = true :=
  canonical_congr h rfl rfl rfl rfl
theorem canonical_draw {s : State} (h : Canonical s = true) : Canonical s.draw.2 = true :=
  canonical_congr h rfl rfl rfl rfl

theorem canonical_foldl {α : Type} (f : State → α → State) (hf : ∀ s a, Canonical s = true → Canonical (f s a) = true)
    (l : List α) (s : State) (h : Canonical s = true) : Canonical (l.foldl f s) = true := by
  induction l generalizing s with
  | nil => exact h
  | cons a r ih => exact ih _ (hf s a h)

theorem canonical_ite {c : Prop} [Decidable c] {a b : State} (ha : Canonical a = true) (hb : Canonical b = true) :
    Canonical (if c then a else b) = true := by
  split
  · exact ha
  · exact hb

/-! ### Records and stops -/

theorem canonical_record {s : State} (h : Canonical s = true) (f : Raise) : Canonical (record s f) = true := by
  obtain ⟨a, b, c, d⟩ := (canonical_iff s).mp h
  refine (canonical_iff _).mpr ⟨record_mem_wf s f a, ?_, ?_, ?_⟩
  · rw [record_tiles]; exact b
  · rw [record_snap]; exact c
  · rw [record_sec]; exact d

theorem canonical_note {s : State} (h : Canonical s = true) (code detail : Nat) (unit : W16) :
    Canonical (note s code detail unit) = true := canonical_record h _

theorem canonical_noteOnce {s : State} (h : Canonical s = true) (key : Nat) (f : Raise) :
    Canonical (noteOnce s key f) = true := by
  unfold noteOnce
  split
  · split
    · exact h
    · refine canonical_record ?_ f
      exact canonical_congr h rfl rfl rfl rfl
  · refine canonical_record ?_ f
    exact canonical_congr h rfl rfl rfl rfl

theorem canonical_modLaunch {s : State} (h : Canonical s = true) (id : Nat) (f : Launch → Launch) :
    Canonical (modLaunch s id f) = true := canonical_congr h rfl rfl rfl rfl

theorem canonical_stopTile {s : State} (h : Canonical s = true) (tile code slot pc word : Nat) :
    Canonical (stopTile s tile code slot pc word) = true := by
  refine canonical_setTile_mem h tile _ ?_
  dsimp only
  split <;> rfl

theorem canonical_quietStop {s : State} (h : Canonical s = true) (tile : Nat) : Canonical (quietStop s tile) = true :=
  canonical_setTile_mem h tile _ rfl

theorem canonical_stopMembers {s : State} (h : Canonical s = true) (ring : Nat) : Canonical (stopMembers s ring) = true :=
  canonical_foldl _ (fun _ _ ht => canonical_foldl _ (fun _ _ hu => canonical_quietStop hu _) _ _ (canonical_modLaunch ht _ _)) _ _ h

theorem canonical_pitchFault {s : State} (h : Canonical s = true) (ring : Nat) (f : Raise) (replays : Bool) :
    Canonical (pitchFault s ring f replays) = true := by
  unfold pitchFault
  dsimp only
  split
  · exact canonical_stopMembers (canonical_setRing h _ _) _
  · exact canonical_stopMembers (canonical_setRing h _ _) _
  · split
    · exact canonical_setRing h _ _
    · exact h
  · exact h

theorem canonical_contain {s : State} (h : Canonical s = true) (ring : Option Nat) (f : Raise) :
    Canonical (contain s ring f) = true := by
  unfold contain
  split
  · split
    · exact canonical_pitchFault h _ _ _
    · exact h
  · exact h

theorem canonical_tileRaise {s : State} (h : Canonical s = true) (tile code detail slot pc word kind : Nat) (data : Bytes) :
    Canonical (tileRaise s tile code detail slot pc word kind data) = true := by
  unfold tileRaise
  dsimp only
  refine canonical_contain ?_ _ _
  split
  · exact canonical_modLaunch (canonical_stopTile (canonical_record h _) _ _ _ _ _) _ _
  · exact canonical_stopTile (canonical_record h _) _ _ _ _ _

theorem canonical_engineRaise {s : State} (h : Canonical s = true) (tile code detail kind : Nat) (data : Bytes) :
    Canonical (engineRaise s tile code detail kind data) = true := canonical_tileRaise h _ _ _ _ _ _ _ _

theorem canonical_stopRing {s : State} (h : Canonical s = true) (ring code detail kind : Nat) (data : Bytes) :
    Canonical (stopRing s ring code detail kind data) = true := canonical_setRing (canonical_record h _) _ _

/-! ### Memory -/

@[simp] theorem touch_mem (t : Tile) (clk off n : Nat) : (t.touch clk off n).mem = t.mem := rfl
@[simp] theorem wake_mem (t : Tile) (clk off n : Nat) : (t.wake clk off n).mem = t.mem := rfl

theorem store_mem (t : Tile) (off : Nat) (b : Bytes) : (t.store off b).mem = memWrite zeroByte t.mem off b := rfl

theorem canonical_store {s : State} (h : Canonical s = true) (tile off : Nat) (x : Tile) (b : Bytes)
    (hx : x.mem = (s.tile tile).mem) : Canonical (s.setTile tile (x.store off b)) = true := by
  refine canonical_setTile h tile _ ?_
  rw [store_mem, hx]
  exact memWrite_wf _ _ _ _ (canonical_tile h tile)

theorem canonical_bankChecks {s : State} (h : Canonical s = true) (tile off n : Nat) :
    Canonical (bankChecks s tile off n) = true := by
  unfold bankChecks
  dsimp only
  split
  · exact h
  · refine canonical_foldl _ ?_ _ _ ?_
    · intro u g hu
      refine canonical_record ?_ _
      exact canonical_setTile_mem hu tile { u.tile tile with writeback := insertNat g (u.tile tile).writeback } rfl
    · split
      · exact h
      · exact canonical_engineRaise h _ _ _ _ _

theorem canonical_touchStack {s : State} (h : Canonical s = true) (off : Nat) : Canonical (touchStack s off) = true :=
  canonical_setStack h _ _

theorem canonical_granuleWrite {s : State} (h : Canonical s = true) (g lo : Nat) (b : Bytes) (bad : Bool) :
    Canonical (granuleWrite s g lo b bad) = true := by
  obtain ⟨a, p, c, d⟩ := (canonical_iff s).mp h
  unfold granuleWrite
  dsimp only
  split
  · exact (canonical_iff _).mpr ⟨memWrite_wf _ _ _ _ a, p, c, d⟩
  · exact (canonical_iff _).mpr ⟨memWrite_wf _ _ _ _ a, p, c, d⟩

theorem canonical_hbmWritePiece {s : State} (h : Canonical s = true) (off : Nat) (b : Bytes) (bad : Bool) :
    Canonical (hbmWritePiece s off b bad) = true := by
  unfold hbmWritePiece
  dsimp only
  split
  · split
    · exact canonical_congr h rfl rfl rfl rfl
    · exact h
  · exact canonical_granuleWrite h _ _ _ _

theorem canonical_hbmWrite {s : State} (h : Canonical s = true) (off : Nat) (b : Bytes) (bad : Bool) :
    Canonical (hbmWrite s off b bad) = true :=
  canonical_foldl _ (fun _ _ hu => canonical_hbmWritePiece (canonical_touchStack hu _) _ _ _) _ _ h

theorem canonical_modStage {s : State} (h : Canonical s = true) (k : StageKey) (f : Stage → Stage) :
    Canonical (modStage s k f) = true := by
  unfold modStage
  dsimp only
  split
  · exact canonical_congr h rfl rfl rfl rfl
  · exact canonical_congr h rfl rfl rfl rfl

theorem canonical_hbmUe {s : State} (h : Canonical s = true) (off g : Nat) (remote : Bool) :
    Canonical (hbmUe s off g remote) = true := by
  unfold hbmUe
  extract_lets
  refine canonical_ite (canonical_record (canonical_ite ?_ (canonical_record ?_ _)) _) (canonical_ite ?_ (canonical_record ?_ _))
  · exact canonical_congr h rfl rfl rfl rfl
  · exact canonical_congr h rfl rfl rfl rfl
  · exact canonical_congr h rfl rfl rfl rfl
  · exact canonical_congr h rfl rfl rfl rfl

theorem canonical_hbmCe {s : State} (h : Canonical s = true) (off g : Nat) : Canonical (hbmCe s off g) = true :=
  canonical_record (canonical_setStack (s := { s with hbm := { s.hbm with writeback := insertNat g s.hbm.writeback } })
    (canonical_congr h rfl rfl rfl rfl) _ _) _

theorem canonical_decodeEffects {s : State} (h : Canonical s = true) (remote : Bool) (ds : List Decoded) :
    Canonical (decodeEffects s remote ds) = true :=
  canonical_foldl _ (fun _ _ hu => canonical_hbmCe hu _ _) _ _
    (canonical_foldl _ (fun _ _ hu => canonical_hbmUe hu _ _ _) _ _
      (canonical_foldl _ (fun _ _ hu => canonical_record hu _) _ _ h))

theorem canonical_decodeMark {s : State} (h : Canonical s = true) (m : GranuleMark) : Canonical (decodeMark s m).2 = true := by
  unfold decodeMark
  extract_lets n d
  split
  · exact h
  · split
    · exact h
    · split
      · exact h
      · exact canonical_draw h

theorem canonical_readPlace {s : State} (h : Canonical s = true) (off g : Nat) : Canonical (readPlace s off g).2.2.2 = true := by
  unfold readPlace
  extract_lets m b raw
  split
  · exact h
  · have hd := canonical_decodeMark h m
    split <;> rename_i u hu <;> (rw [hu] at hd; exact hd)

theorem canonical_readPiece {r : HbmReading} (h : Canonical r.st = true) (p : Nat × Nat) : Canonical (readPiece r p).st = true := by
  unfold readPiece
  dsimp only
  split
  · exact canonical_touchStack h _
  · exact canonical_readPlace (canonical_touchStack h _) _ _

theorem canonical_hbmRead {s : State} (h : Canonical s = true) (off len : Nat) (remote : Bool) :
    Canonical (hbmRead s off len remote).2.2 = true := by
  have go : ∀ (ps : List (Nat × Nat)) (r : HbmReading), Canonical r.st = true → Canonical (ps.foldl readPiece r).st = true := by
    intro ps
    induction ps with
    | nil => intro r hr; exact hr
    | cons p q ih => intro r hr; exact ih _ (canonical_readPiece hr p)
  exact canonical_decodeEffects (go _ _ h) _ _

theorem canonical_tileRead {s : State} (h : Canonical s = true) (tile off len : Nat) :
    Canonical (tileRead s tile off len).2.2 = true := by
  unfold tileRead
  exact canonical_bankChecks (canonical_setTile_mem h tile ((s.tile tile).touch s.clk off len) (touch_mem _ _ _ _)) _ _ _

theorem canonical_baseRead {s : State} (h : Canonical s = true) (space off len : Nat) (remote : Bool) :
    Canonical (baseRead s space off len remote).2.2 = true := by
  unfold baseRead
  split
  · exact canonical_tileRead h _ _ _
  · exact canonical_hbmRead h _ _ _

theorem canonical_underPiece {s : State} (h : Canonical s = true) (n : Nat) : Canonical (underPiece s n).2.2 = true := by
  unfold underPiece
  split <;> exact canonical_baseRead h _ _ _ _

theorem canonical_stagePiece {s : State} (h : Canonical s = true) (k : StageKey) (n at_ : Nat) (b : Bytes) (bad : Bool) :
    Canonical (stagePiece s k n at_ b bad) = true := by
  unfold stagePiece
  dsimp only
  split
  · exact canonical_modStage h _ _
  · split
    · exact canonical_modStage h _ _
    · exact canonical_modStage (canonical_underPiece h _) _ _

theorem canonical_stageWrite {s : State} (h : Canonical s = true) (k : StageKey) (space off : Nat) (b : Bytes) (bad : Bool) :
    Canonical (stageWrite s k space off b bad) = true :=
  canonical_foldl _ (fun _ _ hu => canonical_stagePiece hu _ _ _ _ _) _ _ h

theorem canonical_memWrite' {s : State} (h : Canonical s = true) (key : Option StageKey) (space off : Nat) (b : Bytes)
    (bad : Bool) : Canonical (memWrite' s key space off b bad) = true := by
  unfold memWrite'
  split
  · exact canonical_stageWrite h _ _ _ _ _
  · split
    · exact canonical_store h _ _ _ _ rfl
    · exact canonical_hbmWrite h _ _ _

theorem canonical_landPiece {s : State} (h : Canonical s = true) (off : Nat) (b : Bytes) (bad : Bool) :
    Canonical (landPiece s off b bad) = true := by
  unfold landPiece
  dsimp only
  split
  · exact canonical_engineRaise h _ _ _ _ _
  · exact canonical_store h _ _ _ _ rfl

theorem canonical_commitStage {s : State} (h : Canonical s = true) (k : StageKey) : Canonical (commitStage s k) = true := by
  unfold commitStage
  split
  · exact h
  · refine canonical_foldl _ (fun _ _ hu => canonical_landPiece hu _ _ _) _ _ ?_
    have hw : Canonical (wakeStage s k) = true := canonical_foldl _
      (fun u p hu => canonical_setTile_mem hu p.1 ((u.tile p.1).wake u.clk p.2 256) (wake_mem _ _ _ _)) _ _ h
    exact canonical_congr hw rfl rfl rfl rfl

theorem canonical_memRead' {s : State} (h : Canonical s = true) (key : Option StageKey) (space off len : Nat) (remote : Bool) :
    Canonical (memRead' s key space off len remote).2.2 = true := by
  unfold memRead'
  split
  · exact canonical_baseRead h _ _ _ _
  · rename_i k
    generalize piecesOf 256 off len = ps
    have go : ∀ (ps : List (Nat × Nat)) (r : Bytes × LineState × State), Canonical r.2.2 = true →
        Canonical (ps.foldl (fun r p =>
          let n := pieceOf space p.1
          match stagedBytes r.2.2 k n with
          | some b => (r.1 ++ (b.drop (p.1 % 256)).take p.2, worse r.2.1 (if stagedBad r.2.2 k n then .markedBad else .good), r.2.2)
          | none =>
            let m := baseRead r.2.2 space p.1 p.2 remote
            (r.1 ++ m.1, worse r.2.1 m.2.1, m.2.2)) r).2.2 = true := by
      intro ps
      induction ps with
      | nil => intro r hr; exact hr
      | cons p q ih =>
        intro r hr
        refine ih _ ?_
        dsimp only
        split
        · exact hr
        · exact canonical_baseRead hr _ _ _ _
    exact go _ _ h

/-! ### Engines -/

theorem canonical_writeStatus {s : State} (h : Canonical s = true) (tile at_ : Nat) (b : Bytes) :
    Canonical (writeStatus s tile at_ b) = true := by
  unfold writeStatus
  split
  · exact h
  · split
    · exact canonical_engineRaise h _ _ _ _ _
    · exact canonical_store h _ _ _ _ rfl

theorem canonical_completeWord {s : State} (h : Canonical s = true) (tile : Nat) (w : W128) (b : Bytes) :
    Canonical (completeWord s tile w b) = true := by
  unfold completeWord
  dsimp only
  have one : Canonical (if statOf w then writeStatus s tile (staddrOf w) b else s) = true := by
    split
    · exact canonical_writeStatus h _ _ _
    · exact h
  split
  · exact canonical_addCounter one _ _ _
  · exact one

theorem canonical_finishMatrix {s : State} (h : Canonical s = true) (tile : Nat) (w : W128) (x : MatrixStatus)
    (cycles kind : Nat) (data : Bytes) : Canonical (finishMatrix s tile w x cycles kind data) = true := by
  have two : Canonical (reportNf (addPitchCounts (completeWord s tile w (matrixRecord w x (cycles % 2 ^ 32))) tile x.nfCount.toNat 0) tile x.nf) = true := by
    have one : Canonical (addPitchCounts (completeWord s tile w (matrixRecord w x (cycles % 2 ^ 32))) tile x.nfCount.toNat 0) = true := by
      unfold addPitchCounts
      split
      · exact canonical_setRing (canonical_completeWord h _ _ _) _ _
      · exact canonical_completeWord h _ _ _
    unfold reportNf
    split
    · exact canonical_record one _
    · exact one
  unfold finishMatrix
  dsimp only
  split
  · exact two
  · exact canonical_engineRaise two _ _ _ _ _

end Sys2Proof.Machine
end

