-- ==== Sys2Proof/Laws/Commands.lean ====
section
/-! SUPPORT. What the frames around a command answer: a named unit that exists, a step that is due, a write from the port
that may make it, a descriptor that starts. -/

namespace Sys2Proof.Machine

open Sys2Proof.Safety

theorem onTile_of {tile : Nat} (h : tile < 1152) (r : Res) : onTile tile r = r := if_pos h
theorem onSlot_of {tile slot : Nat} (h : tile < 1152) (k : slot < 2048) (r : Res) : onSlot tile slot r = r := if_pos ⟨h, k⟩
theorem onUnit_of {n k : Nat} (h : k < n) (r : Res) : onUnit n k r = r := if_pos h
theorem onUnit_none {n k : Nat} (h : ¬ k < n) (r : Res) : onUnit n k r = .fault .noSuchUnit := if_neg h
@[simp] theorem ifDue_true (s t : State) : ifDue true s t = .next t := rfl
@[simp] theorem ifDue_false (s t : State) : ifDue false s t = .next s := rfl

/-- A step that is due or not answers one of the two states. -/
theorem ifDue_next (c : Bool) (s t : State) : ifDue c s t = .next t ∨ ifDue c s t = .next s := by
  cases c
  · exact Or.inr rfl
  · exact Or.inl rfl

/-- A write of the primary port takes effect. -/
theorem setupWrite_primary {s : State} {host : Nat} (h : host < 2) (up : (s.hport host).up = true)
    (p : host = b2n s.host.primary) (r : State) : setupWrite host s r = .next r := by
  simp only [setupWrite, onUnit_of h, if_pos up]
  exact if_pos p

/-- A write of the other port is refused and logged (R361, R474). -/
theorem setupWrite_other {s : State} {host : Nat} (h : host < 2) (up : (s.hport host).up = true)
    (p : host ≠ b2n s.host.primary) (r : State) : setupWrite host s r = .next (note s 0x0B01 4 unitHost) := by
  simp only [setupWrite, onUnit_of h, if_pos up]
  exact if_neg p

/-- A write over a link that is down does not arrive. -/
theorem setupWrite_down {s : State} {host : Nat} (h : host < 2) (up : (s.hport host).up = false) (r : State) :
    setupWrite host s r = .next s := by
  simp [setupWrite, onUnit_of h, up]

theorem portWrite_may {s : State} {host own : Nat} (h : host < 2) (up : (s.hport host).up = true)
    (p : host = own ∨ host = b2n s.host.primary) (r : State) : portWrite host own s r = .next r := by
  simp only [portWrite, onUnit_of h, if_pos up]
  exact if_pos p

theorem portWrite_other {s : State} {host own : Nat} (h : host < 2) (up : (s.hport host).up = true)
    (p : ¬(host = own ∨ host = b2n s.host.primary)) (r : State) :
    portWrite host own s r = .next (note s 0x0B01 4 unitHost) := by
  simp only [portWrite, onUnit_of h, if_pos up]
  exact if_neg p

theorem portRead_up {s : State} {host : Nat} (h : host < 2) (up : (s.hport host).up = true) (r : State) :
    portRead host s r = .next r := by
  simp only [portRead, onUnit_of h, if_pos up]

theorem startMatrix_next {op tile : Nat} {ready : Tile → Bool} {s : State} {body : W128 → State → State} {w : W128}
    (h : tile < 1152) (hw : matrixHead s tile = some w) (ho : opOf w = op) (hr : ready (s.tile tile) = true) :
    startMatrix op tile ready s body = .next (body w (popMatrix s tile)) := by
  simp [startMatrix, onTile_of h, hw, ho, hr]

/-- The start of a descriptor whose every check passes and which is not deferred. -/
theorem startDesc_next {opc op ring : Nat} {s : State} {body : Desc → State → State} {d : Desc}
    (h : ring < 32) (hd : nextDesc s ring = some d) (h1 : descOpc d = opc) (h2 : descOp d = op)
    (hc : checkDesc s ring d = 0)
    (hp : inPitch s ring = true → (s.ring ring).pitch.log.length < 4096 ∧ standing d ≠ .deferred) :
    startDesc opc op ring s body = .next (body d (beginDesc s ring d)) := by
  have a : ¬(inPitch s ring = true ∧ (s.ring ring).pitch.log.length ≥ 4096 ∧ (s.ring ring).pitch.log.contains d.index = false) :=
    fun x => Nat.not_le_of_lt (hp x.1).1 x.2.1
  have b : ¬(inPitch s ring = true ∧ standing d = .deferred) := fun x => (hp x.1).2 x.2
  simp only [startDesc, onUnit_of h, hd]
  rw [if_neg (by simp [h1, h2]), if_neg (by simp [hc]), if_neg a, if_neg b]

/-- A descriptor that a check of R333 refuses. -/
theorem startDesc_refused {opc op ring : Nat} {s : State} {body : Desc → State → State} {d : Desc}
    (h : ring < 32) (hd : nextDesc s ring = some d) (h1 : descOpc d = opc) (h2 : descOp d = op)
    (hc : checkDesc s ring d ≠ 0) :
    startDesc opc op ring s body = .next (refuseDesc s ring d (checkDesc s ring d)) := by
  simp only [startDesc, onUnit_of h, hd]
  rw [if_neg (by simp [h1, h2]), if_pos hc]

/-- A ring pair with no descriptor to start, or one of another form, stays as it is (DESIGN CHOICE, log entry 5). -/
theorem startDesc_idle {opc op ring : Nat} {s : State} {body : Desc → State → State} (h : ring < 32)
    (hd : ∀ d, nextDesc s ring = some d → descOpc d ≠ opc ∨ descOp d ≠ op) :
    startDesc opc op ring s body = .next s := by
  simp only [startDesc, onUnit_of h]
  split
  · rfl
  · rename_i d e
    exact if_pos (hd d e)

theorem modDesc_frame (s : State) (ring index : Nat) (f : Desc → Desc) :
    modDesc s ring index f = { s with cmd := { s.cmd with rings := (modDesc s ring index f).cmd.rings } } := rfl

theorem modDesc_ring_ne (s : State) {ring k : Nat} (index : Nat) (f : Desc → Desc) (h : k ≠ ring) :
    (modDesc s ring index f).ring k = s.ring k := State.ring_setRing_ne _ _ h

/-- Changing a descriptor changes that descriptor, when the change keeps its count. -/
theorem descOf_modDesc (s : State) (ring index : Nat) (f : Desc → Desc) (hf : ∀ d, (f d).index = d.index) (k : Nat) :
    descOf (modDesc s ring index f) ring k = (descOf s ring k).map (fun d => if d.index == index then f d else d) := by
  simp only [descOf, modDesc, State.ring_setRing_self]
  induction (s.ring ring).descs with
  | nil => rfl
  | cons d r ih =>
    have e : (if d.index == index then f d else d).index = d.index := by
      split
      · exact hf d
      · rfl
    simp only [List.map_cons, List.find?_cons, e]
    split
    · simp
    · exact ih

theorem doneDesc_done (s : State) (ring : Nat) (d : Desc) (fault : Nat) (detail : Bytes) {x : Desc}
    (h : descOf s ring d.index = some x) :
    ∃ y, descOf (doneDesc s ring d fault detail) ring d.index = some y ∧ y.phase = .done ∧ y.fault = BitVec.ofNat 16 fault := by
  have hi : x.index = d.index := by simpa using List.find?_some h
  refine ⟨{ x with phase := .done, run := .none, fault := BitVec.ofNat 16 fault, detail := detail, timeNs := s.ns }, ?_, rfl, rfl⟩
  unfold doneDesc
  rw [descOf_modDesc, h]
  · simp [hi]
  · intro _
    rfl

theorem runDesc_running (s : State) (ring : Nat) (d : Desc) (run : DescRun) {x : Desc}
    (h : descOf s ring d.index = some x) :
    ∃ y, descOf (runDesc s ring d run) ring d.index = some y ∧ y.phase = .running ∧ y.run = run := by
  have hi : x.index = d.index := by simpa using List.find?_some h
  refine ⟨{ x with phase := .running, run := run }, ?_, rfl, rfl⟩
  unfold runDesc
  rw [descOf_modDesc, h]
  · simp [hi]
  · intro _
    rfl

end Sys2Proof.Machine
end

