-- ==== Sys2Proof/Laws/Memory.lean ====
section
/-! SUPPORT. What a read of HBM can do (R205, R403): its decodes touch HBM's side-band, the log, the ports' vectors and
what the part sent, and nothing else. -/

namespace Sys2Proof.Machine

open Sys2Proof.Safety

/-- Only HBM, the log, the host side, what the part sent and the count of free values differ. -/
def OnlyHbmAndLog (s t : State) : Prop :=
  t = { s with hbm := t.hbm, log := t.log, host := t.host, out := t.out, free := t.free }

theorem onlyHbm_refl (s : State) : OnlyHbmAndLog s s := rfl

theorem onlyHbm_trans {s t u : State} (h : OnlyHbmAndLog s t) (k : OnlyHbmAndLog t u) : OnlyHbmAndLog s u := by
  unfold OnlyHbmAndLog at *
  rw [k, h]

theorem onlyHbm_of_onlyLog {s t : State} (h : OnlyLog s t) : OnlyHbmAndLog s t := by
  unfold OnlyHbmAndLog
  rw [h.1]

theorem onlyHbm_record {s t : State} (h : OnlyHbmAndLog s t) (f : Raise) : OnlyHbmAndLog s (record t f) :=
  onlyHbm_trans h (onlyHbm_of_onlyLog (record_onlyLog _ _))

theorem onlyHbm_foldl {α : Type} (f : State → α → State) (hf : ∀ u x, OnlyHbmAndLog u (f u x)) (l : List α) (s : State) :
    OnlyHbmAndLog s (l.foldl f s) := by
  induction l generalizing s with
  | nil => exact onlyHbm_refl s
  | cons x r ih => exact onlyHbm_trans (hf s x) (ih _)

theorem onlyHbm_ite {s a b : State} {c : Prop} [Decidable c] (ha : OnlyHbmAndLog s a) (hb : OnlyHbmAndLog s b) :
    OnlyHbmAndLog s (if c then a else b) := by split <;> assumption

theorem onlyHbm_snap {s t : State} (h : OnlyHbmAndLog s t) : t.snap = s.snap := by rw [h]
theorem onlyHbm_cmd {s t : State} (h : OnlyHbmAndLog s t) : t.cmd = s.cmd := by rw [h]
theorem onlyHbm_tiles {s t : State} (h : OnlyHbmAndLog s t) : t.tiles = s.tiles := by rw [h]
theorem onlyHbm_fab {s t : State} (h : OnlyHbmAndLog s t) : t.fab = s.fab := by rw [h]
theorem onlyHbm_job {s t : State} (h : OnlyHbmAndLog s t) : t.job = s.job := by rw [h]
theorem onlyHbm_red {s t : State} (h : OnlyHbmAndLog s t) : t.red = s.red := by rw [h]
theorem onlyHbm_clk {s t : State} (h : OnlyHbmAndLog s t) : t.clk = s.clk := by rw [h]

theorem touchStack_onlyHbm (s : State) (off : Nat) : OnlyHbmAndLog s (touchStack s off) := rfl

theorem checkFailed_onlyHbm (s : State) (off g : Nat) : OnlyHbmAndLog s (checkFailed s off g) :=
  onlyHbm_of_onlyLog (record_onlyLog _ _)

theorem hbmCe_onlyHbm (s : State) (off g : Nat) : OnlyHbmAndLog s (hbmCe s off g) := by
  unfold hbmCe
  refine onlyHbm_record ?_ _
  simp only [OnlyHbmAndLog, State.setStack]

theorem hbmUe_onlyHbm (s : State) (off g : Nat) (remote : Bool) : OnlyHbmAndLog s (hbmUe s off g remote) := by
  unfold hbmUe
  dsimp only
  split
  · refine onlyHbm_record ?_ _
    split
    · simp only [OnlyHbmAndLog]
    · refine onlyHbm_record ?_ _
      simp only [OnlyHbmAndLog]
  · split
    · simp only [OnlyHbmAndLog]
    · refine onlyHbm_record ?_ _
      simp only [OnlyHbmAndLog]

theorem decodeEffects_onlyHbm (s : State) (remote : Bool) (ds : List Decoded) : OnlyHbmAndLog s (decodeEffects s remote ds) :=
  onlyHbm_trans (onlyHbm_trans (onlyHbm_foldl _ (fun _ _ => checkFailed_onlyHbm _ _ _) _ _)
    (onlyHbm_foldl _ (fun _ _ => hbmUe_onlyHbm _ _ _ _) _ _)) (onlyHbm_foldl _ (fun _ _ => hbmCe_onlyHbm _ _ _) _ _)

theorem decodeMark_onlyHbm (s : State) (m : GranuleMark) : OnlyHbmAndLog s (decodeMark s m).2 := by
  unfold decodeMark
  extract_lets n d
  split
  · exact onlyHbm_refl s
  · split
    · exact onlyHbm_refl s
    · split
      · exact onlyHbm_refl s
      · rfl

theorem readPlace_onlyHbm (s : State) (off g : Nat) : OnlyHbmAndLog s (readPlace s off g).2.2.2 := by
  unfold readPlace
  extract_lets m b raw
  split
  · exact onlyHbm_refl s
  · have hd := decodeMark_onlyHbm s m
    split <;> rename_i u hu <;> (rw [hu] at hd; exact hd)

theorem readPiece_onlyHbm (r : HbmReading) (p : Nat × Nat) : OnlyHbmAndLog r.st (readPiece r p).st := by
  unfold readPiece
  dsimp only
  split
  · exact touchStack_onlyHbm _ _
  · exact onlyHbm_trans (touchStack_onlyHbm r.st p.1) (readPlace_onlyHbm _ _ _)

/-- Everything a read of committed HBM can change. -/
theorem hbmRead_onlyHbm (s : State) (off len : Nat) (remote : Bool) : OnlyHbmAndLog s (hbmRead s off len remote).2.2 := by
  have go : ∀ (ps : List (Nat × Nat)) (r : HbmReading), OnlyHbmAndLog s r.st → OnlyHbmAndLog s (ps.foldl readPiece r).st := by
    intro ps
    induction ps with
    | nil => intro r hr; exact hr
    | cons p q ih => intro r hr; exact ih _ (onlyHbm_trans hr (readPiece_onlyHbm r p))
  exact onlyHbm_trans (go (piecesOf 256 off len) { st := s } (onlyHbm_refl s)) (decodeEffects_onlyHbm _ _ _)

/-- Everything a read of HBM in a stage's view can change. -/
theorem memRead'_onlyHbm (s : State) (key : Option StageKey) (off len : Nat) (remote : Bool) :
    OnlyHbmAndLog s (memRead' s key 0 off len remote).2.2 := by
  unfold memRead'
  split
  · exact hbmRead_onlyHbm _ _ _ _
  · rename_i k
    have go : ∀ (ps : List (Nat × Nat)) (r : Bytes × LineState × State), OnlyHbmAndLog s r.2.2 →
        OnlyHbmAndLog s (ps.foldl (fun r p =>
          let n := pieceOf 0 p.1
          match stagedBytes r.2.2 k n with
          | some b => (r.1 ++ (b.drop (p.1 % 256)).take p.2, worse r.2.1 (if stagedBad r.2.2 k n then .markedBad else .good), r.2.2)
          | none =>
            let m := baseRead r.2.2 0 p.1 p.2 remote
            (r.1 ++ m.1, worse r.2.1 m.2.1, m.2.2)) r).2.2 := by
      intro ps
      induction ps with
      | nil => intro r hr; exact hr
      | cons p q ih =>
        intro r hr
        refine ih _ ?_
        dsimp only
        split
        · exact hr
        · exact onlyHbm_trans hr (hbmRead_onlyHbm _ _ _ _)
    exact go _ _ (onlyHbm_refl s)

/-- A ring pair's read that is answered leaves all but HBM and the log as it was. -/
theorem ringRead_ok {s v : State} {ring off len : Nat} {b : Bytes} (h : ringRead s ring off len = .ok b v) : OnlyHbmAndLog s v := by
  unfold ringRead at h
  extract_lets code m at h
  split at h
  · simp at h
  · split at h
    · simp at h
    · split at h <;> first | (simp at h; done) | (injection h with _ e; rw [← e]; exact memRead'_onlyHbm _ _ _ _ _)

/-- A granule without marks reads as it was written, good, with nothing to do. -/
theorem readPlace_unmarked {s : State} (h : s.hbm.marks = []) (off g : Nat) :
    readPlace s off g = (memRead zeroByte s.hbm.mem (g * 256) 256, .good, ⟨off, g, .clean, false⟩, s) := by
  have m : markOf s g = {} := by unfold markOf; rw [h]; rfl
  unfold readPlace
  simp only [m]
  rfl

/-- Only the stacks' times of last access differ. -/
def OnlyTouched (s t : State) : Prop := t = { s with hbm := { s.hbm with stk := t.hbm.stk } }

theorem touched_trans {s t : State} (h : OnlyTouched s t) (off : Nat) : OnlyTouched s (touchStack t off) := by
  unfold OnlyTouched at *
  rw [h]
  rfl

theorem touched_piece {s t : State} (h : OnlyTouched s t) (n : Nat) : committedPiece t n = committedPiece s n := by
  rw [show t = { s with hbm := { s.hbm with stk := t.hbm.stk } } from h]
  rfl

/-- Of a piece of committed HBM that has no marks, a read brings the committed bytes and finds nothing. -/
theorem readPiece_unmarked {r : HbmReading} (h : r.st.hbm.marks = []) (hf : r.found = []) (p : Nat × Nat) :
    (readPiece r p).bytes = r.bytes ++ ((committedPiece (touchStack r.st p.1) (p.1 / 256)).drop (p.1 % 256)).take p.2 ∧
    (readPiece r p).found = [] ∧ (readPiece r p).st = touchStack r.st p.1 := by
  have hm : (touchStack r.st p.1).hbm.marks = [] := h
  unfold readPiece
  dsimp only
  split
  · rename_i b hb
    exact ⟨by simp only [committedPiece, hb], hf, rfl⟩
  · rename_i hn
    simp only [readGranule, readPlace_unmarked hm, committedPiece, hn, Nat.mul_comm 256, hf]
    simp

/-- A read of committed HBM that has no marks: it answers the committed bytes and only touches the stacks. -/
theorem hbmRead_unmarked {s : State} (h : s.hbm.marks = []) (off len : Nat) (remote : Bool) :
    (hbmRead s off len remote).1 = committedBytes s off len ∧ OnlyTouched s (hbmRead s off len remote).2.2 := by
  have go : ∀ (ps : List (Nat × Nat)) (r : HbmReading), OnlyTouched s r.st → r.found = [] →
      (ps.foldl readPiece r).bytes = r.bytes ++ ps.flatMap (fun p => ((committedPiece s (p.1 / 256)).drop (p.1 % 256)).take p.2) ∧
      (ps.foldl readPiece r).found = [] ∧ OnlyTouched s (ps.foldl readPiece r).st := by
    intro ps
    induction ps with
    | nil => intro r hr hf; exact ⟨by simp, hf, hr⟩
    | cons p q ih =>
      intro r hr hf
      have hm : r.st.hbm.marks = [] := by rw [hr]; exact h
      obtain ⟨a, b, c⟩ := readPiece_unmarked hm hf p
      have ht := touched_trans hr p.1
      obtain ⟨x, y, z⟩ := ih (readPiece r p) (by rw [c]; exact ht) b
      simp only [List.foldl_cons, List.flatMap_cons]
      exact ⟨by rw [x, a, touched_piece ht, List.append_assoc], y, z⟩
  obtain ⟨a, b, c⟩ := go (piecesOf 256 off len) { st := s } rfl rfl
  unfold hbmRead
  dsimp only
  rw [b]
  exact ⟨a.trans (List.nil_append _), c⟩

theorem touched_mem {s t : State} (h : OnlyTouched s t) : t.hbm.mem = s.hbm.mem := by rw [h]
theorem touched_marks {s t : State} (h : OnlyTouched s t) : t.hbm.marks = s.hbm.marks := by rw [h]
theorem touched_bytes {s t : State} (h : OnlyTouched s t) (off len : Nat) : committedBytes t off len = committedBytes s off len := by
  unfold committedBytes
  simp only [touched_piece h]

/-- A ring pair outside a pitch reads committed HBM: the bytes stored stay. -/
theorem ringRead_keeps {s v : State} {ring off len : Nat} {b : Bytes} (h : ringRead s ring off len = .ok b v) (m : s.hbm.marks = [])
    (w : ringView s ring = none) : v.hbm.mem = s.hbm.mem := by
  unfold ringRead at h
  rw [w] at h
  extract_lets code q at h
  split at h
  · simp at h
  · split at h
    · simp at h
    · split at h <;> first
        | (simp at h; done)
        | (injection h with _ e; rw [← e]; exact touched_mem (hbmRead_unmarked m off len false).2)

/-- A descriptor that starts changes its ring pair only. -/
theorem beginDesc_only (s : State) (ring : Nat) (d : Desc) :
    beginDesc s ring d = { s with cmd := { s.cmd with rings := (beginDesc s ring d).cmd.rings } } := by
  unfold beginDesc
  extract_lets
  split <;> rfl

theorem beginDesc_snap (s : State) (ring : Nat) (d : Desc) : (beginDesc s ring d).snap = s.snap := by rw [beginDesc_only]
theorem beginDesc_hbm (s : State) (ring : Nat) (d : Desc) : (beginDesc s ring d).hbm = s.hbm := by rw [beginDesc_only]

end Sys2Proof.Machine
end

