-- ==== Sys2Proof/Laws/Threads.lean ====
section
/-! SUPPORT. What issuing an instruction does, said once (R135, R142, R143, R146): every thread instruction is written
over `issue`, `sequential` and `transfer`. -/

namespace Sys2Proof.Machine

/-- The thread as it stands once its issue is noted. -/
def issuedThread (s : State) (tile slot : Nat) (w : W32) : Thread :=
  { (s.tile tile).thread slot with
    ipc := ((s.tile tile).thread slot).pc, iw := w
    readyAt := s.clk + (if guardOn ((s.tile tile).thread slot) w then latency w else 1) }

@[simp] theorem noteIssue_thread (s : State) (tile slot : Nat) (w : W32) :
    ((noteIssue s tile slot w).tile tile).thread slot = issuedThread s tile slot w := by
  simp [noteIssue, Tile.thread, issuedThread]

theorem noteIssue_thread_ne (s : State) (tile slot y : Nat) (w : W32) (h : y ≠ slot) :
    ((noteIssue s tile slot w).tile tile).thread y = (s.tile tile).thread y := by
  simp [noteIssue, Tile.thread, h]

theorem noteIssue_tile_ne (s : State) (tile slot x : Nat) (w : W32) (h : x ≠ tile) :
    (noteIssue s tile slot w).tile x = s.tile x := by
  simp [noteIssue, h]

/-- The note changes no launch, so the image is the same. -/
@[simp] theorem imageLen_noteIssue (s : State) (tile slot t : Nat) (w : W32) :
    imageLen (noteIssue s tile slot w) t = imageLen s t := by
  by_cases h : t = tile
  · subst h
    simp [noteIssue, imageLen]
    rfl
  · simp [noteIssue, imageLen, h]
    rfl

/-- A word that issues runs its body. -/
theorem issue_next (opc tile slot : Nat) (s : State) (body : Thread → W32 → State → State)
    (w : W32) (ht : tile < 1152) (hs : slot < 2048) (hw : threadWord s tile slot = some w) (ho : opcOf w = opc)
    (hv : validWord w = true) (hg : guardOn ((s.tile tile).thread slot) w = true) (hp : picked s tile slot = true) :
    issue opc tile slot s body = .next (body (issuedThread s tile slot w) w (noteIssue s tile slot w)) := by
  simp [issue, onSlot, ht, hs, hw, ho, hv, hg, hp]

/-- A word whose guard is off only steps the program counter. -/
theorem issue_guarded (opc tile slot : Nat) (s : State) (body : Thread → W32 → State → State)
    (w : W32) (ht : tile < 1152) (hs : slot < 2048) (hw : threadWord s tile slot = some w) (ho : opcOf w = opc)
    (hv : validWord w = true) (hg : guardOn ((s.tile tile).thread slot) w = false)
    (hk : picked s tile slot = true) (hp : ((s.tile tile).thread slot).pc.toNat + 4 < imageLen s tile) :
    issue opc tile slot s body =
      .next ((noteIssue s tile slot w).setThread tile slot
        { issuedThread s tile slot w with pc := ((s.tile tile).thread slot).pc + 4 }) := by
  have hp' : (issuedThread s tile slot w).pc.toNat + 4 < imageLen s tile := hp
  simp only [issue, onSlot, ht, hs, hw, ho, hv, hg, hk, and_self, if_true, sequential, noteIssue_thread, imageLen_noteIssue,
    if_pos hp', Bool.false_eq_true, if_false]
  rfl

/-- Within the image the step of the program counter runs what follows it. -/
theorem sequential_next (s : State) (tile slot : Nat) (w : W32) (rest : Thread → State)
    (hp : ((s.tile tile).thread slot).pc.toNat + 4 < imageLen s tile) :
    sequential (noteIssue s tile slot w) tile slot w rest =
      rest { issuedThread s tile slot w with pc := ((s.tile tile).thread slot).pc + 4 } := by
  have hp' : (issuedThread s tile slot w).pc.toNat + 4 < imageLen s tile := hp
  simp only [sequential, noteIssue_thread, imageLen_noteIssue, if_pos hp']
  rfl

/-- A transfer of control to a legal target. -/
theorem transfer_next (s : State) (tile slot : Nat) (w : W32) (target : Nat) (th : Thread)
    (h4 : target % 4 = 0) (hl : target < imageLen s tile) :
    transfer (noteIssue s tile slot w) tile slot w target th =
      (noteIssue s tile slot w).setThread tile slot { th with pc := BitVec.ofNat 32 target } := by
  simp [transfer, h4, hl]

end Sys2Proof.Machine
end

