-- ==== Sys2Proof/Tests/Slice0.lean ====
section
/-! SUPPORT. Tests: what the checks of well-formedness refuse, results that the specification's tables give, and for each
obligation with hypotheses a state and operands that meet them. -/

namespace Sys2Proof.Tests

set_option Elab.async false

open Sys2Proof Sys2Proof.Machine Sys2Proof.Safety

/-- The state a command leaves. -/
def ran (r : Res) : State := match r with | .next t => t | _ => State.reset

/-- The command was answered with a next state. -/
def went (r : Res) : Bool := match r with | .next _ => true | _ => false

/-! ### Threads -/

/-- A launch of 256 bytes of image, parties of two slots. -/
def aLaunch : Launch := { id := 0, ring := 0, img := 0xFFF0000000000000, imgLen := 256, entry := 0, args := 0, strm := 0, nparty := 1,
                          psize := 2, czero := false, rot := false, wdog := 0, ltAddr := 0, tset := [0], started := [0] }

/-- Tile 0 runs the launch; slot 0 is at the first word `w`, with registers 1 to 3 set. -/
def threadAt (w : W32) : State :=
  let th : Thread := { g := [(1, 0xFFFFFFFFFFFFFFFF), (2, 1), (3, 8), (4, 0xFFF0000000000000)], phase := .ready }
  let t : Tile := { trun := 1, launch := some 0, threads := [(0, th)], icache := [(0, leBytes 4 w.toNat)], mode := 0 }
  { tiles := [(0, t)], cmd := { launches := [aLaunch] } }

/-- A word of form A from its fields (R142): guard p0, `OPC`, `RD`, `RA`, `RB`, `FN`. -/
def formA (opc rd ra rb fn : Nat) : W32 := BitVec.ofNat 32 (8 * opc + 2 ^ 10 * rd + 2 ^ 14 * ra + 2 ^ 18 * rb + 2 ^ 22 * fn)
/-- A word of form B: `IMM14` in bits 31 to 18. -/
def formB (opc rd ra imm : Nat) : W32 := BitVec.ofNat 32 (8 * opc + 2 ^ 10 * rd + 2 ^ 14 * ra + 2 ^ 18 * imm)
/-- A word of form D: `IMM22` in bits 31 to 10. -/
def formD (opc imm : Nat) : W32 := BitVec.ofNat 32 (8 * opc + 2 ^ 10 * imm)
/-- A word of form A whose guard is NOT p0: it never takes effect. -/
def guardedOff (w : W32) : W32 := w ||| 4

theorem test_add_wraps : (thr (ran (exec (.add 0 0) (threadAt (formA 0x01 5 1 2 0)))) 0 0).reg 5 = 0 := by decide +kernel
theorem test_mulh_signed : (thr (ran (exec (.mulh 0 0) (threadAt (formA 0x04 5 1 2 0)))) 0 0).reg 5 = 0xFFFFFFFFFFFFFFFF := by decide +kernel
theorem test_sar_keeps_sign : (thr (ran (exec (.sar 0 0) (threadAt (formA 0x0A 5 1 3 0)))) 0 0).reg 5 = 0xFFFFFFFFFFFFFFFF := by decide +kernel
theorem test_minu_unsigned : (thr (ran (exec (.minu 0 0) (threadAt (formA 0x0D 5 1 2 0)))) 0 0).reg 5 = 1 := by decide +kernel
theorem test_addi_sign_extends : (thr (ran (exec (.addi 0 0) (threadAt (formB 0x10 5 2 0x3FFF)))) 0 0).reg 5 = 0 := by decide +kernel
theorem test_g0_discards : (thr (ran (exec (.add 0 0) (threadAt (formA 0x01 0 1 1 0)))) 0 0).reg 0 = 0 := by decide +kernel
theorem test_shi_shifts : (thr (ran (exec (.shi 0 0) (threadAt (BitVec.ofNat 32 (8 * 0x17 + 2 ^ 10 * 2 + 2 ^ 16 * 0xABCD))))) 0 0).reg 2 = 0x1ABCD := by decide +kernel
theorem test_cmp_signed : (thr (ran (exec (.cmp 0 0) (threadAt (formA 0x20 1 1 2 2)))) 0 0).pred 1 = true := by decide +kernel
theorem test_cmp_unsigned : (thr (ran (exec (.cmp 0 0) (threadAt (formA 0x20 1 1 2 6)))) 0 0).pred 1 = false := by decide +kernel
theorem test_brl_links : (thr (ran (exec (.brl 0 0) (threadAt (formD 0x29 1)))) 0 0).reg 15 = 4 ∧
    (thr (ran (exec (.brl 0 0) (threadAt (formD 0x29 2)))) 0 0).pc = 8 := by decide +kernel
theorem test_guard_off : (thr (ran (exec (.add 0 0) (threadAt (guardedOff (formA 0x01 5 1 2 0))))) 0 0).g =
    (thr (threadAt 0) 0 0).g ∧ (thr (ran (exec (.add 0 0) (threadAt (guardedOff (formA 0x01 5 1 2 0))))) 0 0).pc = 4 := by decide +kernel
theorem test_reserved_word_stops : ((ran (exec (.threadReservedOpcode 0 0) (threadAt (formA 0x7E 0 0 0 0)))).tile 0).tfltCode = 0x010B := by decide +kernel

/-- Every opcode of the tables of R144 issues in `threadAt`. -/
theorem witness_ThreadArithmetic : ∀ opc, opc ∈ [0x01, 0x02, 0x03, 0x04, 0x05, 0x06, 0x07, 0x08, 0x09, 0x0A, 0x0B, 0x0C, 0x0D, 0x0E,
    0x10, 0x11, 0x12, 0x13, 0x14, 0x15, 0x16, 0x17] →
    Issues (threadAt (formA opc 5 4 0 0)) 0 0 (formA opc 5 4 0 0) ∧ opcOf (formA opc 5 4 0 0) = opc := by
  unfold Issues Fetches
  decide +kernel

theorem witness_ThreadPredicatesAndBranches :
    (∀ opc, opc ∈ [0x20, 0x21, 0x22] → Issues (threadAt (formA opc 1 1 2 0)) 0 0 (formA opc 1 1 2 0) ∧ opcOf (formA opc 1 1 2 0) = opc) ∧
    (∀ opc, opc ∈ [0x28, 0x29] → Fetches (threadAt (formD opc 1)) 0 0 (formD opc 1) ∧ opcOf (formD opc 1) = opc) ∧
    Fetches (threadAt (formA 0x2A 0 3 0 0)) 0 0 (formA 0x2A 0 3 0 0) ∧
    (∀ opc, opc ∈ [0x00, 0x01, 0x3B, 0x43, 0x4B, 0x4D, 0x50, 0x7F] →
      let w := guardedOff (formA opc 0 0 0 0)
      threadWord (threadAt w) 0 0 = some w ∧ validWord w = true ∧ picked (threadAt w) 0 0 = true ∧ guardOn (thr (threadAt w) 0 0) w = false ∧ opcOf w = opc) := by
  unfold Issues Fetches
  decide +kernel

theorem witness_ThreadReads :
    (∀ opc, opc ∈ [0x00, 0x60, 0x62] → Issues (threadAt (formA opc 0 0 0 0)) 0 0 (formA opc 0 0 0 0) ∧ opcOf (formA opc 0 0 0 0) = opc) ∧
    Issues (threadAt (formA 0x63 1 2 0 0)) 0 0 (formA 0x63 1 2 0 0) ∧
    launchOn (threadAt 0) 0 = some aLaunch ∧ 0 < aLaunch.psize := by
  unfold Issues Fetches
  decide +kernel

theorem witness_ThreadCountersAndQueues :
    Issues (threadAt (formA 0x50 0 1 2 2)) 0 0 (formA 0x50 0 1 2 2) ∧
    Issues (threadAt (formA 0x52 5 0 0 255)) 0 0 (formA 0x52 5 0 0 255) ∧ Issues (threadAt (formA 0x52 0 1 0 511)) 0 0 (formA 0x52 0 1 0 511) ∧
    Issues (threadAt (formA 0x61 5 0 6 255)) 0 0 (formA 0x61 5 0 6 255) ∧
    queueRoom ((threadAt 0).tile 0) 2 = true ∧ ((threadAt 0).tile 0).storeMarks = [] := by
  unfold Issues Fetches
  decide +kernel

/-- Slot 0 of `threadAt` waits for `q`. -/
def waitingFor (q : Waiting) : State :=
  let s := threadAt 0
  s.setThread 0 0 { thr s 0 0 with phase := .waiting, wait := q }

theorem witness_ThreadWaits :
    Issues (threadAt (formA 0x51 0 2 0 255)) 0 0 (formA 0x51 0 2 0 255) ∧
    ((thr (waitingFor (.counter 255 0)) 0 0).wait = .counter 255 0 ∧ ((waitingFor (.counter 255 0)).seenCounter 0 255 - 0).toNat < 2 ^ 31) ∧
    Issues (threadAt (formA 0x59 0 0 0 0)) 0 0 (formA 0x59 0 0 0 0) ∧ Issues (threadAt (formA 0x59 0 0 0 1023)) 0 0 (formA 0x59 0 0 0 1023) ∧
    ((thr (waitingFor (.yield 0)) 0 0).wait = .yield 0 ∧ ((waitingFor (.yield 0)).tile 0).trun = 1 ∧ 0 ≤ (waitingFor (.yield 0)).clk) ∧
    (∀ fn, fn ∈ [0, 1, 2] → Issues (threadAt (formA 0x5A 0 0 0 fn)) 0 0 (formA 0x5A 0 0 0 fn)) ∧
    ((thr (waitingFor (.fence 2 [7] [] [] 0)) 0 0).wait = .fence 2 [7] [] [] 0 ∧ reqOf (waitingFor (.fence 2 [7] [] [] 0)) 7 = none ∧
      covered (waitingFor (.fence 2 [7] [] [] 0)) [] = true) ∧
    (let s := { waitingFor (.fence 2 [] [⟨1, 0, 5⟩] [] 0) with clk := 2 ^ 40 }
     (thr s 0 0).wait = .fence 2 [] [⟨1, 0, 5⟩] [] 0 ∧ (s.tile 0).trun = 1 ∧ covered s [⟨1, 0, 5⟩] = false ∧
      0 + s.fab.fenceTo.toNat * 1200 ≤ s.clk) := by
  unfold Issues Fetches
  decide +kernel

theorem witness_ThreadParties :
    Issues (threadAt (formA 0x58 0 0 0 0)) 0 0 (formA 0x58 0 0 0 0) ∧ launchOn (threadAt 0) 0 = some aLaunch ∧
    Fetches (threadAt (formA 0x7F 0 0 0 0)) 0 0 (formA 0x7F 0 0 0 0) ∧ ((threadAt 0).tile 0).barriers = [] := by
  unfold Issues Fetches
  decide +kernel

/-- Loads and stores of every width at their highest offset and, for the local ones, at the first. -/
theorem witness_ThreadMemory :
    (∀ p, p ∈ [(0x30, 1), (0x31, 2), (0x32, 4), (0x33, 8), (0x34, 1), (0x35, 2), (0x36, 4), (0x38, 1), (0x39, 2), (0x3A, 4), (0x3B, 8)] →
      let w := formB p.1 5 0 0
      let s := threadAt w
      Issues s 0 0 w ∧ opcOf w = p.1 ∧ Mem.wf zeroByte (s.tile 0).mem = true ∧
        ((thr s 0 0).reg (raOf w) + imm14 w).toNat % 2 ^ 24 % p.2 = 0 ∧ ((thr s 0 0).reg (raOf w) + imm14 w).toNat % 2 ^ 24 < 0xC00000 ∧
        inContext (((thr s 0 0).reg (raOf w) + imm14 w).toNat % 2 ^ 24) = false ∧ (s.tile 0).marks = []) ∧
    (∀ p, p ∈ [(0x40, 1), (0x41, 2), (0x42, 4), (0x43, 8), (0x44, 1), (0x45, 2), (0x46, 4), (0x48, 1), (0x49, 2), (0x4A, 4), (0x4B, 8)] →
      let w := formB p.1 5 4 8
      let s := threadAt w
      let a := (thr s 0 0).reg (raOf w) + imm14 w
      Issues s 0 0 w ∧ opcOf w = p.1 ∧ a.toNat % p.2 = 0 ∧ addrDev a = 0xFFF ∧ addrSpace a = 0 ∧ addrOff a + p.2 ≤ hbmBytes) := by
  unfold Issues Fetches
  decide +kernel

theorem witness_ThreadLocalAtomic : ∀ fn, fn ∈ [0, 1, 2, 3, 4] →
    let w := formA 0x4C 5 3 2 fn
    let s := threadAt w
    Issues s 0 0 w ∧ opcOf w = 0x4C ∧ Mem.wf zeroByte (s.tile 0).mem = true ∧ (s.tile 0).marks = [] ∧
      ((thr s 0 0).reg (raOf w)).toNat % 2 ^ 24 % 8 = 0 ∧ inContext (((thr s 0 0).reg (raOf w)).toNat % 2 ^ 24) = false := by
  unfold Issues Fetches
  decide +kernel

theorem test_atoml_compare_swap :
    let t := ran (exec (.atoml 0 0) (threadAt (formA 0x4C 6 3 2 2)))
    tileNat (t.tile 0) 8 8 = 1 ∧ (thr t 0 0).reg 6 = 0 := by decide +kernel

theorem test_stl_little_endian :
    let t := ran (exec (.stl4 0 0) (threadAt (formB 0x3A 4 3 0)))
    tileNat (t.tile 0) 8 4 = 0 ∧ (let t := ran (exec (.stl8 0 0) (threadAt (formB 0x3B 4 3 0))); tileByte (t.tile 0) 15 = 0xFF) := by decide +kernel

/-- A load's request of this part's HBM has its data. -/
def replied : State :=
  { waitingFor (.reply 5 6 1 true) with
    reqs := [{ id := 5, issuer := .thread 0 0, act := .read, addr := 0xFFF0000000000000, len := 1, reply := .data [0x80] .good }] }

theorem test_load_reply_extends : (thr (ran (exec (.globalLoadReply 0 0 0 false) replied)) 0 0).reg 6 = 0xFFFFFFFFFFFFFF80 := by decide +kernel

theorem witness_ThreadReplies :
    (∀ fn, fn ∈ [0, 1, 2, 3, 4] → let w := formA 0x4D 5 4 2 fn
      let s := threadAt w
      let a := (thr s 0 0).reg (raOf w)
      Issues s 0 0 w ∧ opcOf w = 0x4D ∧ a.toNat % 8 = 0 ∧ addrDev a = 0xFFF ∧ addrSpace a = 0 ∧ addrOff a + 8 ≤ hbmBytes) ∧
    ((thr replied 0 0).wait = .reply 5 6 1 true ∧ (replied.tile 0).trun = 1 ∧ ∃ r, reqOf replied 5 = some r ∧ addrSpace r.addr = 0 ∧
      r.reply = .data [0x80] .good) ∧
    (let s := waitingFor (.accept 0xFFF0000000000000 8 1)
     (thr s 0 0).wait = .accept 0xFFF0000000000000 8 1 ∧ (s.tile 0).trun = 1 ∧ pathRoom s 0 = true ∧ addrDev 0xFFF0000000000000 = 0xFFF ∧
      addrSpace 0xFFF0000000000000 = 0) ∧
    (let s := threadAt (formA 0x7E 0 0 0 0)
     threadWord s 0 0 = some (formA 0x7E 0 0 0 0) ∧ picked s 0 0 = true ∧ validWord (formA 0x7E 0 0 0 0) = false) := by
  unfold Issues Fetches
  refine ⟨by decide +kernel, ⟨by decide +kernel, by decide +kernel, ⟨_, rfl, by decide +kernel, rfl⟩⟩, by decide +kernel, by decide +kernel⟩

/-- Every domain is on and every stack has trained. -/
def powered (s : State) : State :=
  { s with pwr := { s.pwr with phase := .run, domains := List.range 156 }, hbm := { s.hbm with stk := (List.range 24).map (fun k => (k, { trained := true })) } }

/-- Slot 0 of `threadAt` with no line of its image in the cache. -/
def unfetched : State :=
  let s := powered (threadAt 0)
  s.setTile 0 { s.tile 0 with icache := [] }

theorem witness_ThreadReplies_fill :
    launchOn unfetched 0 = some aLaunch ∧ (unfetched.tile 0).trun = 1 ∧ (thr unfetched 0 0).phase = .ready ∧
    tget? (unfetched.tile 0).icache 0 = none ∧ (unfetched.tile 0).icache.length < 256 ∧ tileView unfetched 0 = none ∧
    unfetched.hbm.marks = [] ∧ unfetched.cmd.redirects = [] ∧ rangeOk 0 0 256 = true ∧ refusal unfetched (.thread 0 0) .read none 0 0 256 = 0 ∧
    unitReady unfetched 0 0 256 = true ∧ addrOff (aLaunch.img + 0) = 0 := by
  decide +kernel

/-! ### The matrix array -/

/-- An instruction of 128 bits from (lowest bit, value) fields. -/
def word128 (fields : List (Nat × Nat)) : W128 := BitVec.ofNat 128 ((fields.map (fun f => 2 ^ f.1 * f.2)).sum)

/-- Tile 0 runs, in a mode, with these instructions in its matrix queue. -/
def matrixTile (mode : BitVec 2) (q : List W128) : Tile := { trun := 1, mode := mode, mqueue := q }

/-- A part whose tile 0 is `x`. -/
def onlyTile0 (x : Tile) : State := { tiles := [(0, x)] }

/-- MLOAD of one BI1 column from SRAM 0 (`TAG` 0xC). -/
def aLoad : W128 := word128 [(0, 1), (8, 0xC), (25, 1)]
/-- MSWAP. -/
def aSwap : W128 := word128 [(0, 2)]
/-- MRUN of one vector at `PASS` 1. -/
def aRun : W128 := word128 [(0, 3), (9, 1), (33, 1)]

/-- A weight set that holds nothing but is valid. -/
def validSet : WeightSet := { valid := true, tag := 0xC, cols := 1 }

/-- Tile 0 with a load under way. -/
def loading : State := onlyTile0 { trun := 1, mode := 0, mload := some { word := aLoad, result := validSet, cycles := 1 } }

theorem witness_MatrixWeights :
    (Claims.MatrixHead (onlyTile0 (matrixTile 0 [aLoad])) 0 aLoad 0x01 ∧ mloadRefusal (matrixTile 0 [aLoad]) aLoad = 0 ∧ 0 < mCols aLoad) ∧
    (let w := word128 [(0, 1), (8, 0xC), (25, 257)]
     Claims.MatrixHead (onlyTile0 (matrixTile 0 [w])) 0 w 0x01 ∧ mloadRefusal (matrixTile 0 [w]) w = 0x0103 ∧ statOf w = false) ∧
    ((loading.tile 0).mload = some { word := aLoad, result := validSet, cycles := 1 } ∧ loading.floored = false ∧ RecordPlace loading 0 aLoad) := by
  unfold Claims.MatrixHead Clean RecordPlace
  decide +kernel

theorem test_mload_makes_no_active : ((ran (exec (.mload 0) (onlyTile0 (matrixTile 0 [aLoad])))).tile 0).active.valid = false ∧
    ((ran (exec (.mload 0) (onlyTile0 (matrixTile 0 [aLoad])))).tile 0).mqueue = [] := by decide +kernel

/-- Tile 0 with both sets in given states of validity. -/
def setsTile (q : List W128) (active shadow : Bool) : Tile :=
  { matrixTile 0 q with active := { validSet with valid := active }, shadow := { validSet with valid := shadow, cols := 2 } }

theorem test_mswap : ((ran (exec (.mswap 0) (onlyTile0 (setsTile [aSwap] false true)))).tile 0).active = { validSet with cols := 2 } := by decide +kernel
theorem test_mswap_refused : ((ran (exec (.mswap 0) (onlyTile0 (setsTile [aSwap] true false)))).tile 0).tfltCode = 0x0108 := by decide +kernel
theorem test_mrun_refused : ((ran (exec (.mrun 0) (onlyTile0 (setsTile [aRun] false true)))).tile 0).tfltCode = 0x0108 := by decide +kernel

theorem witness_SwapActivatesShadow :
    (let s := onlyTile0 (setsTile [aSwap] false true)
     Claims.MatrixHead s 0 aSwap 0x02 ∧ cellsFree (s.tile 0) = true ∧ mswapRefusal (s.tile 0) aSwap = 0 ∧ RecordPlace s 0 aSwap) ∧
    (let s := onlyTile0 (setsTile [aSwap] true false)
     Claims.MatrixHead s 0 aSwap 0x02 ∧ cellsFree (s.tile 0) = true ∧ (s.tile 0).shadow.valid = false ∧ RecordPlace s 0 aSwap ∧
      mswapRefusal { s.tile 0 with shadow := { (s.tile 0).shadow with valid := true } } aSwap = 0) ∧
    (let s := onlyTile0 (setsTile [aRun] false true)
     Claims.MatrixHead s 0 aRun 0x03 ∧ cellsFree (s.tile 0) = true ∧ (s.tile 0).active.valid = false ∧ 0 < rNvec aRun ∧ RecordPlace s 0 aRun ∧
      mrunRefusal { s.tile 0 with active := { (s.tile 0).active with valid := true, squareChecked := true } } aRun = 0) := by
  unfold Claims.MatrixHead Clean RecordPlace
  decide +kernel

/-- Tile 0 in a mode with a run at its first row, an element 1 first in its stream and a given checksum table. -/
def runningTile (mode : BitVec 2) (w : W128) (rows : Nat) (sums : Table (BitVec 14)) : State :=
  onlyTile0 { trun := 1, mode := mode, active := { validSet with sums := sums }, mruns := [{ word := w, rows := rows }], mem := [(0, 1)] }

/-- A run in pack form over bytes that are no pack. -/
def badRun : W128 := word128 [(0, 3), (9, 1), (13, 1), (33, 1)]

set_option maxRecDepth 20000 in
theorem badRun_isBad : (streamTo ((runningTile 0 badRun 0 []).tile 0) { word := badRun } (rPass badRun)).fault.isSome = true := by decide +kernel

theorem witness_MatrixRuns :
    (let s := onlyTile0 (setsTile [aRun] true true)
     Claims.MatrixHead s 0 aRun 0x03 ∧ cellsFree (s.tile 0) = true ∧ mrunRefusal (s.tile 0) aRun = 0 ∧ 0 < rNvec aRun) ∧
    (let s := runningTile 0 aRun 0 []
     Claims.Streams s 0 { word := aRun } ∧ rowDue (s.tile 0) { word := aRun } = true ∧
      (streamTo (s.tile 0) { word := aRun } (rPass aRun)).fault = none) ∧
    (let s := runningTile 0 badRun 0 []
     Claims.Streams s 0 { word := badRun } ∧ rowDue (s.tile 0) { word := badRun } = true ∧ (s.tile 0).trun ≠ 3 ∧ statOf badRun = false ∧
      ∃ e, (streamTo (s.tile 0) { word := badRun } (rPass badRun)).fault = some e) ∧
    (let s := runningTile 0 aRun 1 []
     (s.tile 0).mruns = [{ word := aRun, rows := 1 }] ∧ runStreamed (s.tile 0) { word := aRun, rows := 1 } = true ∧ RecordPlace s 0 aRun) := by
  unfold Claims.MatrixHead Claims.Streams Clean RecordPlace
  exact ⟨by decide +kernel, by decide +kernel,
    ⟨by decide +kernel, by decide +kernel, by decide +kernel, by decide +kernel, Option.isSome_iff_exists.mp badRun_isBad⟩, by decide +kernel⟩

theorem witness_MatrixChecks_clean :
    let s := runningTile 1 aRun 1 []
    let r : MatrixRun := { word := aRun, rows := 1 }
    Claims.Streams s 0 r ∧ r.checks < runChecks (s.tile 0) aRun ∧ rowsBefore aRun r.checks ≤ r.rows ∧ statOf aRun = false ∧ rDir aRun = false ∧
      (streamTo (s.tile 0) r (windowEnd aRun r.checks - rPass aRun * r.rows)).fault = none := by
  unfold Claims.Streams Clean
  decide +kernel

theorem checkDiff_empty (a : List Int) (g p : Nat) (high : Bool) : checkDiff validSet a g p high = (0, 0) := by
  have zero : ∀ {α : Type} (l : List α), (l.map (fun _ => (0 : Nat))).sum = 0 := by
    intro α l
    induction l with
    | nil => rfl
    | cons _ _ ih => simpa using ih
  have zeroInt : ∀ {α : Type} (l : List α), (l.map (fun _ => (0 : Int))).sum = 0 := by
    intro α l
    induction l with
    | nil => rfl
    | cons _ _ ih => simpa using ih
  simp [checkDiff, validSet, planeBit, tget, tget?, bit, Function.comp_def, zero, zeroInt]

/-- No comparison of an empty set fails, whatever was streamed. -/
theorem witness_MatrixChecks_none (a : List Int) : firstFailing ((runningTile 1 aRun 1 []).tile 0).active a = none := by
  have h : ((runningTile 1 aRun 1 []).tile 0).active = validSet := rfl
  rw [h]
  simp [firstFailing, checkDiff_empty]

theorem witness_MatrixChecks_failing :
    (firstFailing ((runningTile 1 aRun 1 [(0, 1)]).tile 0).active [1]).isSome = true ∧
    (let r : MatrixRun := { word := aRun, rows := 1, sums := [1] }
     let s := onlyTile0 { trun := 1, mode := 1, active := { validSet with sums := [(0, 1)] }, mruns := [r], mem := [(0, 1)] }
     Claims.Streams s 0 r ∧ r.checks < runChecks (s.tile 0) aRun ∧ rowsBefore aRun r.checks ≤ r.rows ∧ (s.tile 0).trun ≠ 3 ∧
      (streamTo (s.tile 0) r (windowEnd aRun 0 - rPass aRun * 1)).fault = none ∧
      addSums r.sums ((streamTo (s.tile 0) r (windowEnd aRun 0 - rPass aRun * 1)).slices.drop r.part.length) = [1] ∧ rDir aRun = false ∧
      statOf aRun = false) := by
  unfold Claims.Streams Clean
  decide +kernel

theorem witness_MatrixChecks_reserved :
    (matrixHead (onlyTile0 (matrixTile 0 [word128 [(0, 4)]])) 0 = some (word128 [(0, 4)]) ∧ 3 < opOf (word128 [(0, 4)])) ∧
    (vectorHead (onlyTile0 { trun := 1, vqueue := [0x61] }) 0 = some 0x61 ∧ opOf 0x61 ∉ vectorOpcodes) ∧
    (copyHead (onlyTile0 { trun := 1, cqueue := [0x82] }) 0 = some 0x82 ∧ opOf 0x82 ≠ 0x80 ∧ opOf 0x82 ≠ 0x81) := by
  refine ⟨⟨by decide +kernel, by decide +kernel⟩, ⟨by decide +kernel, by decide +kernel⟩, by decide +kernel, by decide +kernel, by decide +kernel⟩

/-- A row that is written adds what its rows received to the sums, which the check slot then compares. -/
theorem test_check_slot_counts :
    let s := ran (exec (.mrunRowWrite 0 0) (runningTile 1 aRun 0 [(0, 1)]))
    let t := ran (exec (.mrunCheckSlot 0 0) s)
    (t.tile 0).mismatch = 1 ∧ (t.tile 0).tfltCode = 0x0102 := by decide +kernel

/-! ### Descriptors -/

/-- A descriptor of 64 bytes from (offset, width, value) fields. -/
def aDesc (fields : List (Nat × Nat × Nat)) : Desc := { index := 0, raw := layout 64 fields }

/-- Ring pair 0 is ACTIVE with these descriptors. -/
def withDescs (s : State) (ds : List Desc) : State := s.setRing 0 { phase := .active, size := 64, descs := ds }

theorem witness_TileConfiguration :
    (let d := aDesc [(0, 1, 0x30), (8, 2, 1151), (10, 1, 0), (16, 33, 2 ^ 259)]
     let s := withDescs {} [d]
     Claims.Runs s 0 d 0x30 0 ∧ tileCfgRefusal s d = 0 ∧ (s.tile (opnd d 8 2)).config = none ∧ opnd d 8 2 = 1151) ∧
    (let s := onlyTile0 { config := some ⟨0, 0, false, 1⟩ }
     (s.tile 0).config = some ⟨0, 0, false, 1⟩ ∧ (s.tile 0).mqueue = [] ∧ (s.tile 0).mload = none ∧ (s.tile 0).mruns = []) := by
  unfold Claims.Runs
  decide +kernel

theorem test_width_narrow : widthFor 0 0#260 = 256 ∧ widthFor 1 0#260 = 256 ∧ widthFor 0 (BitVec.ofNat 260 31) = 248 := by decide +kernel

/-! ### The vector engine -/

/-- Tile 0 runs with one vector instruction, registers 0 and 1 holding 1.0 and 2.0 in their first position. -/
def vectorTile (w : W128) : State :=
  onlyTile0 { trun := 1, vqueue := [w], vregs := [(0, 0x3F800000), (256, 0x40000000)] }

/-- The specifier of register k, and of no operand. -/
def regSpec (k : Nat) : Nat := 4 * k
def noSpec : Nat := 2

/-- A vector instruction: opcode, format, `AUX`, destination and sources. -/
def vectorWord (op fmt aux : Nat) (d a b c : Nat) : W128 :=
  word128 [(0, op), (8, fmt), (25, d), (39, a), (53, b), (67, c), (81, aux)]

/-- The word of each lane-wise instruction of R115 with its number of sources. -/
def laneWords : List (Nat × Nat × Nat) :=
  [(0x40, 2, 0), (0x41, 2, 0), (0x42, 2, 0), (0x43, 3, 0), (0x44, 2, 0), (0x45, 2, 0), (0x46, 1, 0), (0x47, 1, 0), (0x48, 1, 0), (0x49, 1, 0), (0x4A, 2, 6)]

def laneWord (p : Nat × Nat × Nat) : W128 :=
  vectorWord p.1 0 p.2.2 (regSpec 31) (regSpec 0) (if p.2.1 < 2 then noSpec else regSpec 1) (if p.2.1 < 3 then noSpec else regSpec 2)

theorem witness_VectorArithmetic : ∀ p, p ∈ laneWords →
    let w := laneWord p
    Claims.VectorHead (vectorTile w) 0 w p.1 ∧ (vOperands w p.2.1).isSome = true ∧
      arithRefusal w p.2.1 false (if p.1 = 0x4A then (fun a => decide (a < 7)) else noAux) = 0 := by
  unfold Claims.VectorHead Clean
  decide +kernel

theorem witness_VectorArithmetic_refused :
    let w := vectorWord 0x40 2 0 (regSpec 31) (regSpec 0) (regSpec 1) noSpec
    Claims.VectorHead (vectorTile w) 0 w 0x40 ∧ arithRefusal w 2 false noAux = 0x010A := by
  unfold Claims.VectorHead Clean
  decide +kernel

/-- The FP32 code nearest to a value. -/
def roundedCode (x : FpNum) : Nat := (roundNum fp32 false 0 0 x).code

/-- 1.0 + 2.0, the smaller of them, 2^1.0 and 1/2.0 in FP32. -/
theorem test_vector_values :
    roundedCode (addNum (decodeNum fp32 0x3F800000) (decodeNum fp32 0x40000000)).1 = 0x40400000 ∧
    roundedCode (minNum (decodeNum fp32 0x3F800000) (decodeNum fp32 0x40000000)).1 = 0x3F800000 ∧
    roundedCode (exp2Num (decodeNum fp32 0x3F800000)).1 = 0x40000000 ∧
    roundedCode (rcpNum (decodeNum fp32 0x40000000)).1 = 0x3F000000 := by decide +kernel

/-- The result is written in the last cycle, not in the first (R111). -/
theorem test_vadd_first :
    let s := ran (exec (.vadd 0) (vectorTile (laneWord (0x40, 2, 0))))
    readSpec (s.tile 0) (.reg 31) 0 = 0 ∧ readSpec ((ran (exec (.vectorComplete 0 0) s)).tile 0) (.reg 31) 0 = 0x40400000 := by decide +kernel

theorem witness_VectorMoves :
    (∀ p, p ∈ [(0x4B, 3), (0x4D, 1), (0x4F, 1)] →
      let w := laneWord (p.1, p.2, 0)
      Claims.VectorHead (vectorTile w) 0 w p.1 ∧ (vOperands w p.2).isSome = true ∧ arithRefusal w p.2 true noAux = 0) ∧
    (∀ aux, aux ∈ [0, 1, 5] →
      let w := laneWord (0x4C, 1, aux)
      Claims.VectorHead (vectorTile w) 0 w 0x4C ∧ vOperands w 1 = some (.reg 31, [.reg 0]) ∧ arithRefusal w 1 false (fun x => decide (x < 6)) = 0) ∧
    (let w := laneWord (0x4E, 2, 1)
     Claims.VectorHead (vectorTile w) 0 w 0x4E ∧ (vOperands w (cvtSources w)).isSome = true ∧
      cvtMap (vFmt w) (cvtTo w) (cvtLane w) = some [(0, 0), (1, 0)] ∧ cvtRefusal w = 0) := by
  unfold Claims.VectorHead Clean
  decide +kernel

/-- VLD and VST at SRAM 0 with a row stride of 16 words and a column stride of one. -/
def moveWord (op : Nat) : W128 := word128 [(0, op), (25, regSpec 31), (63, 16), (79, 1)]

theorem witness_VectorMemory :
    (Claims.VectorHead (vectorTile (moveWord 0x50)) 0 (moveWord 0x50) 0x50 ∧ moveRefusal (moveWord 0x50) false = 0) ∧
    (Claims.VectorHead (vectorTile (moveWord 0x51)) 0 (moveWord 0x51) 0x51 ∧ moveRefusal (moveWord 0x51) true = 0 ∧
      Mem.wf zeroByte ((vectorTile (moveWord 0x51)).tile 0).mem = true) ∧
    (let r : VectorRun := { word := moveWord 0x50, cycles := 4 }
     let s := onlyTile0 { trun := 1, vrun := some r }
     (s.tile 0).vrun = some r ∧ r.status.fault = 0 ∧ s.floored = false ∧ RecordPlace s 0 r.word ∧ specOf r.dest = some .absent) ∧
    (let r : VectorRun := { word := laneWord (0x40, 2, 0), cycles := 1, dest := regSpec 31, words := List.replicate 256 7 }
     let s := onlyTile0 { trun := 1, vrun := some r }
     (s.tile 0).vrun = some r ∧ r.status.fault = 0 ∧ s.floored = false ∧ RecordPlace s 0 r.word ∧ specOf r.dest = some (.reg 31) ∧
      r.words.length = 256) ∧
    (let r : VectorRun := { word := moveWord 0x50, cycles := 1, status := { fault := 0x0105 } }
     let s := onlyTile0 { trun := 1, vrun := some r }
     (s.tile 0).vrun = some r ∧ r.status.fault ≠ 0 ∧ s.floored = false ∧ (s.tile 0).trun ≠ 3 ∧ statOf r.word = false ∧
      specOf r.dest = some .absent) := by
  unfold Claims.VectorHead Clean RecordPlace
  refine ⟨⟨by decide +kernel, by decide +kernel⟩, ⟨by decide +kernel, by decide +kernel, by decide +kernel⟩, by decide +kernel, by decide +kernel, by decide +kernel⟩

theorem test_vld_word : tget ((ran (exec (.vld 0) (onlyTile0 { trun := 1, vqueue := [moveWord 0x50], mem := [(4, 7)] }))).tile 0).vregs (31 * 256 + 1) 0 = 7 := by
  decide +kernel

/-- VPACK and VUNPK of BI8 in stream form, VSG1 in pack form, over two registers (one for VSG1) at `PASS` 1. -/
def packWord (op : Nat) : W128 :=
  if op = 0x5A then word128 [(0, op), (8, 0xD), (14, 1), (25, regSpec 0), (39, 1), (45, 1)]
  else word128 [(0, op), (8, 0x8), (25, regSpec 0), (39, 2), (45, 1)]

theorem witness_VectorPacks :
    (Claims.PackHead (vectorTile (packWord 0x58)) 0 (packWord 0x58) 0x58 0 [.reg 0, .reg 1] ⟨0, 0, 0, 0, 0, false, 512⟩ ∧
      vSatf (packWord 0x58) = false) ∧
    Claims.PackHead (vectorTile (packWord 0x59)) 0 (packWord 0x59) 0x59 1 [.reg 0, .reg 1] ⟨0, 0, 0, 0, 0, false, 512⟩ := by
  unfold Claims.PackHead Claims.VectorHead Clean
  refine ⟨⟨?_, by decide +kernel⟩, ?_⟩ <;> decide +kernel

theorem witness_VectorPacks_sign :
    Claims.PackHead (vectorTile (packWord 0x5A)) 0 (packWord 0x5A) 0x5A 2 [.reg 0] ⟨0, 0, 0, 0, 0, false, 512⟩ ∧
    (layPacks ((vectorTile (packWord 0x5A)).tile 0) (packWord 0x5A) ⟨0, 0, 0, 0, 0, false, 512⟩ 0xD 0 1 [0x7F] [List.replicate 256 0] [false]
      (packsTouched (packWord 0x5A) 256)).isOk = true := by
  unfold Claims.PackHead Claims.VectorHead Clean
  refine ⟨?_, ?_⟩ <;> decide +kernel

/-- RMM of two elements, one output block into registers 0 to 3, operands at SRAM 0x1000. -/
def rmmWord : W128 := word128 [(0, 0x60), (25, 2)]
def rmmState : State :=
  onlyTile0 { trun := 1, vqueue := [rmmWord], mem := [(1, 1), (5, 0x10), (17, 0x20)] }

theorem witness_VectorPacks_rmm :
    Claims.VectorHead rmmState 0 rmmWord 0x60 ∧ wbits rmmWord 9 8 ≠ 3 ∧ 0 < rmmD rmmWord ∧ rmmD rmmWord ≤ 512 ∧
    rmmBlk rmmWord + 64 ≤ sramBytes ∧ (rmmState.tile 0).trun ≠ 3 ∧
    rmmRefusal rmmWord (tileBytes (rmmState.tile 0) (rmmBlk rmmWord) 64) = 0 ∧ rmmBlocks rmmWord = 1 := by
  unfold Claims.VectorHead Clean
  decide +kernel

/-! ### Copies, launches, banks, HBM -/

/-- Host port P0 is up; it is primary at reset. -/
def hostUp (s : State) : State := s.setHport 0 { s.hport 0 with up := true }

/-- A list of regions that name distinct frames, none of them seen before. -/
theorem sharedFrame_none (e : Nat → Region) (g : Nat → Nat × Nat) : ∀ (l : List Nat) (seen : List (Nat × Nat)), l.Nodup →
    (∀ r, r ∈ l → frameNamed r (e r) = some (g r)) → (∀ r q, g r = g q → r = q) → (∀ r, r ∈ l → g r ∉ seen) →
    sharedFrame (l.map (fun r => (r, e r))) seen = none
  | [], _, _, _, _, _ => rfl
  | r :: l, seen, hn, hf, hg, hs => by
    have h1 : frameNamed r (e r) = some (g r) := hf r (List.mem_cons_self ..)
    have h2 : seen.contains (g r) = false := by simpa using hs r (List.mem_cons_self ..)
    simp only [List.map_cons, sharedFrame, h1, h2, Bool.false_eq_true, if_false]
    refine sharedFrame_none e g l _ (List.nodup_cons.mp hn).2 (fun q hq => hf q (List.mem_cons_of_mem _ hq)) hg ?_
    intro q hq hm
    rcases List.mem_cons.mp hm with h | h
    · exact (List.nodup_cons.mp hn).1 (hg _ _ h ▸ hq)
    · exact hs q (List.mem_cons_of_mem _ hq) h

/-- The table of reset can be committed. -/
theorem reset_commits : commitWhy (hostUp {}) = none := by
  have sh : ∀ r, shadowRegion (hostUp {}) r = resetRegion r := fun _ => rfl
  have one : sharedFrame ((List.range 1536).map (fun r => (r, resetRegion r))) [] = none := by
    refine sharedFrame_none resetRegion (fun r => (r / 128, r % 128)) _ _ List.nodup_range ?_ ?_ (by simp)
    · intro r hr
      have := List.mem_range.mp hr
      simp [frameNamed, resetRegion]
      omega
    · intro r q h
      simp only [Prod.mk.injEq] at h
      omega
  have two : brokenGroup (hostUp {}) = none := by
    simp only [brokenGroup, sh]
    rw [List.find?_eq_none]
    intro r _
    simp [resetRegion]
  have three : reservedRegion (hostUp {}) = none := by
    simp only [reservedRegion, sh]
    rw [List.find?_eq_none]
    intro r hr
    have := List.mem_range.mp hr
    simp [resetRegion]
    omega
  unfold commitWhy
  simp only [sh, one, two, three]
  decide

/-- A copy block in tile SRAM 0 at 64: a fill of 64 bytes of this part's tile 1, counted by counter 9. -/
def fillBlock : CopyBlock :=
  { src := 0x1122334455667788, dst := 0xFFF1000001000080, len := 64, rows := 1, sstr := 0, dstr := 0, dctr := 9, dcen := true, fill := true }
def fillBytes : Bytes := layout 64 [(0, 8, 0x1122334455667788), (8, 8, 0xFFF1000001000080), (16, 4, 64), (20, 4, 1), (32, 1, 9), (33, 1, 3)]

/-- Tile 0 runs with one copy instruction whose block is at 64. -/
def copyTile (op : Nat) : State :=
  onlyTile0 { trun := 1, cqueue := [word128 [(0, op), (25, 1)]], mem := memWrite zeroByte [] 64 fillBytes }

/-- Every bank of a tile accepts requests. -/
def banksUp : Table BankState := (List.range 6).map (fun b => (b, { power := .on }))

/-- The same with its one copy accepted; tile 1's banks are on. -/
def copying : State :=
  let s := powered (ran (exec (.cpy 0) (copyTile 0x80)))
  s.setTile 1 { s.tile 1 with banks := banksUp }

theorem witness_CopyEngine :
    Claims.CopyHead (copyTile 0x80) 0 (word128 [(0, 0x80), (25, 1)]) 0x80 fillBlock ∧
    Claims.CopyHead (copyTile 0x81) 0 (word128 [(0, 0x81), (25, 1)]) 0x81 fillBlock ∧ ((copyTile 0x81).tile 0).copies = [] ∧
      fillBlock.len ≠ 0 ∧ isOwn (copyTile 0x81) fillBlock.dst = true := by
  unfold Claims.CopyHead Clean
  decide +kernel

theorem witness_CopyEngine_land :
    let c : CopyRun := { id := 0, word := word128 [(0, 0x80), (25, 1)], block := fillBlock, todo := [(0, 0xFFF1000001000080)] }
    Claims.FillLine copying 0 0 0 c (0, 0xFFF1000001000080) ∧
    lineParts fillBlock (0, 0xFFF1000001000080) = [⟨0x1122334455667788, 64, 0, 0⟩] := by
  unfold Claims.FillLine
  decide +kernel

theorem test_fill_repeats : tileNat ((ran (exec (.copyLineLand 0 0 0 [] false) copying)).tile 1) 0xB8 8 = 0x1122334455667788 ∧
    (ran (exec (.copyLineLand 0 0 0 [] false) copying)).counter 1 9 = 1 := by decide +kernel

/-- The copy with every line landed; one that still waits for an acknowledgement. -/
def landed (cover : List Cover) : CopyRun := { id := 0, word := word128 [(0, 0x80), (25, 1)], block := fillBlock, cover := cover }

theorem witness_CopyEngine_end :
    (let s := onlyTile0 { trun := 1, copies := [landed []] }
     copyOf s 0 0 = some (landed []) ∧ covered s [] = true ∧ (landed []).poison = false ∧ (landed []).lost = false ∧ RecordPlace s 0 (landed []).word) ∧
    (let s := { onlyTile0 { trun := 1, copies := [landed [⟨1, 0, 5⟩]] } with clk := 2 ^ 40 }
     copyOf s 0 0 = some (landed [⟨1, 0, 5⟩]) ∧ covered s [⟨1, 0, 5⟩] = false ∧ 0 + s.fab.fenceTo.toNat * 1200 ≤ s.clk ∧
      (s.tile 0).trun ≠ 3 ∧ statOf (landed []).word = false) := by
  unfold RecordPlace
  decide +kernel

/-- The launch table of R167: image of 8 bytes at HBM 4096, one party of one thread, tile 0. -/
def tableBytes : Bytes := layout 256 [(0, 8, 0xFFF0000000001000), (8, 4, 8), (32, 2, 1), (34, 2, 1), (48, 144, 1)]
/-- A replay list of one entry that names the table at HBM 0. -/
def listBytes : Bytes := layout 64 [(0, 2, 1), (32, 8, 0xFFF0000000000000)]

/-- The part is up with the table at HBM 0, the list at HBM 512, and ring pair 0 holding one descriptor. -/
def launchState (list : Bool) : State :=
  let s := powered (withDescs (onlyTile0 { mode := 0 }) [aDesc [(0, 1, 1), (8, 8, if list then 0xFFF0000000000200 else 0xFFF0000000000000), (16, 1, b2n list)]])
  { s with hbm := { s.hbm with
      mem := memWrite zeroByte (memWrite zeroByte [] (physKey s 0) tableBytes) (physKey s 512) listBytes } }

def descAt0 (s : State) : Desc := ((s.ring 0).descs.head?).getD (aDesc [])

/-- The bytes of a read that is answered. -/
def okBytes : RingRead → Option Bytes
  | .ok b _ => some b
  | _ => none
def okState : RingRead → State
  | .ok _ s => s
  | _ => State.reset

theorem witness_LaunchDescriptors :
    let s := launchState false
    let d := descAt0 s
    let r := ringRead (beginDesc s 0 d) 0 0 256
    Claims.Runs s 0 d 0x01 0 ∧ s.cmd.launches = [] ∧ hbmRun s (opndAddr d 8) 256 256 = true ∧ okBytes r = some tableBytes ∧
    launchRefusal (okState r) tableBytes (launchFrom (okState r) 0 (opndAddr d 8) tableBytes 0 0 false) = 0 ∧
    emptyLaunch (launchFrom (okState r) 0 (opndAddr d 8) tableBytes 0 0 false) = false ∧
    tilesFree (okState r) (launchFrom (okState r) 0 (opndAddr d 8) tableBytes 0 0 false) = true := by
  unfold Claims.Runs
  decide +kernel

theorem witness_LaunchDescriptors_list :
    let s := launchState true
    let d := descAt0 s
    let h := ringRead (beginDesc s 0 d) 0 512 32
    let b := ringRead (okState h) 0 512 64
    Claims.Runs s 0 d 0x01 1 ∧ hbmRun s (opndAddr d 8) 256 64 = true ∧ (okBytes h).map (fun x => (field x 0 2, allZero x 2 30)) = some (1, true) ∧
    okBytes b = some listBytes ∧ field listBytes 0 2 = 1 ∧ listReservedOk listBytes = true ∧
    (listEntries listBytes).any (entryBad (okState b)) = false ∧ entriesReady (okState b) (listEntries listBytes) = true ∧
    listFree (okState b) 0 (listEntries listBytes) = true := by
  unfold Claims.Runs
  decide +kernel

theorem test_launch_accepts : (ran (exec (.launch 0) (launchState false))).cmd.launches.map (·.tset) = [[0]] := by decide +kernel

/-- A launch of one thread of tile 0 that has not started, and one that has. -/
def oneLaunch : Launch := { aLaunch with started := [], psize := 1, wdog := 1 }
def waitingLaunch : State :=
  let s := powered (onlyTile0 { mode := 0, banks := banksUp })
  { s with cmd := { s.cmd with launches := [oneLaunch] }, clk := 2400 }

theorem witness_LaunchTiles_start :
    launchWaiting waitingLaunch 0 = some oneLaunch ∧ (waitingLaunch.tile 0).launch = none ∧ rowDomain 0 ∈ waitingLaunch.pwr.domains ∧
    max oneLaunch.atNs (waitingLaunch.tile 0).freeNs + stagger waitingLaunch 0 ≤ waitingLaunch.ns ∧
    (waitingLaunch.tile 0).banksOn 0 sramBytes = true ∧ oneLaunch.strm = 0 := by
  decide +kernel

/-- The launch runs on tile 0, which has drained; at a later clock. -/
def drained (fault : W16) : State :=
  let l := { aLaunch with wdog := 1, fault := fault, begunAt := some 0 }
  { tiles := [(0, { trun := if fault = 0 then 2 else 3, launch := some 0, threads := [(0, { phase := .exited })] })]
    cmd := { launches := [l] }, clk := 2400 }

theorem witness_LaunchTiles_end :
    (launchOn (drained 0) 0 = some { aLaunch with wdog := 1, begunAt := some 0 } ∧ ((drained 0).tile 0).trun = 2 ∧
      tileQuiet ((drained 0).tile 0) = true ∧ aLaunch.strm = 0 ∧ aLaunch.stopped = false) ∧
    (launchOf (drained 0) 0 = some { aLaunch with wdog := 1, begunAt := some 0 } ∧ aLaunch.finished = false ∧ 0 + 1 * 1200 ≤ (drained 0).clk ∧
      ((drained 0).tile 0).trun ≠ 3) ∧
    (let l := { aLaunch with wdog := 1, fault := 7, begunAt := some 0 }
     launchOf (drained 7) 0 = some l ∧ runningTiles l = [0] ∧ settled (drained 7) 0 = true ∧ enginesIdle ((drained 7).tile 0) = true) := by
  decide +kernel

theorem witness_TileBanks :
    (0 ∈ ((onlyTile0 { writeback := [0] }).tile 0).writeback) ∧
    (let s : State := { powered (onlyTile0 { banks := banksUp }) with clk := 120000 }
     (s.tile 0).launch = none ∧ s.pwr.reten = true ∧ ((s.tile 0).bank 5).power = .on ∧ ((s.tile 0).bank 5).access + 120000 ≤ s.clk) ∧
    (let s := { onlyTile0 { banks := [(5, { power := .waking })] } with clk := 2400 }
     ((s.tile 0).bank 5).power = .waking ∧ ((s.tile 0).bank 5).since + 2400 ≤ s.clk) ∧
    (let s := onlyTile0 { mode := 0 }
     let s1 := { s with pwr := { s.pwr with phase := .run, domains := [8] } }
     0 ∉ s1.pwr.domains ∧ 8 ∈ s1.pwr.domains ∧ s1.pwr.phase ≠ .off ∧ s1.pwr.phase ≠ .tripped ∧ rowUsable s1 0 = true ∧ rowHeldOff s1 0 = false ∧
      rampUpOk s1 = true) ∧
    (let s := { onlyTile0 { banks := [(5, { power := .clearing })] } with clk := 16384 }
     0 ∈ rowTiles 0 ∧ ((s.tile 0).bank 5).power = .clearing ∧ ((s.tile 0).bank 5).since + 16384 ≤ s.clk) := by
  decide +kernel

/-- A request of tile 0's thread 0 to tile 1's SRAM, and one to HBM. -/
def aReq (act : MemAct) (addr : W64) (len : Nat) : MemReq := { id := 5, issuer := .thread 0 0, act := act, addr := addr, len := len }
def requested (act : MemAct) (addr : W64) (len : Nat) : State :=
  { powered { ({} : State) with tiles := [(0, { trun := 1, mode := 0 }), (1, { banks := banksUp })] } with reqs := [aReq act addr len] }

theorem witness_MeshAndEdges :
    (let s := requested .read 0xFFF1000001000000 8
     let r := aReq .read 0xFFF1000001000000 8
     reqOf s 5 = some r ∧ isOwn s r.addr = true ∧ addrSpace r.addr = 1 ∧ r.reply = .none ∧ r.away = false ∧ firstInOrder s r = true ∧
      (s.tile (meshTile s r.addr ((issuerTile r.issuer).getD 0))).trun ≠ 3 ∧
      lineFree s r = true ∧ refusal s r.issuer .read none 1 (addrOff r.addr) r.len = 0 ∧ unitReady s 1 (addrOff r.addr) r.len = true ∧
      (s.tile (addrTile r.addr)).marks = []) ∧
    (let b := leBytes 8 7
     let s := requested (.write b) 0xFFF1000001000000 8
     let r := aReq (.write b) 0xFFF1000001000000 8
     reqOf s 5 = some r ∧ firstInOrder s r = true ∧ b.length = r.len ∧ refusal s r.issuer .write none 1 (addrOff r.addr) r.len = 0 ∧
      unitReady s 1 (addrOff r.addr) r.len = true ∧ Mem.wf zeroByte (s.tile (addrTile r.addr)).mem = true) ∧
    (tget ({} : State).edges 23 {}).down = false := by
  decide +kernel

theorem witness_HbmAccesses :
    (let s := requested .read 0xFFF0000000000000 8
     Claims.AtHbm s 5 (aReq .read 0xFFF0000000000000 8)) ∧
    (let b := leBytes 8 7
     let s := requested (.write b) 0xFFF0000000000000 8
     Claims.AtHbm s 5 (aReq (.write b) 0xFFF0000000000000 8) ∧ Mem.wf zeroByte s.hbm.mem = true) ∧
    Claims.AtHbm (requested (.atomic 4 1 0) 0xFFF0000000000000 8) 5 (aReq (.atomic 4 1 0) 0xFFF0000000000000 8) ∧
    (let s : State := powered { hbm := { held := [(3, ⟨1, 0, false⟩)], writeback := [3] }, clk := 64 }
     let s1 : State := { s with hbm := { s.hbm with held := [(3, ⟨1, 0, false⟩)], writeback := [3] } }
     tget? s1.hbm.held 3 = some ⟨1, 0, false⟩ ∧ 0 + 64 ≤ s1.clk ∧ tget? s1.hbm.marks 3 = none ∧ 3 ∈ s1.hbm.writeback ∧
      placeReady s1 3 = true ∧ Mem.wf zeroByte s1.hbm.mem = true) ∧
    (let u : Upset := ⟨granuleOf (requested .read 0xFFF0000000000000 8) 0, 137, 255⟩
     u.granule < 768 * 2 ^ 23 ∧ u.symbol < 138 ∧ u.bits ≠ 0) := by
  unfold Claims.AtHbm
  decide +kernel

theorem test_hbm_atomic_max : committedBytes (ran (exec (.hbmAccess 5 []) (requested (.atomic 4 1 0) 0xFFF0000000000000 8))) 0 8 = leBytes 8 1 := by
  decide +kernel

/-- One symbol of the granule that has flipped is corrected and counted (R204, R205). -/
theorem test_hbm_corrects :
    let s := requested .read 0xFFF0000000000000 8
    let u : Upset := ⟨granuleOf s 0, 3, 255⟩
    let t := ran (exec (.hbmAccess 5 [u]) s)
    (reqOf t 5).map (·.reply) = some (.data (zeros 8) .good) ∧ (t.stack (stackOfPlace u.granule)).ce = 1 := by
  decide +kernel

theorem witness_HbmStacks :
    (let s : State := { powered {} with clk := 1200000 }
     s.pwr.hbmSr = true ∧ (s.stack 23).trained = true ∧ (s.stack 23).selfRef = false ∧ (s.stack 23).access + 1200000 ≤ s.clk) ∧
    (let s : State := ({} : State).setStack 23 { selfRef := true, waking := true }
     (s.stack 23).selfRef = true ∧ (s.stack 23).waking = true) ∧
    (let s : State := { ({} : State).setStack 23 { stop := true } with clk := 1200000000 }
     (s.stack 23).stop = true ∧ (s.stack 23).stopAt + 1200000000 ≤ s.clk ∧ s.log.halted = false) := by
  decide +kernel

theorem test_refresh_quadruples : tget (ran (exec (.hbmRefresh 767) (({} : State).setStack 23 { refresh := 2 }))).hbm.refreshed 767 0 = 4 := by
  decide +kernel

theorem witness_HbmTables :
    (Claims.Primary (hostUp {}) 0 ∧ commitWhy (hostUp {}) = none) ∧
    (commitWhy { hostUp {} with job := { locked := true } } = some (5, 0)) ∧
    (({ hbm := { commit := some [] } } : State).hbm.commit = some []) ∧
    (bits (0x817FFFFF : W32).toNat 24 0 ≤ 0x17FFFFF) ∧
    (let s := withDescs { ({} : State) with hbm := { spares := [(767 * 64 + 63, 1)], stk := (powered {}).hbm.stk } } [aDesc [(0, 1, 0x2A), (8, 2, 767), (10, 1, 63), (12, 4, 32767)]]
     let d := descAt0 s
     Claims.Runs s 0 d 0x2A 0 ∧ launchRunning s = false ∧ anyPitch s = false ∧ rowKey 767 63 32767 ∉ s.hbm.repaired ∧
      spareRows s 767 63 ≠ 0 ∧ s.hbm.repair = none ∧ s.hbm.commit = none ∧ (rowGranules 767 63 32767).all (placeReady s) = true ∧
      s.hbm.marks = []) := by
  refine ⟨⟨?_, reset_commits⟩, ?_, ?_, ?_, ?_⟩
  · unfold Claims.Primary
    decide +kernel
  · rfl
  · rfl
  · decide +kernel
  · unfold Claims.Runs
    decide +kernel

/-! ### The fabric -/

/-- This part is device 5; device 7 is reached over port 2, which is UP. -/
def fabric (s : State) : State :=
  let s1 := { s with fab := { s.fab with devNum := 5, devValid := true, routes := [(7, { paths := BitVec.ofNat 40 0x12, valid := true })] } }
  s1.setPort 2 { s1.port 2 with en := true, phase := .up }

/-- Port 2 in another state. -/
def portIs (f : Port → Port) : State := let s := hostUp (fabric {}); s.setPort 2 (f (s.port 2))

theorem witness_LinkStates :
    (Claims.Primary (portIs (fun p => { p with phase := .off })) 0 ∧ (portIs (fun p => { p with phase := .off })).sec.noCfg = false) ∧
    (let s := portIs id
     ({ s with sec := { s.sec with noCfg := true } }).sec.noCfg = true ∧ Claims.Primary s 0 ∧ Claims.Linked s 2 ∧ (s.port 2).en = true) ∧
    ((portIs (fun p => { p with phase := .train })).port 2).phase = .train ∧ ((portIs (fun p => { p with phase := .train })).port 2).degradeOk = true ∧
    (let s := { portIs id with clk := 360000000 }
     Claims.Linked s 2 ∧ (s.port 2).rxAt + 120000 ≤ s.clk ∧ (s.port 2).phase ≠ .card ∧ (s.port 2).cardAt + 360000000 ≤ s.clk) := by
  unfold Claims.Primary Claims.Linked
  decide +kernel

/-- A kept flit, and a packet for device 7. -/
def aFlit : KeptFlit := { fseq := 4, control := false, payload := zeros 240 }
def outPacket (typ : Byte) : Packet := { typ := typ, cls := 0, src := 5, dst := 7, tag := 9, hops := 3 }
/-- A packet from device 7 for this part. -/
def inPacket (typ : Byte) : Packet := { typ := typ, cls := 0, src := 7, dst := 5, tag := 9, hops := 3, seq := 0 }

theorem witness_LinkFlits :
    (let s := portIs id
     Claims.Linked s 2 ∧ (s.port 2).replay = [] ∧ (s.port 2).txq = [] ∧ (s.port 2).txBytes = []) ∧
    (let s := portIs (fun p => { p with txBytes := zeros 32 })
     Claims.Linked s 2 ∧ (s.port 2).kept.length < 4096 ∧ shareLets s (s.port 2) = true ∧ (layPackets 8 (s.port 2)).txBytes ≠ []) ∧
    (let s := portIs (fun p => { p with replay := [aFlit], kept := [aFlit] })
     (s.port 2).replay = [aFlit] ∧ s.fab.bufMarks = []) ∧
    (let s := { portIs (fun p => { p with txq := [outPacket tREAD] }) with pwr := { link := 1 } }
     let p : Port := { s.port 2 with slots := 1, started := 1 }
     shareLets s p = false) ∧
    ([(⟨.uncorrectable, true⟩ : Codeword), ⟨.corrected, false⟩].any (fun c => c.result == .uncorrectable) = true) ∧
    flitIntact (0xFF :: zeros 255) = false ∧
    (let s := { portIs (fun p => { p with cardDue := true }) with time := { now := 2 ^ 32 * 1000 } }
     Claims.Linked s 2 ∧ (s.port 2).sampleUs < s.ns / 1000 ∧ (s.port 2).cardDue = true) := by
  unfold Claims.Linked
  decide +kernel

/-- The control flit numbered 0, as this part itself would send it, is the next in order at reset. -/
theorem witness_LinkFlits_card :
    let b := flitBytes {} 2 2 0 (zeros 240)
    flitIntact b = true ∧ bit (field b 0 8) 34 = false ∧ field b 0 8 % 4 = 2 ∧ bits (field b 0 8) 17 2 = (((portIs id).port 2).rxLast + 1).toNat := by
  decide +kernel

/-- A card that fits this part. -/
def aCard : Card := { valid := true, devNum := 7 }

theorem witness_LinkChoices :
    (let s := { portIs (fun p => { p with kept := [aFlit] }) with clk := 12000 }
     (s.port 2).kept = [aFlit] ∧ (s.port 2).ackAt + 12000 ≤ s.clk) ∧
    (let s := { portIs (fun p => { p with kept := [aFlit], replayRun := 7, replayAt := 4 }) with clk := 12000 }
     (s.port 2).replayRun ≥ 7 ∧ (s.port 2).replayAt = aFlit.fseq) ∧
    (let s := portIs (fun p => { p with card := some aCard, cardFresh := true })
     (s.port 2).card = some aCard ∧ (s.port 2).cardFresh = true) ∧
    (Claims.Primary (hostUp {}) 0 ∧ (hostUp {}).job.locked = false ∧ (∀ p, p ∈ (hostUp {}).fab.ports → p.2.phase = .off) ∧
      ¬(bit (0x8FFE : W32).toNat 15 = true ∧ BitVec.ofNat 12 (0x8FFE : W32).toNat = 0xFFF)) ∧
    ({ hostUp {} with job := { locked := true } } : State).job.locked = true := by
  unfold Claims.Primary
  decide +kernel

/-- Port 2 has a packet waiting at its receiver. -/
def arrived (k : Packet) : State := portIs (fun p => { p with arrived := [k] })

theorem witness_PacketStreams :
    (let k := { inPacket tREAD with dst := 7, src := 6 }
     let s := arrived k
     Claims.Arrived s 2 k (fun k => !forHere s k) ∧ routed s k.dst.toNat = true ∧ k.hops ≠ 0 ∧
      nextPath (usablePaths s k.dst.toNat (k.typ == tMGMT)) k.path.toNat = some (0, 2)) ∧
    (let k := { inPacket tREAD with dst := 8 }
     Claims.Arrived (arrived k) 2 k (fun q => !forHere (arrived k) q) ∧ routed (arrived k) k.dst.toNat = false) ∧
    (let k := inPacket tREAD
     let s := arrived k
     Claims.Arrived s 2 k (fun k => forHere s k && k.cls != 1) ∧ k.seq = (rxOf s 7 0).expected ∧ (rxOf s 7 0).held = []) ∧
    (let k := { inPacket tREAD with seq := 5 }
     let s := arrived k
     Claims.Arrived s 2 k (fun k => forHere s k && k.cls != 1) ∧ k.seq ≠ (rxOf s 7 0).expected ∧ (k.seq - (rxOf s 7 0).expected).toNat < 2 ^ 31 ∧ reorderUsed s 3 < 4096) := by
  unfold Claims.Arrived
  decide +kernel

/-- A stream to device 7 with one unacknowledged packet. -/
def sendingTo (x : TxStream) : State := let s := fabric {}; { s with fab := { s.fab with tx := [x] }, clk := 2 ^ 40 }
def aStream : TxStream := { dst := 7, cls := 0, nextSeq := 1, unacked := [{ packet := outPacket tREAD }] }
def waitingRead : Outstanding := { tag := 9, use_ := .request 5, packet := outPacket tREAD, entered := 0, sentAt := 0 }

theorem witness_PacketStreams_source :
    (let s := fabric { ({} : State) with fab := { rx := [{ src := 7, cls := 0 }] } }
     s.fab.rx.find? (fun x => x.src == 7 && x.cls == 0) = some { src := 7, cls := 0 } ∧ usablePaths s (7 % 4096) false ≠ []) ∧
    (let k := { inPacket tACK with cls := 1, tag := 0, seq := 1 }
     let s0 := arrived k
     let s := { s0 with fab := { s0.fab with tx := [aStream] } }
     Claims.ArrivedType s 2 k tACK ∧ txFind s 7 (k.tag.toNat % 4) = some aStream ∧ 0 < (k.seq - aStream.acked).toNat ∧
      (k.seq - aStream.acked).toNat < 2 ^ 31) ∧
    (txFind (sendingTo aStream) 7 0 = some aStream ∧ retryFrom aStream = some 0 ∧ 0 + 240000 ≤ (sendingTo aStream).clk ∧ aStream.broken = false) ∧
    (let x := { aStream with broken := true }
     txFind (sendingTo x) 7 0 = some x ∧ x.unacked.find? (·.sent) ≠ none ∧ x.resentAt + 1200000 ≤ (sendingTo x).clk) ∧
    (let s0 := sendingTo aStream
     let s := { s0 with fab := { s0.fab with outstanding := [waitingRead] } }
     outstandingOf s 9 = some waitingRead ∧ wasSent s waitingRead = true ∧ 0 + 240000 ≤ s.clk ∧ (txOf s 7 0).broken = false) := by
  unfold Claims.ArrivedType Claims.Arrived
  decide +kernel

/-- Device 7's stream has delivered a request, every region it names is SHARED-WRITE, and memory is up. -/
def delivered (k : Packet) (dup : Bool) : State :=
  let s := powered (fabric { ({} : State) with tiles := [(1, { banks := banksUp })] })
  { s with fab := { s.fab with
      rx := [{ src := 7, cls := 0, expected := 1, delivered := [(k, dup)] }]
      owners := [(ownIndex 0 0, mkOwn 2 0xFFF false false), (ownIndex 1 0x1000000, mkOwn 2 0xFFF false false)] } }

def writePacket (addr : BitVec 52) : Packet := { inPacket tWRITE with addr := addr, payload := zeros 128, e2e := e2eOf (zeros 128) }

theorem witness_RemoteRequests :
    Claims.Served (delivered (inPacket tREAD) false) 7 tREAD (inPacket tREAD) .read (lineOff (inPacket tREAD)) 128 ∧
    (let k := writePacket 0
     Claims.Served (delivered k false) 7 tWRITE k .write (lineOff k) 128 ∧ packetSpace k = 0 ∧ verify k.payload k.e2e = .good) ∧
    (let k := writePacket 0x1000001000000
     Claims.Served (delivered k false) 7 tWRITE k .write (lineOff k) 128 ∧ packetSpace k = 1 ∧ verify k.payload k.e2e = .good ∧
      Mem.wf zeroByte ((delivered k false).tile (lineOff k / 2 ^ 24)).mem = true) ∧
    (let k := { inPacket tWRITEM with payload := zeros 144, e2e := e2eOf (zeros 128) }
     Claims.Served (delivered k false) 7 tWRITEM k .write (lineOff k) 128 ∧ verify (slice k.payload 16 128) k.e2e = .good) ∧
    (let k := { inPacket tATOMIC with payload := zeros 16, aux := 4 }
     Claims.Served (delivered k false) 7 tATOMIC k .atomic (packetOff k / 8 * 8) 8 ∧ k.aux.toNat ≤ 4 ∧
      (liveReplies (delivered k false) (7 % 4)).length < 2048) := by
  unfold Claims.Served Claims.Delivered
  refine ⟨?_, ?_, ?_, ?_, ?_⟩ <;> decide +kernel

theorem witness_RemoteRequests_again :
    (let k := inPacket tATOMIC
     let s0 := delivered k true
     let s := { s0 with fab := { s0.fab with replyCache := [⟨3, 7, 0, 1, 0⟩] } }
     firstDelivered s 7 0 = some (k, true) ∧ (liveReplies s (7 % 4)).find? (fun e => e.src == 7 && e.seq == k.seq) = some ⟨3, 7, 0, 1, 0⟩ ∧
      usablePaths s 7 false ≠ []) ∧
    (let k := { writePacket 0 with addr := 0x200000 }
     Claims.Delivered (delivered k false) 7 0 tWRITE k ∧ remoteRefusal (delivered k false) k .write (lineOff k) 128 = 0x0404 ∧
      (delivered k false).log.ringUp = false) := by
  unfold Claims.Delivered
  decide +kernel

theorem witness_SignalAddsToCounter :
    let k := { inPacket tSIGNAL with addr := 0x100047F000000, aux := 255, payload := leBytes 4 7 }
    Claims.Delivered (delivered k false) 7 0 tSIGNAL k ∧ packetSpace k = 1 ∧ bits k.addr.toNat 34 24 = 1151 ∧ bits k.addr.toNat 47 35 = 0 := by
  unfold Claims.Delivered
  decide +kernel

theorem test_signal_adds :
    (ran (exec (.signalPacket 7) (delivered { inPacket tSIGNAL with addr := 0x100047F000000, aux := 255, payload := leBytes 4 7 } false))).counter 1151 255 = 7 := by
  decide +kernel

/-- A reply has arrived for the outstanding request. -/
def answered (k : Packet) (o : Outstanding) : State :=
  let s := arrived k
  { s with fab := { s.fab with outstanding := [o] } }

theorem witness_RemoteReplies :
    (let k := { inPacket tRDATA with cls := 1 }
     Claims.ArrivedType (answered k waitingRead) 2 k tRDATA ∧ waitingRead.reply = .none ∧ outstandingOf (answered k waitingRead) k.tag.toNat = some waitingRead ∧
      waitingRead.packet.dst = k.src) ∧
    (let k := { inPacket tRDATA with cls := 1, tag := 8 }
     outstandingOf (answered k waitingRead) k.tag.toNat = none ∧ Claims.ArrivedType (answered k waitingRead) 2 k tRDATA) ∧
    (let k := { inPacket tARESULT with cls := 1 }
     let o := { waitingRead with packet := outPacket tATOMIC }
     outstandingOf (answered k o) k.tag.toNat = some o ∧ Claims.ArrivedType (answered k o) 2 k tARESULT ∧ o.packet.dst = k.src) ∧
    (let k := { inPacket tSTATUS with cls := 1, payload := leBytes 16 0x0404 }
     Claims.Arrived (answered k waitingRead) 2 k (plainStatus (answered k waitingRead)) ∧ k.tag.toNat < 2 ^ 23 ∧ outstandingOf (answered k waitingRead) k.tag.toNat = some waitingRead ∧ field k.payload 0 2 ≠ 0x0402 ∧ field k.payload 0 2 ≠ 0x040C) ∧
    (let s0 := answered (inPacket tRDATA) waitingRead
     let s := { s0 with clk := 2 ^ 40 }
     outstandingOf s 9 = some waitingRead ∧ waitingRead.packet.typ = tREAD ∧ 0 + s.fab.loadTo.toNat * 1200 ≤ s.clk) ∧
    (let o := { waitingRead with packet := outPacket tCREAD, busy := true }
     outstandingOf (answered (inPacket tRDATA) o) 9 = some o ∧ o.busy = true) := by
  unfold Claims.ArrivedType Claims.Arrived
  decide +kernel

theorem witness_RemoteReplies_atomic :
    let o := { waitingRead with packet := outPacket tATOMIC }
    let r := aReq (.atomic 0 1 0) 0x0070000000000000 8
    let s0 := waitingFor (.reply 5 6 8 false)
    let s := { s0 with reqs := [r], fab := { s0.fab with outstanding := [o] }, clk := 2 ^ 40 }
    outstandingOf s 9 = some o ∧ 0 + s.fab.loadTo.toNat * 1200 ≤ s.clk ∧ reqOf s 5 = some r ∧ (thr s 0 0).wait = .reply 5 6 8 false ∧ (s.tile 0).trun ≠ 3 := by
  decide +kernel

/-- Region i has a given entry. -/
def regionIs (s : State) (i : Nat) (e : W16) : State := { s with fab := { s.fab with owners := tset s.fab.owners i e } }

theorem witness_RegionOwnership :
    (let s := withDescs {} [aDesc [(0, 1, 0x28), (8, 4, 793343), (12, 4, 1), (16, 1, 2), (18, 2, 0xFFF)]]
     let d := descAt0 s
     Claims.Runs s 0 d 0x28 0 ∧ opnd d 16 1 ≠ 3 ∧ opnd d 8 4 + opnd d 12 4 ≤ 793344 ∧ ownState (ownEntry s 793343) ≠ 1) ∧
    (let s := regionIs (withDescs {} [aDesc [(0, 1, 0x29), (8, 4, 3), (12, 4, 1), (16, 2, 0xFFF)]]) 3 (mkOwn 1 0xFFF false false)
     let d := descAt0 s
     Claims.Runs s 0 d 0x29 0 ∧ opnd d 16 2 = 0xFFF ∧ ownState (ownEntry s 3) = 1 ∧ ownedHere s (ownEntry s 3) = true ∧
      ownOpen (ownEntry s 3) = false ∧ ownCached (ownEntry s 3) = false) ∧
    (∀ typ, typ ∈ [tRECALL, tINV, tPUBLISH] →
      let k := { inPacket typ with payload := leBytes 16 3 }
      let s := regionIs (delivered k false) 3 (mkOwn 1 7 false false)
      Claims.Delivered s 7 0 typ k ∧ usablePaths s 7 false ≠ [] ∧ field k.payload 0 4 = 3 ∧ ownState (ownEntry s 3) = 1 ∧ ownOwner (ownEntry s 3) = 7 ∧
        ownOpen (ownEntry s 3) = false ∧ ownCached (ownEntry s 3) = false ∧ setsReady s = true ∧ s.hbm.marks = [] ∧ s.cmd.redirects = [] ∧
        rlcListed s = []) ∧
    (let o := { waitingRead with use_ := .inval 3 7, packet := outPacket tINV }
     let s := { sendingTo aStream with fab := { outstanding := [o] } }
     s.fab.outstanding.find? (fun o => o.use_ == .inval 3 7) = some o ∧ o.sentAt + 240000 ≤ s.clk) ∧
    (let s := regionIs { ({} : State) with fab := { recalls := [⟨3, .ring 0, [], 0, none⟩], closings := [⟨3, .ring 0, none⟩] } } 3 (mkOwn 1 7 false true)
     s.fab.recalls.filter (fun r => r.region == 3) = [⟨3, .ring 0, [], 0, none⟩] ∧ s.fab.closings.filter (fun c => c.region == 3) = [⟨3, .ring 0, none⟩] ∧
      stagedIn s 3 = false ∧ ownState (ownEntry s 3) = 1) ∧
    (let s : State := { ({} : State) with fab := { recalls := [⟨3, .ring 0, [7], 0, none⟩] }, clk := 2 ^ 40 }
     s.fab.recalls.filter (fun r => r.region == 3) = [⟨3, .ring 0, [7], 0, none⟩] ∧ 0 + s.fab.fenceTo.toNat * 1200 ≤ s.clk) ∧
    (let o := { waitingRead with use_ := .recall 0 3, packet := outPacket tRECALL }
     let s : State := { ({} : State) with fab := { outstanding := [o] }, clk := 2 ^ 40 }
     s.fab.outstanding.find? (fun o => (match o.use_ with | .recall r _ => r == 0 | _ => false) &&
      o.reply == .none && s.passed o.sentAt (s.fab.fenceTo.toNat + 200)) = some o) := by
  unfold Claims.Delivered Claims.Runs
  refine ⟨?_, ?_, ?_, ?_, ?_, ?_, ?_⟩ <;> decide +kernel

/-- The cache's area is region 20; it holds line 0 of region 3 of device 7. -/
def caching (k : Packet) : State :=
  let s := delivered k false
  rlcInstall { s with fab := { s.fab with rlcRegion := 20, rlcSize := 1 } } (3 * 2 ^ 14) 7 (zeros 128) 5

/-- An INV of region 3 by device 7. -/
def invPacket : Packet := { inPacket tINV with payload := leBytes 16 3 }

theorem witness_RegionOwnership_cached :
    let s := caching invPacket
    let line := 3 * 2 ^ 14
    let a := rlcBase s (rlcSet s line 7)
    Claims.Delivered s 7 0 tINV invPacket ∧ usablePaths s 7 false ≠ [] ∧ setsReady s = true ∧ s.hbm.marks = [] ∧ s.cmd.redirects = [] ∧
    rlcFind s line 7 = some 0 ∧ rlcListed s = [rlcSet s line 7] ∧ granuleOf s (a + 3584) ≠ granuleOf s (a + 3840) := by
  unfold Claims.Delivered
  decide +kernel

/-- INV drops the cached line, and a flush of the cache leaves no metadata (R268, R270). -/
theorem test_inv_drops : rlcFind (ran (exec (.inv 7) (caching invPacket))) (3 * 2 ^ 14) 7 = none ∧
    rlcListed (ran (exec (.frlcFlush 0) (hostUp (caching invPacket)))) = [] := by decide +kernel

theorem witness_RemoteLineCache :
    (let k := inPacket tCREAD
     let s := regionIs (delivered k false) 0 (mkOwn 1 0xFFF false false)
     Claims.Served s 7 0x20 k .cread (lineOff k) 128 ∧ packetSpace k = 0 ∧
      ownAllows (ownEntry s 0) (isOwner s (.remote 7) (ownOwner (ownEntry s 0))) .cread = some true ∧ recalling s 0 = false) ∧
    (let k := inPacket tCREAD
     let s0 := regionIs (delivered k false) 0 (mkOwn 1 0xFFF false false)
     let s := { s0 with fab := { s0.fab with recalls := [⟨0, .ring 0, [7], 0, none⟩] } }
     Claims.Served s 7 0x20 k .cread (lineOff k) 128 ∧ recalling s 0 = true) ∧
    (Claims.Primary (hostUp {}) 0 ∧ launchRunning (hostUp {}) = false ∧ bits (0x1DFF : W32).toNat 10 0 ≤ 1535 ∧ (hostUp {}).fab.rlcRegion.toNat ≤ 1535 ∧
      bits (tget (hostUp {}).fab.cwLo 63 0).toNat 19 0 + bits (0x800C0000 : W32).toNat 19 0 ≤ 786432) := by
  unfold Claims.Served Claims.Delivered Claims.Primary
  decide +kernel

/-! ### The reduction engine -/

/-- A bucket record of the layout of R275: one member, this part (device 5), S = 1 MiB, areas from HBM 2^24 on. -/
def bucketRaw : Bytes := layout 256 [(0, 1, 1), (1, 1, 0), (2, 2, 1), (4, 4, 4096), (8, 8, 0xFFF0000000000200), (16, 8, 0xFFF0000001000000),
  (24, 8, 0xFFF0000002000000), (32, 8, 0xFFF0000010000000), (40, 8, 0xFFF0000018000000), (48, 8, 0xFFF0000000001000), (56, 8, 0xFFF0000000002000),
  (84, 2, 3), (86, 1, 8), (88, 1, 9), (89, 1, 10)]

/-- The part, device 5, with the record at HBM 0, its member list at 512 and one BUCKET descriptor for bucket 6. -/
def bucketState (bop step : Nat) (x : Bucket) : State :=
  let s := powered (withDescs (fabric {}) [aDesc [(0, 1, 0x10), (8, 1, bop), (9, 1, 6), (12, 4, step), (16, 8, 0xFFF0000000000000)]])
  let s1 := { s with hbm := { s.hbm with mem := memWrite zeroByte (memWrite zeroByte [] (physKey s 0) bucketRaw) (physKey s 512) (leBytes 2 5) } }
  s1.setBucket 6 x

theorem witness_BucketDescriptors_declare :
    let s := bucketState 0 0 {}
    let d := descAt0 s
    let v := ringRead (beginDesc s 0 d) 0 (addrOff (opndAddr d 16)) 256
    let r := readBucket bucketRaw
    let l := ringRead (okState v) 0 (addrOff r.mlist) (2 * r.nmem)
    Claims.Runs s 0 d 0x10 0 ∧ s.job.locked = false ∧ hbmRun s (opndAddr d 16) 256 256 = true ∧ (s.bucket (bucketNum d)).phase = .free ∧ okBytes v = some bucketRaw ∧
    bucketFieldsOk bucketRaw = true ∧ isOwn s r.mlist = true ∧ addrSpace r.mlist = 0 ∧ rangeOk 0 (addrOff r.mlist) (2 * r.nmem) = true ∧
    okBytes l = some (leBytes 2 5) ∧ readMembers (leBytes 2 5) r.nmem = some [(5, false)] ∧ bucketOk s { r with members := [(5, false)] } = true := by
  unfold Claims.Runs
  decide +kernel

theorem witness_BucketDescriptors :
    (let s := bucketState 1 77 { phase := .declared }
     Claims.Runs s 0 (descAt0 s) 0x10 1 ∧ (s.bucket (bucketNum (descAt0 s))).phase = .declared ∧
      runsReady s [digestRun (s.bucket (bucketNum (descAt0 s))).record 77] = true) ∧
    (let s := bucketState 1 78 { phase := .closed, step := 77 }
     Claims.Runs s 0 (descAt0 s) 0x10 1 ∧ (s.bucket (bucketNum (descAt0 s))).phase = .closed ∧
      BitVec.ofNat 32 (opnd (descAt0 s) 12 4) = (s.bucket (bucketNum (descAt0 s))).step + 1) ∧
    (let s := bucketState 1 78 { phase := .fired, step := 77 }
     Claims.Runs s 0 (descAt0 s) 0x10 1 ∧ (s.bucket (bucketNum (descAt0 s))).phase = .fired ∧
      BitVec.ofNat 32 (opnd (descAt0 s) 12 4) = (s.bucket (bucketNum (descAt0 s))).step + 1) ∧
    (let s := bucketState 2 0 { phase := .closed }
     Claims.Runs s 0 (descAt0 s) 0x10 2 ∧ s.job.locked = false ∧ (s.bucket (bucketNum (descAt0 s))).phase ≠ .fired) ∧
    (let s := { bucketState 0 0 {} with job := { locked := true } }
     Claims.Runs s 0 (descAt0 s) 0x10 0 ∧ s.job.locked = true) := by
  unfold Claims.Runs
  decide +kernel

theorem test_arm_of_ended_step_refused :
    (descAt0 (ran (exec (.bucketArm 0) (bucketState 1 79 { phase := .closed, step := 77 })))).fault = 0x0505 := by decide +kernel

/-- A record of a bucket that this part (device 5) shares with device 7, of one pack to each owner. -/
def smallRecord : BucketRecord :=
  { nmem := 2, qpacks := 2, send := 0xFFF0000001000000, recv := 0xFFF0000002000000, result := 0xFFF0000010000000, sweepA := 0xFFF0000018000000
    digA := 0xFFF0000000001000, rrec := 0xFFF0000000002000, wtile := 3, wctr := 8, dctr := 9, sctr := 10, members := [(5, false), (7, false)] }

/-- The part with bucket 6 as given. -/
def withBucket (s : State) (x : Bucket) : State := (powered (fabric s)).setBucket 6 x

/-- A reduction line of device 7 for bucket 6: index 1 of step 0. -/
def redPacket (aux : Byte) : Packet :=
  { inPacket tRED with cls := 2, addr := 0x106, aux := aux, payload := zeros 128, e2e := e2eOf (zeros 128) }

/-- Device 7's reduction stream has delivered a line. -/
def lineFrom7 (x : Bucket) (k : Packet) : State :=
  let s := withBucket {} x
  { s with fab := { s.fab with rx := [{ src := 7, cls := 2, expected := 1, delivered := [(k, false)] }] } }

theorem witness_BucketSteps_fire :
    let s0 := withBucket {} { phase := .armed, record := smallRecord }
    let s := s0.setTile 3 { s0.tile 3 with counters := [(8, 2)] }
    (s.bucket 6).phase = .armed ∧ watchReached s (s.bucket 6).record = true ∧ (s.bucket 6).again = 0 ∧ (ownShard s (s.bucket 6).record).isSome = true ∧
      (s.bucket 6).record.sctr ≠ (s.bucket 6).record.wctr ∧ runsReady s (fireRuns s (s.bucket 6)) = true ∧ s.red.sends = [] := by
  decide +kernel

theorem witness_BucketSteps_lines :
    (let k := redPacket 1
     let s := lineFrom7 { phase := .fired, record := smallRecord } k
     let x := s.bucket 6
     firstDelivered s 7 2 = some (k, false) ∧ k.typ = tRED ∧ k.addr.toNat % 256 = 6 ∧ lineStep x (bits k.addr.toNat 51 32) = some 0 ∧
      x.record.owners.findIdx? (· == k.src.toNat) = some 1 ∧ verify k.payload k.e2e ≠ .mismatch ∧ x.record.ring_ = false ∧ (ownShard s x.record).isSome = true ∧
      closeDue s x = false ∧ stepOpen x 0 = true ∧ bits k.addr.toNat 31 8 < 2 * x.record.share ∧ (0, 1) ∉ x.taken ∧
      runsReady s [(contributionAt x.record 0 1 + 128 * bits k.addr.toNat 31 8, 128), memberRun x.record 0 7] = true) ∧
    (let k := redPacket 1
     let s := lineFrom7 {} k
     firstDelivered s 7 2 = some (k, false) ∧ k.typ = tRED ∧ (s.bucket (k.addr.toNat % 256)).phase = .free) := by
  decide +kernel

/-- The stray count as it stands after the line. -/
theorem test_line_of_own_step_lands :
    let s := lineFrom7 { phase := .fired, record := smallRecord } (redPacket 1)
    landedOf ((ran (exec (.red 7) s)).bucket 6) 0 1 = 1 ∧ (ran (exec (.red 7) s)).red.stray = 0 := by decide +kernel
theorem test_line_of_other_direction_stray :
    (ran (exec (.red 7) (lineFrom7 { phase := .fired, record := smallRecord } (redPacket 2)))).red.stray = 1 := by decide +kernel

/-- The contribution of device 7 is complete: an SG1 pack of zeros. -/
def contributed : State :=
  let s := withBucket {} { phase := .fired, record := smallRecord, complete := [(0, 1, 0)] }
  { s with hbm := { s.hbm with mem := memWrite zeroByte [] (physKey s (contributionAt smallRecord 0 1)) (encodePack { tag := 0xD, count := 1792, scales := List.replicate 7 1, codes := List.replicate 1792 0 }) } }

set_option maxRecDepth 20000 in
theorem witness_BucketSteps_fold :
    let s := contributed
    let x := s.bucket 6
    (s.bucket 6).phase = .fired ∧ x.complete.find? (fun c => foldable x c.1) = some (0, 1, 0) ∧ (0, 1, 0).1 = x.step ∧ runsReady s (foldRuns x (0, 1, 0)) = true ∧
    (let u := s.setBucket 6 { x with complete := x.complete.filter (· != (0, 1, 0)) }
     (sgValues u 6 false x.record.share (contributionAt x.record 0 1)).1.isOk = true) := by
  decide +kernel

theorem witness_BucketSteps_close :
    (let s := { withBucket {} { phase := .fired, record := smallRecord } with time := { now := 2 ^ 60 } }
     closeDue s (s.bucket 6) = true ∧ (s.bucket 6).heldArm = false ∧ runsReady s (scatterRuns (s.bucket 6)) = true) ∧
    (let s := { withBucket {} { phase := .fired, record := { smallRecord with ring_ := true } } with clk := 2 ^ 40 }
     (s.bucket 6).phase = .fired ∧ (s.bucket 6).record.ring_ = true ∧ (1 : Nat) < (s.bucket 6).record.owners.length ∧ 1 ∉ (s.bucket 6).hops ∧
      landedOf (s.bucket 6) (s.bucket 6).step 1 < partialLines (s.bucket 6).record ∧ (s.bucket 6).firedAt + s.red.ringTo.toNat * 1200 ≤ s.clk ∧ (s.bucket 6).heldArm = false ∧
      runsReady s (endRuns (s.bucket 6)) = true) ∧
    (let s0 := withBucket {} { phase := .closed, record := { smallRecord with pushLen := 256, pctr := 11 } }
     let s := s0.setTile 3 { s0.tile 3 with counters := [(11, 1)] }
     (s.bucket 6).phase = .closed ∧ (ownShard s (s.bucket 6).record).isSome = true ∧ (s.bucket 6).record.pushLen ≠ 0 ∧
      pushReached s (s.bucket 6).record = true ∧ inPitch s (s.bucket 6).record.hostRing = false ∧
      runsReady s [(addrOff (s.bucket 6).record.pushSrc, 256), digestRun (s.bucket 6).record (s.bucket 6).step] = true) ∧
    (let s := withBucket {} { phase := .armed, record := { smallRecord with pushLen := 256, members := [(5, true), (7, false)] }, pushed := [(0, 2)] }
     (s.bucket 6).phase = .armed ∧ ownPushed s (s.bucket 6).record = true ∧
      (∀ j, j < (s.bucket 6).record.owners.length → pushLines (s.bucket 6) j = (s.bucket 6).record.pushLen / 128) ∧
      s.cmd.stages = [] ∧ (s.bucket 6).heldArm = false ∧ runsReady s (endRuns (s.bucket 6)) = true) := by
  refine ⟨?_, ?_, ?_, ?_⟩ <;> decide +kernel

/-- Three owners in the RING, with shards of no pack; the partial of hop h has landed whole. -/
def ringRecord : BucketRecord :=
  { smallRecord with ring_ := true, ascale := 100, nmem := 3, members := [(5, false), (7, false), (8, false)] }
def hopLanded : State := withBucket {} { phase := .fired, record := ringRecord, hops := [0] }

theorem witness_BucketSteps_hop :
    let s := hopLanded
    let n := (s.bucket 6).record.owners.length
    (hopReady (s.bucket 6) (shardHop s (s.bucket 6).record 1) = true ∧ shardHop s (s.bucket 6).record 1 + 1 < n ∧
      (takeHop s 6 (shardHop s (s.bucket 6).record 1)).1.isOk = true ∧
      runsReady s (hopRuns s (s.bucket 6) (shardHop s (s.bucket 6).record 1)) = true) ∧
    (let s := withBucket {} { phase := .fired, record := ringRecord, hops := [0, 1] }
     1 < n ∧ hopReady (s.bucket 6) (n - 1) = true ∧ (takeHop s 6 (n - 1)).1.isOk = true ∧ (s.bucket 6).heldArm = false ∧
      runsReady s (ringRuns s (s.bucket 6)) = true) := by
  decide +kernel

/-- Every partial of the step is here, though none has been dealt with: the ring timeout does nothing (R291). -/
theorem test_ring_timeout_needs_a_missing_partial :
    (ran (exec (.ringTimeout 6) { hopLanded with clk := 2 ^ 40 })).bucket 6 = hopLanded.bucket 6 := by decide +kernel

/-- In a replay an idle flit names the flit to be sent again next, not the next new one (R218). -/
theorem test_idle_in_replay_names_next :
    comingSeq { replay := [{ fseq := 5, control := false, payload := [] }], nextSeq := 9 } = 5 := by decide

/-! ### Ring pairs -/

/-- Ring pair 0 starts one descriptor, in a part that is device 5. -/
def oneDesc (fields : List (Nat × Nat × Nat)) : State := withDescs (powered (fabric {})) [aDesc fields]
/-- The same within pitch 9. -/
def pitchDesc (fields : List (Nat × Nat × Nat)) : State :=
  let s := oneDesc ((2, 2, 9) :: fields)
  s.setRing 0 { s.ring 0 with pitch := { phase := .open, id := 9 } }
/-- Ring pair 0's descriptor is under way. -/
def runningAs (run : DescRun) (fields : List (Nat × Nat × Nat)) : State :=
  withDescs (powered (fabric {})) [{ aDesc fields with phase := .running, run := run }]

/-- The fields of a SIGNAL of count 3 to counter 255 of tile 1151. -/
def aSignal (dev : Nat) : List (Nat × Nat × Nat) := [(0, 1, 5), (8, 8, dev * 2 ^ 52 + 0x100047F123456), (16, 1, 255), (20, 4, 3)]

theorem witness_RingDescriptors :
    (let s := oneDesc []
     Claims.Runs s 0 (descAt0 s) 0x00 0) ∧
    (let s := oneDesc (aSignal 0xFFF)
     Claims.Runs s 0 (descAt0 s) 0x05 0 ∧ isOwn s (sigTarget (opndAddr (descAt0 s) 8)) = true) ∧
    (let s := oneDesc (aSignal 7)
     Claims.Runs s 0 (descAt0 s) 0x05 0 ∧ isOwn s (sigTarget (opndAddr (descAt0 s) 8)) = false ∧ opnd (descAt0 s) 20 4 ≠ 0) ∧
    (let s := pitchDesc ((24, 1, 1) :: aSignal 7)
     let d := descAt0 s
     nextDesc s 0 = some d ∧ descOpc d = 0x05 ∧ checkDesc s 0 d = 0 ∧ inPitch s 0 = true ∧ (s.ring 0).pitch.log.length < 4096 ∧ opnd d 24 1 % 2 = 1) ∧
    (let s := oneDesc ((25, 1, 1) :: aSignal 7)
     let d := descAt0 s
     nextDesc s 0 = some d ∧ descOpc d = 0x05 ∧ checkDesc s 0 d = 0x0605 ∧ inPitch s 0 = false) ∧
    (let s := oneDesc [(0, 1, 0xFE)]
     let d := descAt0 s
     nextDesc s 0 = some d ∧ descOpc d ∉ opcodes ∧ inPitch s 0 = false) := by
  unfold Claims.Runs
  refine ⟨?_, ?_, ?_, ?_, ?_, ?_⟩ <;> decide +kernel

/-- A TIMED at 100 ns, a FENCE of a scope, a WAIT on counter 8 of tile 3, a WAIT on the word at HBM 64. -/
def aTimed (lock : Nat) : List (Nat × Nat × Nat) := [(0, 1, 6), (8, 8, 100), (16, 1, lock)]
def aFence (scope : Nat) : List (Nat × Nat × Nat) := [(0, 1, 3), (8, 1, scope)]
def counterWait : List (Nat × Nat × Nat) := [(0, 1, 4), (8, 8, 0xFFF8000003000020), (24, 8, 5), (32, 4, 1)]
def wordWait : List (Nat × Nat × Nat) := [(0, 1, 4), (8, 8, 0xFFF0000000000040), (16, 1, 1), (24, 8, 0), (32, 4, 1)]

theorem witness_RingDescriptors_waits :
    (∀ lock, lock < 2 →
      let s := oneDesc (aTimed lock)
      Claims.Runs s 0 (descAt0 s) 0x06 0 ∧ s.ns < opnd (descAt0 s) 8 8) ∧
    (let s := { oneDesc (aTimed 1) with time := { now := 2 ^ 50 } }
     Claims.Runs s 0 (descAt0 s) 0x06 0 ∧ opnd (descAt0 s) 8 8 ≤ s.ns ∧ timeLocked s = false) ∧
    (let s := { runningAs .timed (aTimed 0) with time := { now := 2 ^ 50 } }
     Claims.Running s 0 (descAt0 s) .timed ∧ opnd (descAt0 s) 8 8 ≤ s.ns ∧ opnd (descAt0 s) 16 1 ≠ 1) ∧
    (let s := runningAs .timed (aTimed 0)
     Claims.Running s 0 (descAt0 s) .timed ∧ s.ns < opnd (descAt0 s) 8 8) ∧
    (∀ scope, scope ∈ [1, 2] →
      let s := oneDesc (aFence scope)
      Claims.Runs s 0 (descAt0 s) 0x03 0) ∧
    (let s := oneDesc counterWait
     Claims.Runs s 0 (descAt0 s) 0x04 0 ∧ opnd (descAt0 s) 16 1 = 0 ∧ (waitCounter s (descAt0 s)).1 = false) ∧
    (let s := oneDesc wordWait
     Claims.Runs s 0 (descAt0 s) 0x04 0) ∧
    (let s := runningAs (.wait 0 0 0) counterWait
     Claims.Running s 0 (descAt0 s) (.wait 0 0 0) ∧ opnd (descAt0 s) 16 1 = 0) ∧
    (let s := runningAs (.wait 0 0 0) wordWait
     let d := descAt0 s
     Claims.Running s 0 d (.wait 0 0 0) ∧ opnd d 16 1 ≠ 0 ∧ addrSpace (opndAddr d 8) = 0 ∧ isOwn s (opndAddr d 8) = true ∧
      okBytes (ringRead s 0 (addrOff (opndAddr d 8)) 8) = some (zeros 8) ∧ waitHolds d 0 = true) ∧
    (let s := { runningAs (.wait 0 0 0) counterWait with clk := 1200 }
     let d := descAt0 s
     Claims.Running s 0 d (.wait 0 0 0) ∧ opnd d 32 4 ≠ 0 ∧ 0 + opnd d 32 4 * 1200 ≤ s.clk ∧ (waitCounter s d).1 = false ∧ (s.ring 0).phase = .active) := by
  unfold Claims.Runs Claims.Running
  refine ⟨?_, ?_, ?_, ?_, ?_, ?_, ?_, ?_, ?_, ?_⟩ <;> decide +kernel

theorem test_counter_wait_ends :
    let s := runningAs (.wait 0 0 0) counterWait
    let t := s.setTile 3 { s.tile 3 with counters := [(8, 5)] }
    (descAt0 (ran (exec (.waitPoll 0 0 false) t))).phase = .done ∧ (descAt0 (ran (exec (.waitPoll 0 0 false) s))).phase = .running := by decide +kernel

/-- An ACTIVE ring pair 0 as given, its port up and primary. -/
def ringIs (r : RingPair) : State := (hostUp {}).setRing 0 r

theorem witness_RingPolls :
    (let s := ringIs { phase := .active }
     activeRings s 0 ≠ [] ∧ tget s.cmd.polled 0 0 ≤ s.clk ∧ s.log.halted = false) ∧
    (let s := ringIs { phase := .active, head := 5, tail := 7, next := 40 }
     let raw := layout 128 [(4, 4, 40), (68, 4, 41)]
     (s.ring 0).phase = .active ∧ s.log.halted = false ∧ ((s.ring 0).tail - (s.ring 0).head).toNat = 2 ∧
      ∀ k, k < 2 → BitVec.ofNat 32 (field raw (64 * k + 4) 4) = (s.ring 0).next + BitVec.ofNat 32 k) ∧
    (∀ seq, seq ∈ [39, 41] →
      let s := ringIs { phase := .active, head := 5, tail := 6, next := 40 }
      let raw := layout 64 [(4, 4, seq)]
      (s.ring 0).phase = .active ∧ s.log.halted = false ∧ (s.ring 0).tail = (s.ring 0).head + 1 ∧ BitVec.ofNat 32 (field raw 4 4) ≠ (s.ring 0).next) ∧
    (let d := { aDesc [] with phase := .done, inPitch := true, sealed := true }
     let s := ringIs { phase := .stopped, descs := [d] }
     (s.ring 0).descs = d :: [] ∧ (s.ring 0).phase ≠ .disabled ∧ d.phase = .done ∧ d.inPitch = true ∧ d.sealed = true) ∧
    (let s := ringIs {}
     (s.hport 0).up = true ∧ (s.ring 0).phase = .disabled ∧ bit (0x701 : W32).toNat 0 = true ∧ s.log.halted = false) ∧
    (let s := ringIs { phase := .stopped }
     (s.ring 0).phase ≠ .disabled ∧ (s.ring 0).pitch.phase = .none ∧ bit (0x700 : W32).toNat 0 = false ∧ 0 = b2n s.host.primary) ∧
    (let s := ringIs { phase := .active, tail := 1 }
     (s.ring 0).phase = .active ∧ (s.ring 0).tail ≠ (s.ring 0).head) ∧
    (let s := runningAs (.wait 0 0 0) [(0, 1, 4), (8, 8, 0xFFF3000000000040), (16, 1, 1)]
     Claims.Running s 0 (descAt0 s) (.wait 0 0 0) ∧ hostSpace (opndAddr (descAt0 s) 8) = true ∧ inPitch s 0 = false) := by
  unfold Claims.Running
  refine ⟨?_, ?_, ?_, ?_, ?_, ?_, ?_, ?_⟩ <;> decide +kernel

/-- A COPY of 64 bytes from HBM 0x1000 to HBM 0x2020. -/
def aCopy (n ctrl : Nat) : List (Nat × Nat × Nat) :=
  [(0, 1, 2), (8, 8, 0xFFF0000000001000), (16, 8, 0xFFF0000000002020), (24, 8, n), (32, 8, ctrl), (40, 1, 255), (44, 4, 3)]

theorem witness_RingPolls_copy :
    (let s := oneDesc (aCopy 0 0xFFF1000003000000)
     let d := descAt0 s
     Claims.Runs s 0 d 0x02 0 ∧ runningCopy s 0 = none ∧ opnd d 24 8 = 0 ∧ opnd d 32 8 ≠ 0 ∧ isOwn s (sigTarget (opndAddr d 32)) = true ∧
      (s.ring 0).descs = [d]) ∧
    (let s := oneDesc (aCopy 64 0)
     let d := descAt0 s
     let src := opndAddr d 8
     let dst := opndAddr d 16
     Claims.Runs s 0 d 0x02 0 ∧ runningCopy s 0 = none ∧ inPitch s 0 = false ∧ (∀ x, x ∈ (s.ring 0).descs → x.phase ≠ .running) ∧
      s.hbm.marks = [] ∧ s.cmd.redirects = [] ∧ Mem.wf zeroByte s.hbm.mem = true ∧ opnd d 24 8 = 64 ∧ isOwn s src = true ∧ addrSpace src = 0 ∧
      isOwn s dst = true ∧ addrSpace dst = 0 ∧ addrOff dst % 128 + 64 ≤ 128 ∧ opnd d 32 8 = 0 ∧ copyReady s src 64 = true ∧ copyReady s dst 64 = true ∧
      refusal s (.ring 0) .read none 0 (addrOff src) 64 = 0 ∧ refusal s (.ring 0) .write none 0 (addrOff dst) 64 = 0) ∧
    (let s0 := oneDesc (aCopy 64 0)
     let s := { s0 with hbm := { s0.hbm with retired := [(0, 0, true)] } }
     let d := descAt0 s
     let src := opndAddr d 8
     Claims.Runs s 0 d 0x02 0 ∧ runningCopy s 0 = none ∧ inPitch s 0 = false ∧ s.log.ringUp = false ∧ isOwn s src = true ∧ addrSpace src ≤ 1 ∧
      copyReady s src 64 = true ∧ copyReady s (opndAddr d 16) 64 = true ∧ addrOff (opndAddr d 16) % 128 + 64 ≤ 128 ∧
      refusal s (.ring 0) .read none (addrSpace src) (addrOff src) 64 = 0x0303) := by
  unfold Claims.Runs
  refine ⟨?_, ?_, ?_⟩ <;> decide +kernel

/-! ### The job -/

/-- One descriptor with its record at HBM 0 and another run of bytes at HBM 512. -/
def recorded (opc op : Nat) (rec more : Bytes) : State :=
  let s := oneDesc [(0, 1, opc), (8, 1, op), (9, 1, if opc = 0x11 then 6 else 0), (16, 8, 0xFFF0000000000000)]
  { s with hbm := { s.hbm with mem := memWrite zeroByte (memWrite zeroByte [] (physKey s 0) rec) (physKey s 512) more } }

/-- The record as a ring pair's descriptor reads it. -/
def readRecord (s : State) (n : Nat) : RingRead := ringRead (beginDesc s 0 (descAt0 s)) 0 (addrOff (opndAddr (descAt0 s) 16)) n

/-- A lock record of R304 with a configuration of 256 bytes at HBM 512. -/
def lockBytes : Bytes := layout 256 [(0, 1, 1), (2, 2, 6), (4, 1, 2), (6, 2, 2), (8, 2, 3), (16, 8, 77), (24, 8, 0xFFF0000000000200), (32, 4, 256)]

def lockedJob (s : State) : State := { s with job := { s.job with locked := true } }

theorem witness_JobLock :
    (let s := recorded 0x38 0 lockBytes []
     let d := descAt0 s
     let a : W64 := BitVec.ofNat 64 (field lockBytes 24 8)
     Claims.Runs s 0 d 0x38 0 ∧ s.job.locked = false ∧ hbmRun s (opndAddr d 16) 256 256 = true ∧ okBytes (readRecord s 256) = some lockBytes ∧
      jobRecordOk lockBytes = true ∧ s.fab.devValid = true ∧ holdsPrepared s = false ∧ hbmRun s a 256 (field lockBytes 32 4) = true ∧
      okBytes (ringRead (okState (readRecord s 256)) 0 (addrOff a) (field lockBytes 32 4)) = some (zeros 256)) ∧
    (∀ op, op < 2 →
      let s := lockedJob (recorded 0x38 op lockBytes [])
      Claims.Runs s 0 (descAt0 s) 0x38 op ∧ s.job.locked = true ∧ launchRunning s = false ∧ anyPitch s = false ∧ holdsPrepared s = false) ∧
    (let s0 := lockedJob (recorded 0x38 1 lockBytes [])
     let s := { s0 with cmd := { s0.cmd with launches := [aLaunch] } }
     Claims.Runs s 0 (descAt0 s) 0x38 1 ∧ s.job.locked = true ∧ launchRunning s = true) := by
  unfold Claims.Runs
  refine ⟨?_, ?_, ?_⟩ <;> decide +kernel

/-- A pipe record of R308: sending side to device 7, slots in this part's HBM. -/
def pipeBytes : Bytes :=
  layout 256 [(0, 1, 1), (2, 2, 7), (4, 1, 3), (5, 1, 31), (6, 2, 1151), (8, 1, 20), (9, 1, 21), (16, 8, 0xFFF0000001000000), (24, 4, 2)]

/-- The pipe of that record in use; its receiving counterpart. -/
def aPipe (recv : Bool) : Pipe := { readPipe pipeBytes with receiving := recv }
/-- This part with pipe 6. -/
def withPipe (s : State) (p : Pipe) : State := { s with job := { s.job with pipes := [(6, p)] } }

/-- The areas of a receiving pipe lie in OPEN regions. -/
def openSlots (s : State) : State :=
  { s with fab := { s.fab with
      owners := [(ownIndex 0 0x1000000, mkOwn 2 0xFFF false false), (ownIndex 1 0x3000000, mkOwn 2 0xFFF false false)] } }

/-- Device 7's pipe stream has delivered a line for pipe 6, first half of pack 0. -/
def pipePacketOf (n : Nat) : Packet := { inPacket tPIPE with cls := 3, addr := BitVec.ofNat 52 n, payload := zeros 128, e2e := e2eOf (zeros 128) }
def pipeLine (s : State) : State :=
  { s with fab := { s.fab with rx := [{ src := 7, cls := 3, expected := 1, delivered := [(pipePacketOf 6, false)] }] } }

theorem witness_Pipes :
    (let s := recorded 0x11 0 pipeBytes []
     let v := okState (readRecord s 256)
     Claims.Runs s 0 (descAt0 s) 0x11 0 ∧ s.job.locked = false ∧ okBytes (readRecord s 256) = some pipeBytes ∧ pipeOk v pipeBytes = true ∧
      tget? v.job.pipes (pipeNum (descAt0 s)) = none ∧ (readPipe pipeBytes).slots ≠ 0) ∧
    (let s := recorded 0x11 1 [] []
     Claims.Runs s 0 (descAt0 s) 0x11 1 ∧ s.job.locked = false) ∧
    (let p := aPipe false
     let s0 := withPipe (powered (fabric {})) p
     let s := s0.setTile 1151 { s0.tile 1151 with counters := [(20, 1)] }
     let m := memRead' s ((ringView s p.ring).map (localKey s)) (addrSpace p.area) (pipeSlot p p.k) 256 false
     tget? s.job.pipes 6 = some p ∧ p.receiving = false ∧ p.fold2 = none ∧ produced s p p.k = true ∧
      (p.k - s.counter p.ctile p.c2.toNat).toNat < p.slots ∧ refusal s .agent .read none (addrSpace p.area) (pipeSlot p p.k) 256 = 0 ∧
      unitReady s (addrSpace p.area) (pipeSlot p p.k) 256 = true ∧ m.2.1 = .good) ∧
    (∀ i, i < 2 →
     let p := { aPipe true with area := if i = 0 then 0xFFF0000001000000 else 0xFFF1000003000100 }
     let s0 := openSlots (pipeLine (withPipe (powered (fabric {})) p))
     let s := s0.setTile 3 { s0.tile 3 with banks := banksUp }
     let k := pipePacketOf 6
     let off := pipeSlot p 0
     Claims.Delivered s 7 3 tPIPE k ∧ tget? s.job.pipes (k.addr.toNat % 256) = some p ∧ p.receiving = true ∧ BitVec.ofNat 32 (bits k.addr.toNat 40 9) = 0 ∧
      bit k.addr.toNat 8 = false ∧ refusal s (.remote k.src.toNat) .write none (addrSpace p.area) off 128 = 0 ∧
      unitReady s (addrSpace p.area) off 128 = true ∧ verify k.payload k.e2e = .good ∧ k.payload.length = 128 ∧ off % 256 + 128 ≤ 256 ∧
      addrSpace p.area ≤ 1 ∧ Mem.wf zeroByte s.hbm.mem = true ∧ s.hbm.marks = [] ∧ s.cmd.redirects = [] ∧
      Mem.wf zeroByte (s.tile (off / 2 ^ 24)).mem = true) ∧
    (let s := pipeLine (fabric {})
     Claims.Delivered s 7 3 tPIPE (pipePacketOf 6) ∧ tget? s.job.pipes ((pipePacketOf 6).addr.toNat % 256) = none) ∧
    (let p := aPipe true
     let s0 := withPipe (fabric {}) p
     let s := s0.setTile 1151 { s0.tile 1151 with counters := [(21, 1)] }
     tget? s.job.pipes 6 = some p ∧ p.receiving = true ∧ (s.ring p.ring).pitch.phase = .none ∧ p.peer < 4096 ∧ p.peerTile < 1152 ∧
      s.counter p.ctile p.c2.toNat ≠ p.credited) := by
  unfold Claims.Runs Claims.Delivered
  refine ⟨?_, ?_, ?_, ?_, ?_, ?_⟩ <;> decide +kernel

/-- The second half of a pack counts one arrival. -/
theorem test_pipe_counts_pairs :
    let one := ran (exec (.pipe 7) (openSlots (pipeLine (withPipe (powered (fabric {})) (aPipe true)))))
    let two := ran (exec (.pipe 7) (openSlots (pipeLine (withPipe (powered (fabric {})) { aPipe true with halves := [(0, true)] }))))
    one.counter 1151 20 = 0 ∧ two.counter 1151 20 = 1 := by decide +kernel

/-- A gather table of one entry: one pack of a source, to tile 1 at 0x100, counted by counter 9. -/
def gatherBytes (src : Nat) : Bytes := layout 64 [(0, 4, 1), (32, 8, src), (40, 8, 0xFFF1000001000100), (48, 4, 1), (52, 1, 9), (54, 2, 1)]
/-- A GATHER under way with that table. -/
def gathering (src : Nat) : State :=
  let s := runningAs (.gather (gatherBytes src) 0 0 0 0) [(0, 1, 0x12)]
  s.setTile 1 { s.tile 1 with banks := banksUp }

theorem witness_Gathers :
    (let s := recorded 0x12 0 (gatherBytes 0x70000000001000) []
     let d := descAt0 s
     let b := gatherBytes 0x70000000001000
     let v := okState (readRecord s 32)
     let w := ringRead v 0 (addrOff (opndAddr d 16)) 64
     Claims.Runs s 0 d 0x12 0 ∧ hbmRun s (opndAddr d 16) 256 32 = true ∧ (okBytes (readRecord s 32)).map gatherCount = some 1 ∧
      (okBytes (readRecord s 32)).map (fun h => allZero h 4 28) = some true ∧ hbmRun s (opndAddr d 16) 256 64 = true ∧ okBytes w = some b ∧
      (List.range 1).all (gatherFormOk b) = true ∧ (List.range 1).all (gatherSpaceOk (okState w) b) = true ∧ (List.range 1).all (gatherAddrOk (okState w) b) = true ∧ gatherCount b ≠ 0 ∧
      ∀ x, x ∈ (s.ring 0).descs → x.phase ≠ .running) ∧
    (let b := gatherBytes 0x70000000001000
     let s := gathering 0x70000000001000
     let e := gatherEntry b 0
     Claims.Running s 0 (descAt0 s) (.gather b 0 0 0 0) ∧ 0 < gatherCount b ∧ entryReady s e = true ∧ (s.ring 0).pitch.phase ≠ .stopping ∧ e.npack = 1 ∧
      isOwn s e.src = false ∧ agentCount s (gatherDie s e.dst) + 2 ≤ 4096) ∧
    (let b := gatherBytes 0xFFF0000000001000
     let s := gathering 0xFFF0000000001000
     let e := gatherEntry b 0
     Claims.Running s 0 (descAt0 s) (.gather b 0 0 0 0) ∧ 0 < gatherCount b ∧ entryReady s e = true ∧ inPitch s 0 = false ∧
      (s.ring 0).pitch.phase = .none ∧ e.npack = 1 ∧ isOwn s e.src = true ∧ isOwn s e.dst = true ∧ addrSpace e.src = 0 ∧ addrSpace e.dst = 1 ∧
      e.src.toNat % 256 = 0 ∧ e.dst.toNat % 256 = 0 ∧ addrOff e.dst / 2 ^ 24 = addrTile e.dst ∧ s.hbm.marks = [] ∧ s.cmd.redirects = [] ∧
      Mem.wf zeroByte (s.tile (addrTile e.dst)).mem = true ∧
      (∀ i, i < 2 → refusal s (.ring 0) .read none 0 (addrOff e.src + 128 * i) 128 = 0 ∧ refusal s (.ring 0) .write none 1 (addrOff e.dst + 128 * i) 128 = 0 ∧
        unitReady s 0 (addrOff e.src + 128 * i) 128 = true ∧ unitReady s 1 (addrOff e.dst + 128 * i) 128 = true)) := by
  unfold Claims.Runs Claims.Running
  refine ⟨?_, ?_, ?_⟩ <;> decide +kernel

/-- A pace record: a mode, a collector, and two members listed at HBM 512. -/
def paceBytes (mode collector : Nat) : Bytes := layout 256 [(0, 1, 1), (1, 1, mode), (2, 2, collector), (4, 4, 9), (8, 2, 2), (16, 8, 0xFFF0000000000200)]
/-- The part in a pace group. -/
def paced (g : PaceGroup) : State :=
  let s := portIs id
  { s with job := { s.job with pace := g } }
/-- A message of group 9 from device 7. -/
def paceFrom7 (g : PaceGroup) (kind : Nat) : State :=
  let s := arrived { inPacket tMGMT with payload := layout 16 [(0, 1, kind), (1, 1, 40), (2, 4, 9)] }
  { s with job := { s.job with pace := g } }

theorem witness_Pace_join :
    (∀ mode, mode < 2 →
      let b := paceBytes mode 7
      let s := recorded 0x22 0 b (leBytes 2 5 ++ leBytes 2 7)
      Claims.Runs s 0 (descAt0 s) 0x22 0 ∧ hbmRun s (opndAddr (descAt0 s) 16) 256 256 = true ∧ okBytes (readRecord s 256) = some b ∧ paceRecordOk b = true ∧
        (field b 1 1 = 0 ∨ collects (okState (readRecord s 256)) (readGroup (okState (readRecord s 256)) b []) = false)) ∧
    (let b := paceBytes 1 5
     let s := recorded 0x22 0 b (leBytes 2 5 ++ leBytes 2 7)
     let v := okState (readRecord s 256)
     let a : W64 := BitVec.ofNat 64 (field b 16 8)
     Claims.Runs s 0 (descAt0 s) 0x22 0 ∧ okBytes (readRecord s 256) = some b ∧ paceRecordOk b = true ∧ field b 1 1 ≠ 0 ∧ collects v (readGroup v b []) = true ∧
      field b 8 2 = 2 ∧ hbmRun s a 1 4 = true ∧ okBytes (ringRead v 0 (addrOff a) 4) = some (leBytes 2 5 ++ leBytes 2 7) ∧
      ∀ i, i < 2 → field (leBytes 2 5 ++ leBytes 2 7) (2 * i) 2 < 4096) := by
  unfold Claims.Runs
  refine ⟨?_, ?_⟩ <;> decide +kernel

theorem witness_Pace_exchange :
    (let s := paced { mode := 1, collector := 7, reported := 32 }
     s.job.pace.mode ≠ 0 ∧ reportedPace s ≠ s.job.pace.reported ∧ collects s s.job.pace = false ∧ usablePaths s (s.job.pace.collector % 4096) true ≠ []) ∧
    (let s := paced { mode := 1, collector := 5, members := [5, 7], reports := [(7, (40, 0))] }
     collects s s.job.pace = true ∧ groupPaceOf s s.job.pace ≠ s.job.pace.sentPace ∧ ownDev s ∈ s.job.pace.members ∧ 7 ∈ s.job.pace.members ∧
      7 ≠ ownDev s ∧ usablePaths s 7 true ≠ []) ∧
    (let s := paceFrom7 { mode := 1, collector := 5, group := 9, members := [5, 7] } 1
     ∃ k, Claims.PaceArrived s 2 k 1 ∧ collects s s.job.pace = true ∧ s.job.pace.members.contains k.src.toNat = true) ∧
    (let s := paceFrom7 { mode := 1, collector := 7, group := 9 } 2
     ∃ k, Claims.PaceArrived s 2 k 2 ∧ k.src.toNat = s.job.pace.collector) ∧
    (let s := { paced { mode := 1, groupPace := 40 } with clk := 360000 }
     s.job.pace.mode ≠ 0 ∧ s.job.pace.groupPace < 64 ∧ s.job.pace.lastBelow + 360000 ≤ s.clk) ∧
    (let s := { paced { mode := 1 } with clk := 3600000 }
     s.job.pace.mode ≠ 0 ∧ s.job.pace.lost = false ∧ s.job.pace.lastAny + 3600000 ≤ s.clk) := by
  refine ⟨?_, ?_, ⟨{ inPacket tMGMT with payload := layout 16 [(0, 1, 1), (1, 1, 40), (2, 4, 9)] }, ?_⟩,
    ⟨{ inPacket tMGMT with payload := layout 16 [(0, 1, 2), (1, 1, 40), (2, 4, 9)] }, ?_⟩, ?_, ?_⟩ <;>
    (try unfold Claims.PaceArrived Claims.Arrived) <;> decide +kernel

/-! ### Pitches -/

/-- A PITCH_OPEN of pitch 9 at step 77; with a fall-back word at HBM 0x3000. -/
def anOpen (fb : Nat) : List (Nat × Nat × Nat) := [(0, 1, 8), (2, 2, 9), (16, 4, 77), (20, 1, fb), (24, 8, 0xFFF0000000003000)]

/-- Pitch 9 of ring pair 0, in a state. -/
def pitchIs (p : Pitch) (ds : List Desc) (stages : List Stage) : State :=
  let s := withDescs (powered (hostUp (fabric {}))) ds
  let s := s.setRing 0 { s.ring 0 with pitch := { p with id := 9 } }
  { s with cmd := { s.cmd with stages := stages } }

/-- This part's own stage of the pitch: one piece at HBM 0x1000; a stage that device 7 left here. -/
def ownStage : Stage := { src := 0xFFF, ring := 0, pitch := 9, pieces := [(16, zeros 256)] }
def stageOf7 (prepared : Bool) : Stage := { src := 7, ring := 3, pitch := 9, pieces := [(16, zeros 256)], prepared := prepared }

def aBelay : Desc := aDesc [(0, 1, 9), (2, 2, 9)]
def belayUnder : Desc := { aBelay with phase := .running, run := .belay, inPitch := true }

theorem witness_PitchAttempts_open :
    (∀ fb, fb < 2 →
      let s := oneDesc (anOpen fb)
      let d := descAt0 s
      Claims.Runs s 0 d 0x08 0 ∧ BitVec.ofNat 32 (opnd d 16 4) ∉ s.cmd.storms ∧ levelCode s 0 (opndAddr d 24) = 0 ∧ opnd d 20 1 = fb) ∧
    (let s := oneDesc (anOpen 1)
     unitReady s 0 (addrOff (opndAddr (descAt0 s) 24)) 8 = true ∧ s.cmd.redirects = [] ∧ s.hbm.marks = [] ∧ Mem.wf zeroByte s.hbm.mem = true) ∧
    (let s0 := oneDesc (anOpen 0)
     let s := { s0 with cmd := { s0.cmd with storms := [77] } }
     Claims.Runs s 0 (descAt0 s) 0x08 0 ∧ BitVec.ofNat 32 (opnd (descAt0 s) 16 4) ∈ s.cmd.storms) := by
  unfold Claims.Runs
  refine ⟨?_, ?_, ?_⟩ <;> decide +kernel

/-- The tag of a SPREP that device 7 answers. -/
def asked7 (p : Pitch) (code : Nat) : State :=
  let s := answered { inPacket tSTATUS with cls := 1, payload := leBytes 16 code } { waitingRead with use_ := .sprep 0 7, packet := outPacket tSPREP }
  let s := s.setRing 0 { phase := .active, size := 64, descs := [belayUnder], pitch := { p with id := 9 } }
  { s with cmd := { s.cmd with stages := [ownStage] } }

theorem witness_PitchAttempts_belay :
    (∀ ps, ps ∈ [[], [7]] →
      let s := pitchIs { phase := .open, participants := ps } [aBelay] [ownStage]
      let p := (s.ring 0).pitch
      Claims.Runs s 0 aBelay 0x09 0 ∧ runningBelay s 0 = none ∧ p.phase = .open ∧ covered s p.sent = true ∧ attemptBusy s 0 = false ∧ s.cmd.decisions.length < 1024 ∧ ownStage.bad = [] ∧ p.step ∉ s.cmd.storms ∧ mustFall p = false ∧
        p.participants = ps ∧ captureHolds s 0 = false ∧ stageOf s (localKey s 0) = some ownStage) ∧
    (∀ code, code ∈ [0, 0x0604] →
      let s := asked7 { phase := .preparing, awaiting := [7], participants := [7] } code
      let k := { inPacket tSTATUS with cls := 1, payload := leBytes 16 code }
      let p := (s.ring 0).pitch
      Claims.Arrived s 2 k (prepareAnswer s) ∧ tagUse s k = some (.sprep 0 7) ∧ p.phase = .preparing ∧ p.covering = false ∧
        p.awaiting = [7] ∧ p.answers = [] ∧ field k.payload 0 2 = code ∧ s.cmd.decisions.length < 1024 ∧ captureHolds s 0 = false ∧ p.participants ≠ [] ∧
        (s.ring 0).phase = .active ∧ stageOf s (localKey s 0) = some ownStage) ∧
    (let s := { pitchIs { phase := .preparing, awaiting := [7] } [belayUnder] [] with clk := 2 ^ 40 }
     let p := (s.ring 0).pitch
     p.phase = .preparing ∧ p.covering = false ∧ p.awaiting ≠ [] ∧ p.since + s.fab.fenceTo.toNat * 1200 ≤ s.clk ∧ (s.ring 0).phase = .active) := by
  unfold Claims.Runs Claims.Arrived
  refine ⟨?_, ?_, ?_⟩ <;> decide +kernel

/-- A SIGNAL that the pitch deferred. -/
def deferredSignal : Desc := { aDesc ((2, 2, 9) :: (24, 1, 1) :: aSignal 0xFFF) with phase := .done, inPitch := true }

theorem witness_PitchAttempts_end :
    (let s := pitchIs { phase := .committing } [belayUnder] []
     let p := (s.ring 0).pitch
     Claims.Running s 0 belayUnder .belay ∧ (s.ring 0).phase = .active ∧ p.phase = .committing ∧ p.awaiting = [] ∧ (s.ring 0).deferred = [] ∧
      runsReady s ((turningSets s 0).map (fun x => roleRun x.2)) = true) ∧
    (let d := { belayUnder with index := 1 }
     let s0 := pitchIs { phase := .committing } [deferredSignal, d] []
     let s := s0.setRing 0 { s0.ring 0 with deferred := [deferredSignal] }
     Claims.Running s 0 d .belay ∧ (s.ring 0).phase = .active ∧ (s.ring 0).pitch.phase = .committing ∧ (s.ring 0).pitch.awaiting = [] ∧
      (s.ring 0).deferred = [deferredSignal] ∧ deferredSignal.index ≠ d.index ∧
      runsReady s ((turningSets s 0).map (fun x => roleRun x.2)) = true ∧ descOpc deferredSignal = 0x05 ∧
      isOwn s (sigTarget (opndAddr deferredSignal 8)) = true) ∧
    (let d := aDesc [(0, 1, 10), (2, 2, 9)]
     let s := pitchIs { phase := .open } [d] []
     Claims.Runs s 0 d 0x0A 0 ∧ (s.ring 0).pitch.phase = .open) ∧
    (∀ e, e ∈ [(true, false, 0), (false, true, 0), (false, true, 3), (false, false, 0)] →
      let s := pitchIs { phase := .stopping, aborting := e.1, replays := e.2.1, attempt := e.2.2 } [] [ownStage]
      (s.ring 0).pitch.phase = .stopping ∧ (∀ l, l ∈ s.cmd.launches → l.ring = 0 → l.finished = true) ∧ (s.ring 0).pitch.falling = false ∧
        attemptBusy s 0 = false ∧ (s.ring 0).phase = .active) := by
  unfold Claims.Runs Claims.Running
  refine ⟨?_, ?_, ?_, ?_⟩ <;> decide +kernel

/-- Device 7's request stream has delivered a packet of the belay of its ring pair 3, pitch 9. -/
def belayOf7 (typ : Byte) : Packet := { inPacket typ with ring := 3, pitch := 9, inPitch := true }
def belayAt (typ : Byte) (stages : List Stage) : State :=
  let s := delivered (belayOf7 typ) false
  let s := hostUp s
  { s.setPort 2 { s.port 2 with en := true, phase := .up } with cmd := { s.cmd with stages := stages } }

theorem witness_StagesOfOthers :
    (∀ gs, gs ∈ [[], [stageOf7 true], [stageOf7 false], [{ stageOf7 false with refused := true }]] →
      let s := belayAt tSPREP gs
      Claims.Delivered s 7 0 tSPREP (belayOf7 tSPREP) ∧ usablePaths s 7 false ≠ [] ∧ stageOf s (belayKey (belayOf7 tSPREP)) = gs.head?) ∧
    (∀ gs, gs ∈ [[], [stageOf7 false], [stageOf7 true]] →
      let s := belayAt tSCOMMIT gs
      Claims.Delivered s 7 0 tSCOMMIT (belayOf7 tSCOMMIT) ∧ usablePaths s 7 false ≠ [] ∧ stageOf s (belayKey (belayOf7 tSCOMMIT)) = gs.head? ∧ ∀ g, g ∈ gs → g.bad = []) ∧
    Claims.Delivered (belayAt tSDISCARD [stageOf7 true]) 7 0 tSDISCARD (belayOf7 tSDISCARD) ∧
    (Claims.Delivered (belayAt tSQUERY []) 7 0 tSQUERY (belayOf7 tSQUERY) ∧ usablePaths (belayAt tSQUERY []) 7 false ≠ []) ∧
    (let s := { pitchIs {} [] [stageOf7 true] with clk := 2 ^ 40 }
     let g := stageOf7 true
     s.cmd.stages[0]? = some g ∧ stageOf s (g.src, g.ring, g.pitch) = some g ∧ g.src ≠ 0xFFF ∧ queryDue s g = true) ∧
    (let o := { waitingRead with use_ := .sprep 0 7, packet := outPacket tSPREP }
     let s0 := sendingTo aStream
     let s := { s0 with fab := { s0.fab with outstanding := [o] } }
     outstandingOf s 9 = some o ∧ sentAfresh s o = true ∧ o.sentAt + 240000 ≤ s.clk) ∧
    (let x : Decision := { no := 3, ring := 0, pitch := 9, waiting := [7], again := true }
     let s0 := sendingTo aStream
     let s := { s0 with cmd := { s0.cmd with decisions := [x] } }
     s.cmd.decisions.find? (fun x => x.no == 3) = some x ∧ 7 ∈ x.waiting ∧ tget x.sentAt 7 0 + 120000000 ≤ s.clk) ∧
    (let r : Redirect := { granule := 3, src := 7, pieces := [(768, zeros 256)] }
     let s0 := powered (fabric {})
     let s := { s0 with cmd := { s0.cmd with redirects := [r] } }
     s.cmd.redirects[0]? = some r ∧ 768 / 256 = r.granule ∧ r.granule < 2 ^ 32 ∧ (zeros 256).length = 256 ∧ s.cmd.redirects.length = 1 ∧ unitReady s 0 (256 * 768) 256 = true ∧ Mem.wf zeroByte s.hbm.mem = true) ∧
    (∀ gs, gs ∈ [[], [stageOf7 true], [stageOf7 false]] →
      let s0 := pitchIs {} [] gs
      let s := { s0 with cmd := { s0.cmd with rsrSrc := 7, rsrRing := 3, rsrPitch := 9 } }
      Claims.Primary s 0 ∧ stageOf s (resolveKey s) = gs.head? ∧ ∀ g, g ∈ gs → g.bad = []) := by
  unfold Claims.Delivered Claims.Primary
  refine ⟨?_, ?_, ?_, ?_, ?_, ?_, ?_, ?_, ?_⟩ <;> decide +kernel

/-! ### Bivouac -/

/-- A set record of R363 for set 0: one extent, role word at HBM 0x3000, nothing drained. -/
def setBytes (flags partner : Nat) : Bytes :=
  layout 256 [(0, 1, 1), (2, 1, flags), (4, 2, partner), (6, 1, 1), (8, 8, 0xFFF0000000003000), (16, 4, 16), (24, 8, 0xFFF0000001000000),
    (32, 8, 0xFFF0000002000000), (96, 8, 2 ^ 25 + 1024)]
/-- The set of that record in a phase. -/
def aSet (p : SetPhase) : SnapSet := { readSet (setBytes 0 0) with phase := p }
/-- A state with set 0. -/
def withSet (s : State) (k : SnapSet) : State := s.setSnap 0 k

/-- A SNAPSHOT, RESTORE or CURSOR with its record at HBM 0. -/
def snapDesc (opc op : Nat) (rec : Bytes) : State :=
  let s := recorded opc op rec []
  let s := withDescs s [aDesc [(0, 1, opc), (8, 1, op), (16, 8, 0xFFF0000000000000)]]
  { s with fab := { s.fab with partner := 3 } }

/-- The partner answers. -/
def partnered (s : State) : State := hostUp (s.setPort 2 { s.port 2 with en := true, phase := .up })

theorem witness_SnapshotSets_declare :
    (let s := snapDesc 0x18 0 (setBytes 0 0)
     let v := okState (readRecord s 256)
     Claims.Runs s 0 (descAt0 s) 0x18 0 ∧ hbmRun s (opndAddr (descAt0 s) 16) 256 256 = true ∧ okBytes (readRecord s 256) = some (setBytes 0 0) ∧
      declareOk v (setBytes 0 0) = true ∧ (readSet (setBytes 0 0)).pcopy = false ∧ runsReady v [roleRun (readSet (setBytes 0 0))] = true ∧
      bivouacCode v .write (addrOff (readSet (setBytes 0 0)).roleWord) 8 = 0 ∧ v.cmd.redirects = [] ∧ Mem.wf zeroByte v.hbm.mem = true) ∧
    (let s := snapDesc 0x18 0 (zeros 256)
     Claims.Runs s 0 (descAt0 s) 0x18 0 ∧ okBytes (readRecord s 256) = some (zeros 256) ∧ declareOk (okState (readRecord s 256)) (zeros 256) = false) ∧
    (let s := partnered (snapDesc 0x18 0 (setBytes 2 7))
     let v := okState (readRecord s 256)
     Claims.Runs s 0 (descAt0 s) 0x18 0 ∧ okBytes (readRecord s 256) = some (setBytes 2 7) ∧ declareOk v (setBytes 2 7) = true ∧
      (readSet (setBytes 2 7)).pcopy = true ∧ runsReady v [roleRun (readSet (setBytes 2 7))] = true ∧ peerCard v 7 = none ∧ usablePaths v 7 true ≠ []) := by
  unfold Claims.Runs
  refine ⟨?_, ?_, ?_⟩ <;> decide +kernel

/-- A MGMT packet of the partner exchange from device 7, and a DECLARE that waits for it. -/
def partnerFrom7 (kind feed domain : Nat) : State :=
  let s := powered (arrived { inPacket tMGMT with payload := layout 16 [(0, 1, kind), (2, 4, feed), (6, 4, domain)] })
  let s := withDescs s [{ aDesc [(0, 1, 0x18)] with phase := .running, run := .partner (setBytes 2 7) }]
  { s with fab := { s.fab with partner := 3 }, snap := { s.snap with queries := [⟨0, 0, 7, 0⟩] }, clk := 12000000 }

theorem witness_SnapshotSets_partner :
    (let s := partnerFrom7 3 1 3
     let k := { inPacket tMGMT with payload := layout 16 [(0, 1, 3), (2, 4, 1), (6, 4, 3)] }
     Claims.Arrived s 2 k (mgmtMine 3 s) ∧ field k.payload 0 1 = 3 ∧ usablePaths s k.src.toNat true ≠ []) ∧
    (∀ domain, domain ∈ [3, 4] →
      let s := partnerFrom7 4 1 domain
      let k := { inPacket tMGMT with payload := layout 16 [(0, 1, 4), (2, 4, 1), (6, 4, domain)] }
      Claims.Arrived s 2 k (mgmtMine 4 s) ∧ runsReady s [roleRun (readSet (setBytes 2 7))] = true ∧
        bivouacCode s .write (addrOff (readSet (setBytes 2 7)).roleWord) 8 = 0 ∧ field k.payload 0 1 = 4 ∧ s.snap.queries = [⟨0, 0, 7, 0⟩] ∧ k.src.toNat = 7 ∧
        (descOf s 0 0).map (·.run) = some (.partner (setBytes 2 7)) ∧
        (partnerCode s (field k.payload 2 4) (field k.payload 6 4) = 0 ↔ domain = 3) ∧ (domain = 3 → declareOk s (setBytes 2 7) = true)) ∧
    (let s := partnerFrom7 4 1 3
     s.snap.queries.find? (fun q => q.ring == 0) = some ⟨0, 0, 7, 0⟩ ∧ 0 + 12000000 ≤ s.clk) := by
  unfold Claims.Arrived
  refine ⟨?_, ?_, ?_⟩ <;> decide +kernel

/-- A TAKE of set 0 to the drives. -/
def takeBytes : Bytes := layout 256 [(0, 2, 1), (2, 1, 1)]

theorem witness_SnapshotSets_take :
    (∀ nv, nv ∈ [true, false] →
      let s := withSet (snapDesc 0x18 1 takeBytes) { aSet .ready with nvme := nv }
      Claims.Runs s 0 (descAt0 s) 0x18 1 ∧ hbmRun s (opndAddr (descAt0 s) 16) 1 256 = true ∧ okBytes (readRecord s 256) = some takeBytes ∧
        field takeBytes 2 1 < 4 ∧ allZero takeBytes 3 5 = true ∧ allZero takeBytes 17 3 = true ∧ allZero takeBytes 24 232 = true ∧
        field takeBytes 8 8 = 0 ∧ bitList (field takeBytes 0 2) 16 = [0] ∧ runsReady (okState (readRecord s 256)) (snapRuns (okState (readRecord s 256)) 1 takeBytes) = true ∧
        takeSkips (okState (readRecord s 256)) ((okState (readRecord s 256)).snapSet 0) true false = !nv) ∧
    (let s := withSet (powered (fabric {})) (aSet .freezing)
     (s.snapSet 0).phase = .freezing ∧ (s.snapSet 0).captured = false ∧
      runsReady s (captureRun (s.snapSet 0) :: captureSources (s.snapSet 0)) = true ∧ captureRefusal s (s.snapSet 0) = none) ∧
    (let s := withSet (powered (fabric {})) { aSet .freezing with captured := true, drvMask := 5, drain := { nvme := true } }
     (s.snapSet 0).phase = .freezing ∧ (s.snapSet 0).captured = true ∧ stageHolds s (s.snapSet 0) = false ∧ (s.snapSet 0).drain.pcopy = false ∧
      (s.snapSet 0).drain.nvme = true ∧ drivesOf (s.snapSet 0) = [0, 2]) := by
  unfold Claims.Runs
  refine ⟨?_, ?_, ?_⟩ <;> decide +kernel

/-- Set 0 drains to drive 2: a step with commands left. -/
def drivesAt (step left failed : Nat) : State :=
  withSet (powered (fabric {}))
    { aSet .draining with drvMask := 4, slotLba := 65536, drain := { nvme := true, nvmeStep := step, left := [(2, left)], failed := [(2, failed)] } }
/-- Set 0 drains to its partner. -/
def copyingTo7 (step : Nat) (cover : List Cover) : State :=
  let s := withSet (powered (fabric {})) { aSet .draining with partner := 7, drain := { pcopy := true, copyStep := step, cover := cover } }
  { s with clk := 2 ^ 40 }

set_option maxRecDepth 200000 in
theorem witness_SnapshotSets_drain :
    (let s := drivesAt 1 2 0
     (s.snapSet 0).phase = .draining ∧ (s.snapSet 0).drain.nvme = true ∧ (s.snapSet 0).drain.nvmeStep = 1 ∧ tget (s.snapSet 0).drain.left 2 0 = 2 ∧
      Mem.wf zeroByte (tget s.snap.drives 2 []) = true) ∧
    (let s := drivesAt 2 3 0
     let k := s.snapSet 0
     (stripesOn k (drivePos k 2))[0]? = some 0 ∧ tget k.drain.left 2 0 = (stepCmds s k 2 2).length - 0 ∧ maxTransfer s 2 (2 ^ 20) = 2 ^ 20 ∧
      Claims.ImageReads s k ∧ Mem.wf zeroByte (tget s.snap.drives 2 []) = true) ∧
    (let s0 := drivesAt 2 3 0
     let s := { s0 with snap := { s0.snap with maxBytes := [(2, 524288)] } }
     let k := s.snapSet 0
     ((stepCmds s k 2 2)[1]?.map (fun c => (c.opcode, c.len, c.skip))) = some (0x01, 524288, 524288) ∧
      ((stepCmds s k 2 2)[1]?.map (fun c => match c.data with | .stripe j => j | _ => 9)) = some 0 ∧
      tget k.drain.left 2 0 = (stepCmds s k 2 2).length - 1 ∧ Claims.ImageReads s k ∧ Mem.wf zeroByte (tget s.snap.drives 2 []) = true) ∧
    (∀ failed, failed < 2 →
      let s := drivesAt 1 2 failed
      (s.snapSet 0).phase = .draining ∧ (s.snapSet 0).drain.nvme = true ∧ tget (s.snapSet 0).drain.left 2 0 ≠ 0 ∧ tget (s.snapSet 0).drain.failed 2 0 = failed) ∧
    (∀ step, step ∈ [1, 3] →
      let s := copyingTo7 step []
      let k := s.snapSet 0
      k.phase = .draining ∧ k.drain.pcopy = true ∧ covered s k.drain.cover = true ∧ Claims.ImageReads s k ∧ 1 ≤ k.drain.copyStep ∧ k.drain.copyStep = step) ∧
    (let s := copyingTo7 1 [⟨7, 0, 5⟩]
     let k := s.snapSet 0
     covered s k.drain.cover = false ∧ max k.drain.copyAt (txOf s k.partner 0).advance + s.fab.fenceTo.toNat * 1200 ≤ s.clk) ∧
    (let k := { aSet .draining with drain := { signal := layout 17 [(0, 8, 0xFFF100047F000000), (8, 1, 255), (12, 4, 3)] } }
     let s := withSet (powered (fabric {})) k
     let sig := (s.snapSet 0).drain.signal
     (s.snapSet 0).phase = .draining ∧ (s.snapSet 0).drain.nvme = false ∧ (s.snapSet 0).drain.pcopy = false ∧
      takeOpen (s.setSnap 0 { s.snapSet 0 with phase := .ready }) (s.snapSet 0).drain.take = false ∧ field sig 0 8 ≠ 0 ∧
      isOwn s (sigTarget (BitVec.ofNat 64 (field sig 0 8))) = true) := by
  unfold Claims.ImageReads
  refine ⟨?_, ?_, ?_, ?_, ?_, ?_, ?_⟩ <;> decide +kernel

theorem witness_SnapshotSets_end :
    (∀ p, p ∈ [SetPhase.ready, .invalid, .recv] →
      let s := withSet (snapDesc 0x18 2 []) (aSet p)
      let b := zeros 256
      Claims.Runs s 0 (descAt0 s) 0x18 2 ∧ okBytes (readRecord s 256) = some b ∧ field b 0 1 < 16 ∧ allZero b 1 255 = true ∧
        ((okState (readRecord s 256)).snapSet 0).phase = p) ∧
    (let s0 := withSet (snapDesc 0x18 3 []) { aSet .ready with nvme := true, nslot := 1, drvMask := 5 }
     let s := { s0 with snap := { s0.snap with en := true } }
     let b := zeros 256
     let v := okState (readRecord s 256)
     let k := v.snapSet 0
     Claims.Runs s 0 (descAt0 s) 0x18 3 ∧ okBytes (readRecord s 256) = some b ∧ allZero b 2 254 = true ∧ k.phase = .ready ∧ k.nvme = true ∧
      v.snap.en = true ∧ 0 < k.nslot ∧ ∀ x, x ∈ drivesOf k → Mem.wf zeroByte (tget v.snap.drives x []) = true) := by
  unfold Claims.Runs
  refine ⟨?_, ?_⟩ <;> decide +kernel

/-! ### Images: their stripes are too long to hash in a test, so the digests stay as they are -/

/-- Cells of `n` bytes from an address. -/
def cellsFrom : Nat → (n : Nat) → (Nat → Byte) → Mem
  | _, 0, _ => []
  | a, n + 1, f => (a, f 0) :: cellsFrom (a + 1) n (fun i => f (i + 1))

theorem memRead_skip (d : Byte) (x : Nat) (v : Byte) (m : Mem) (n a : Nat) (h : x < a) :
    memRead d ((x, v) :: m) a n = memRead d m a n := by
  induction n generalizing a with
  | zero => rfl
  | succ n ih => simp only [memRead, memByte, if_neg (Nat.ne_of_lt h), ih (a + 1) (by omega)]

theorem memRead_cells (d : Byte) (r : Mem) (n a : Nat) (f : Nat → Byte) :
    memRead d (cellsFrom a n f ++ r) a n = (List.range n).map f := by
  induction n generalizing a f with
  | zero => rfl
  | succ n ih =>
    simp only [cellsFrom, List.cons_append, memRead, memByte, if_true]
    rw [memRead_skip d a (f 0) _ n (a + 1) (by omega), ih (a + 1) (fun i => f (i + 1)), List.range_succ_eq_map]
    simp [Function.comp_def]

theorem memRead_cells_after (d : Byte) (r : Mem) (k n a c : Nat) (f : Nat → Byte) (h : a + k ≤ c) :
    memRead d (cellsFrom a k f ++ r) c n = memRead d r c n := by
  induction k generalizing a f with
  | zero => rfl
  | succ k ih => rw [cellsFrom, List.cons_append, memRead_skip d a (f 0) _ n c (by omega), ih (a + 1) _ (by omega)]

theorem memRead_nil (d : Byte) (n a : Nat) : memRead d [] a n = List.replicate n d := by
  induction n generalizing a with
  | zero => rfl
  | succ n ih => simp only [memRead, memByte, ih, List.replicate_succ]

theorem memRead_add (d : Byte) (m : Mem) (n k a : Nat) : memRead d m a (n + k) = memRead d m a n ++ memRead d m (a + n) k := by
  induction n generalizing a with
  | zero => simp [memRead]
  | succ n ih => rw [Nat.succ_add, memRead, memRead, ih (a + 1), List.cons_append]; congr 3; omega

theorem range_getD (b : Bytes) : (List.range b.length).map (fun i => b.getD i 0) = b := by
  refine List.ext_getElem (by simp) (fun i h1 h2 => ?_)
  simp [List.getD_eq_getElem?_getD, h2]

theorem slice_append (p q : Bytes) (o k : Nat) (h : o + k ≤ p.length) : slice (p ++ q) o k = slice p o k := by
  have e : (p ++ q).drop o = p.drop o ++ q := List.drop_append_of_le_length (by omega)
  have l : k ≤ (p.drop o).length := by rw [List.length_drop]; omega
  simp only [slice, e, List.take_append_of_le_length l, List.length_append]
  congr 2
  omega

theorem field_append (p q : Bytes) (o k : Nat) (h : o + k ≤ p.length) : field (p ++ q) o k = field p o k := by
  simp only [field, slice_append p q o k h]

theorem slice_all (p : Bytes) : slice p 0 p.length = p := by simp [slice]

theorem slice_mid (p q r : Bytes) : slice (p ++ q ++ r) p.length q.length = q := by
  simp [slice, List.append_assoc]

theorem sm3_length (m : Bytes) : (sm3 m).length = 32 := by
  have round : ∀ v j a b, (sm3Round v j a b).length = 8 := fun _ _ _ _ => rfl
  have folded : ∀ (l : List Nat) (w : List Nat) (v : List Nat), v.length = 8 →
      (l.foldl (fun u j => sm3Round u j (w.getD j 0) (w.getD (j + 4) 0)) v).length = 8 := by
    intro l w
    induction l with
    | nil => intro v h; exact h
    | cons j l ih => intro v _; exact ih _ (round ..)
  have blocks : ∀ n v b, v.length = 8 → (sm3Blocks n v b).length = 8 := by
    intro n
    induction n with
    | zero => intro v _ h; exact h
    | succ n ih =>
      intro v b h
      refine ih _ _ ?_
      simp only [sm3Block, List.length_zipWith, folded _ _ _ h, h, Nat.min_self]
  have word : ∀ n k, (beBytes k n).length = k := by
    intro n k
    induction k generalizing n with
    | zero => simp [beBytes, leBytes]
    | succ k ih => simp [beBytes, leBytes] at ih ⊢; exact ih _
  unfold sm3
  have : ∀ l : List Nat, (l.flatMap (beBytes 4)).length = 4 * l.length := by
    intro l
    induction l with
    | nil => rfl
    | cons x l ih => simp only [List.flatMap_cons, List.length_append, word, ih, List.length_cons]; omega
  simp only [this]
  rw [blocks _ _ _ rfl]

/-- The stripe of zeros that an image of zeros has, and the hash list of that image. -/
def zeroStripe : Bytes := zeros (2 ^ 20)
def zeroList : Bytes := sm3 zeroStripe
/-- A manifest of R375 for set 0 with its 72 fixed bytes given: `HASHROOT`, then `MHASH`. -/
def headOf (p : Bytes) : Bytes := p ++ sm3 zeroList
def manifestFrom (p : Bytes) : Bytes := headOf p ++ sm3 (headOf p)

theorem headOf_length (p : Bytes) (h : p.length = 72) : (headOf p).length = 104 := by simp [headOf, sm3_length, h]
theorem manifestFrom_length (p : Bytes) (h : p.length = 72) : (manifestFrom p).length = 136 := by
  simp [manifestFrom, sm3_length, headOf_length p h]

theorem manifestFrom_valid (p z : Bytes) (h : p.length = 72) : manifestValid (manifestFrom p ++ z) = true := by
  have a : slice (manifestFrom p ++ z) 0 104 = headOf p := by
    have e : manifestFrom p ++ z = headOf p ++ (sm3 (headOf p) ++ z) := by simp [manifestFrom]
    rw [e, slice_append _ _ _ _ (by have := headOf_length p h; omega), ← headOf_length p h, slice_all]
  have b : slice (manifestFrom p ++ z) 104 32 = sm3 (headOf p) := by
    have := slice_mid (headOf p) (sm3 (headOf p)) z
    rwa [headOf_length p h, sm3_length] at this
  simp [manifestValid, a, b]

theorem manifestFrom_root (p z : Bytes) (h : p.length = 72) : slice (manifestFrom p ++ z) 72 32 = sm3 zeroList := by
  have := slice_mid p (sm3 zeroList) (sm3 (headOf p) ++ z)
  simp only [h, sm3_length] at this
  rw [← this]
  simp [manifestFrom, headOf]

theorem manifestFrom_field (p z : Bytes) (h : p.length = 72) (o k : Nat) (hk : o + k ≤ 72) :
    field (manifestFrom p ++ z) o k = field p o k := by
  have e : manifestFrom p ++ z = p ++ (sm3 zeroList ++ sm3 (headOf p) ++ z) := by simp [manifestFrom, headOf]
  rw [e, field_append _ _ _ _ (by omega)]

/-- The cells of a manifest and of the hash list. -/
def manifestCells (a : Nat) (p : Bytes) : Mem := cellsFrom a 136 (fun i => (manifestFrom p).getD i 0)
def listCells (a : Nat) : Mem := cellsFrom a 32 (fun i => zeroList.getD i 0)

theorem memRead_before (d : Byte) (k n a c : Nat) (f : Nat → Byte) (h : c + n ≤ a) :
    memRead d (cellsFrom a k f) c n = List.replicate n d := by
  have one : ∀ k a (f : Nat → Byte) c, c < a → memByte d (cellsFrom a k f) c = d := by
    intro k
    induction k with
    | zero => intro a f c _; rfl
    | succ k ih => intro a f c hc; simp only [cellsFrom, memByte, if_neg (Nat.ne_of_gt hc)]; exact ih _ _ _ (by omega)
  induction n generalizing c with
  | zero => rfl
  | succ n ih => simp only [memRead, one k a f c (by omega), ih (c + 1) (by omega), List.replicate_succ]

theorem manifest_read (r : Mem) (a n : Nat) (p : Bytes) (h : p.length = 72) (hr : memRead zeroByte r (a + 136) n = zeros n) :
    memRead zeroByte (manifestCells a p ++ r) a (136 + n) = manifestFrom p ++ zeros n := by
  rw [memRead_add, manifestCells, memRead_cells, memRead_cells_after _ _ _ _ _ _ _ (Nat.le_refl _), hr]
  congr 1
  have := range_getD (manifestFrom p)
  rwa [manifestFrom_length p h] at this

theorem list_read (r : Mem) (a : Nat) : memRead zeroByte (listCells a ++ r) a 32 = zeroList := by
  rw [listCells, memRead_cells]
  have := range_getD zeroList
  rwa [show zeroList.length = 32 from sm3_length _] at this

/-- The image of `SNAPNO` 5, step 77, in slot 0 of drive 0: manifest, hash list, and a stripe of zeros. -/
def loadHead : Bytes := layout 72 [(0, 1, 1), (4, 4, 5), (8, 4, 77), (48, 8, 65536), (56, 4, 1024), (60, 4, 1)]
def loadDrive : Mem := manifestCells 0 loadHead ++ listCells 4096
def loadable : State :=
  let s := lockedJob (withSet (snapDesc 0x19 0 []) { aSet .invalid with nvme := true, drvMask := 1, nslot := 1, slotLba := 65536 })
  { s with snap := { s.snap with en := true, drives := [(0, loadDrive)] } }

theorem loadable_drive : memRead zeroByte loadDrive 0 4096 = manifestFrom loadHead ++ zeros 3960 :=
  manifest_read _ 0 3960 loadHead (by decide +kernel) (memRead_before _ _ _ _ _ _ (by decide))
theorem loadable_list : memRead zeroByte loadDrive 4096 32 = zeroList := by
  rw [loadDrive, manifestCells, memRead_cells_after _ _ _ _ _ _ _ (by decide)]
  have := list_read [] 4096
  rwa [List.append_nil] at this
theorem loadable_stripe : memRead zeroByte loadDrive 8388608 (2 ^ 20) = zeroStripe := by
  have h := memRead_cells_after zeroByte [] 32 (2 ^ 20) 4096 8388608 (fun i => zeroList.getD i 0) (by decide)
  rw [List.append_nil, memRead_nil] at h
  rw [loadDrive, manifestCells, memRead_cells_after _ _ _ _ _ _ _ (by decide), listCells, h]
  rfl

/-- The state in which the RESTORE has read its record. -/
def loadRead : State := okState (readRecord loadable 256)

theorem ok_of_bytes {r : RingRead} {b : Bytes} (h : okBytes r = some b) : r = .ok b (okState r) := by
  cases r with
  | ok c v => simp only [okBytes, Option.some.injEq] at h; subst h; rfl
  | wait => simp [okBytes] at h
  | bad c d v => simp [okBytes] at h

theorem loadRead_eq : readRecord loadable 256 = .ok (zeros 256) loadRead := ok_of_bytes (by decide +kernel)

theorem loadRead_snap : loadRead.snap = loadable.snap := by
  rw [onlyHbm_snap (ringRead_ok loadRead_eq), beginDesc_snap]

/-- Slot 0 of the drive, as a LOAD of set 0 reads it. -/
theorem loadRead_bytes (at_ n : Nat) : driveBytes loadRead 0 at_ n = memRead zeroByte loadDrive at_ n := by
  unfold driveBytes
  rw [loadRead_snap]
  rfl

/-- The set as the LOAD finds it. -/
def loadSet0 : SnapSet := loadRead.snapSet 0

theorem loadSet0_facts : drivesOf loadSet0 = [0] ∧ setStripes loadSet0 = 1 ∧ slotByte loadRead loadSet0 0 0 = 0 ∧
    slotByte loadRead loadSet0 ([0].getD (0 % max 1 [0].length) 0) 0 + (8 + 0 / max 1 [0].length) * 2 ^ 20 = 8388608 ∧
    loadSet0.phase = .invalid ∧ 0 < loadSet0.nslot ∧ runsReady loadRead (loadRuns loadSet0) = true ∧
    runsRefusal loadRead .write (loadRuns loadSet0) = none ∧ loadSlots loadSet0 0 = [0] := by
  decide +kernel

theorem load_copies : slotManifests loadRead loadSet0 0 = [manifestFrom loadHead ++ zeros 3960] := by
  have h := manifestFrom_valid loadHead (zeros 3960) (by decide +kernel)
  have b : driveBytes loadRead 0 0 4096 = manifestFrom loadHead ++ zeros 3960 := (loadRead_bytes 0 4096).trans loadable_drive
  simp only [slotManifests, loadSet0_facts.1, List.map_cons, List.map_nil, loadSet0_facts.2.2.1, b, List.filter_cons, h, if_true, List.filter_nil]

theorem load_fits : manifestFits loadRead 0 loadSet0 (manifestFrom loadHead ++ zeros 3960) false = true := by
  have fits : ∀ o w, o + w ≤ 72 → field (manifestFrom loadHead ++ zeros 3960) o w = field loadHead o w :=
    fun o w h => manifestFrom_field loadHead (zeros 3960) (by decide +kernel) o w h
  simp only [manifestFits, fits 1 1 (by decide), fits 48 8 (by decide), fits 56 4 (by decide), fits 24 16 (by decide)]
  decide +kernel

theorem load_list : loadList loadRead loadSet0 0 (slice (manifestFrom loadHead ++ zeros 3960) 72 32) = some zeroList := by
  have b : driveBytes loadRead 0 (0 + 4096) (32 * 1) = zeroList := (loadRead_bytes 4096 32).trans loadable_list
  unfold loadList
  rw [manifestFrom_root loadHead (zeros 3960) (by decide +kernel), loadSet0_facts.1, List.map_cons, List.map_nil, loadSet0_facts.2.2.1,
    loadSet0_facts.2.1, b]
  exact List.find?_cons_of_pos (beq_self_eq_true (sm3 zeroList))

theorem load_stripe : loadStripe loadRead loadSet0 0 0 = zeroStripe := by
  unfold loadStripe
  rw [loadSet0_facts.1]
  dsimp only
  rw [loadSet0_facts.2.2.2.1]
  exact (loadRead_bytes 8388608 (2 ^ 20)).trans loadable_stripe

theorem one_good (f : Bytes → Bytes) (a : Bytes) : ((([(a, f a)]).takeWhile (fun p => f p.1 == p.2)).map (·.1)).length = 1 := by
  simp

theorem load_good : (goodStripes loadSet0 zeroList (loadStripe loadRead loadSet0 0)).length = setStripes loadSet0 := by
  have e : slice zeroList (32 * 0) 32 = sm3 zeroStripe := by
    have := slice_all zeroList
    rw [show zeroList.length = 32 from sm3_length _] at this
    exact this
  unfold goodStripes
  rw [loadSet0_facts.2.1, List.range_one, List.map_cons, List.map_nil, load_stripe, e]
  exact one_good sm3 zeroStripe

theorem torn_of_one {s : State} {k : SnapSet} {j : Nat} {m : Bytes} (h : slotManifests s k j = [m]) : slotTorn s k j = false := by
  unfold slotTorn
  rw [h]
  rfl

theorem newest_of_one {s : State} {k : SnapSet} {j : Nat} {m : Bytes} (h : slotManifests s k j = [m]) : newestImage s k [j] = some (j, m) := by
  simp only [newestImage, List.foldl_cons, List.foldl_nil, h]

theorem load_head : Claims.Runs loadable 0 (descAt0 loadable) 0x19 0 ∧ hbmRun loadable (opndAddr (descAt0 loadable) 16) 1 256 = true := by
  unfold Claims.Runs
  decide +kernel

theorem load_now : loadRead.job.locked = true ∧ launchRunning loadRead = false ∧ anyPitch loadRead = false ∧ loadRead.snap.en = true ∧
    loadRead.snap.policy = false := by decide +kernel

theorem witness_CursorsAndRestores_load :
    Claims.Runs loadable 0 (descAt0 loadable) 0x19 0 ∧ Claims.Reads loadable 0 (descAt0 loadable) 1 (zeros 256) loadRead ∧
    (loadRead.job.locked = true ∧ launchRunning loadRead = false ∧ anyPitch loadRead = false ∧ loadRead.snap.en = true ∧ loadRead.snap.policy = false) ∧
    (loadSet0 = loadRead.snapSet 0 ∧ loadSet0.phase = .invalid ∧ 0 < loadSet0.nslot ∧ runsReady loadRead (loadRuns loadSet0) = true ∧
      runsRefusal loadRead .write (loadRuns loadSet0) = none ∧ loadSlots loadSet0 0 = [0]) ∧
    slotTorn loadRead loadSet0 0 = false ∧ newestImage loadRead loadSet0 [0] = some (0, manifestFrom loadHead ++ zeros 3960) ∧
    manifestFits loadRead 0 loadSet0 (manifestFrom loadHead ++ zeros 3960) false = true ∧
    loadList loadRead loadSet0 0 (slice (manifestFrom loadHead ++ zeros 3960) 72 32) = some zeroList ∧
    (goodStripes loadSet0 zeroList (loadStripe loadRead loadSet0 0)).length = setStripes loadSet0 :=
  ⟨load_head.1, ⟨load_head.2, loadRead_eq⟩, load_now, ⟨rfl, loadSet0_facts.2.2.2.2⟩, torn_of_one load_copies, newest_of_one load_copies,
    load_fits, load_list, load_good⟩

/-- A received image of `SNAPNO` 5, step 77, of set 0 in capture area 1, and a PROMOTE of that step. -/
def promoteHead : Bytes := layout 72 [(0, 1, 1), (2, 1, 1), (4, 4, 5), (8, 4, 77), (48, 8, 65536), (56, 4, 1024), (60, 4, 1)]
def promoteBytes : Bytes := layout 256 [(0, 2, 1), (4, 4, 77)]
/-- The record at HBM 0, the hash list at HBM 0x2002000, the manifest at HBM 0x2000000. -/
def promoteMem : Mem := (0, 1) :: (4, 77) :: (listCells 524288 ++ manifestCells 68720001024 promoteHead)
def promotable : State :=
  let s := withSet (snapDesc 0x19 1 []) { aSet .recv with recv := true }
  { s with hbm := { s.hbm with mem := promoteMem }, snap := { s.snap with role := .standby } }
/-- The state in which the PROMOTE has read its record. -/
def promoteRead : State := okState (readRecord promotable 256)
def promoteSet0 : SnapSet := promoteRead.snapSet 0

theorem promoteRead_eq : readRecord promotable 256 = .ok promoteBytes promoteRead := ok_of_bytes (by decide +kernel)

theorem promoteRead_mem : promoteRead.hbm.mem = promoteMem := by
  have h := ringRead_keeps promoteRead_eq (by rw [beginDesc_hbm]; rfl) (by decide +kernel)
  rw [h, beginDesc_hbm]
  rfl

theorem piece_of {s : State} {n : Nat} {m : Mem} (h : redirectPiece s n = none) (g : s.hbm.mem = m) :
    committedPiece s n = memRead zeroByte m (granuleOf s (256 * n) * 256) 256 := by
  simp only [committedPiece, h, g]

/-- The hash list and the manifest as they are stored. -/
theorem promote_list_piece : memRead zeroByte promoteMem 524288 32 = zeroList := by
  rw [promoteMem, memRead_skip _ _ _ _ _ _ (by decide), memRead_skip _ _ _ _ _ _ (by decide), list_read]

theorem promote_manifest_piece : memRead zeroByte promoteMem 68720001024 256 = manifestFrom promoteHead ++ zeros 120 := by
  have h := manifest_read [] 68720001024 120 promoteHead (by decide +kernel) (by rw [memRead_nil]; rfl)
  rw [List.append_nil] at h
  rw [promoteMem, memRead_skip _ _ _ _ _ _ (by decide), memRead_skip _ _ _ _ _ _ (by decide), listCells,
    memRead_cells_after _ _ _ _ _ _ _ (by decide)]
  exact h

theorem memRead_length (d : Byte) (m : Mem) (n a : Nat) : (memRead d m a n).length = n := by
  induction n generalizing a with
  | zero => rfl
  | succ n ih => simp only [memRead, List.length_cons, ih]

/-- A granule place clear of the stored cells. -/
def clearOf (a : Nat) : Bool := (decide (524320 ≤ a) && decide (a + 256 ≤ 68720001024)) || decide (68720001160 ≤ a)

theorem promote_clear (a : Nat) (h : clearOf a = true) : memRead zeroByte promoteMem a 256 = zeros 256 := by
  simp only [clearOf, Bool.or_eq_true, Bool.and_eq_true, decide_eq_true_eq] at h
  rw [promoteMem, memRead_skip _ _ _ _ _ _ (by omega), memRead_skip _ _ _ _ _ _ (by omega), listCells,
    memRead_cells_after _ _ _ _ _ _ _ (by omega)]
  rcases h with h | h
  · exact memRead_before _ _ _ _ _ _ h.2
  · have := memRead_cells_after zeroByte [] 136 256 68720001024 a (fun i => (manifestFrom promoteHead).getD i 0) h
    rw [List.append_nil, memRead_nil] at this
    exact this

theorem promote_noRedirect (n : Nat) : redirectPiece promoteRead n = none := by
  have h : promoteRead.cmd.redirects = [] := by decide +kernel
  simp [redirectPiece, h]

theorem promote_piece (n : Nat) : committedPiece promoteRead n = memRead zeroByte promoteMem (granuleOf promoteRead (256 * n) * 256) 256 :=
  piece_of (promote_noRedirect n) promoteRead_mem

/-- Pieces that lie clear of the cells read as zeros. -/
theorem zeros_of_clear {s : State} {m : Mem} (hp : ∀ n, committedPiece s n = memRead zeroByte m (granuleOf s (256 * n) * 256) 256)
    (hc : ∀ a, clearOf a = true → memRead zeroByte m a 256 = zeros 256) (ps : List (Nat × Nat))
    (h : ps.all (fun p => clearOf (granuleOf s (256 * (p.1 / 256)) * 256)) = true) :
    ps.flatMap (fun p => ((committedPiece s (p.1 / 256)).drop (p.1 % 256)).take p.2) =
      ps.flatMap (fun p => ((zeros 256).drop (p.1 % 256)).take p.2) := by
  induction ps with
  | nil => rfl
  | cons p q ih =>
    simp only [List.all_cons, Bool.and_eq_true] at h
    rw [List.flatMap_cons, List.flatMap_cons, ih h.2, hp, hc _ h.1]

theorem promote_places : granuleOf promoteRead (256 * 131104) * 256 = 524288 ∧ granuleOf promoteRead (256 * 131072) * 256 = 68720001024 ∧
    piecesOf 256 33562624 32 = [(33562624, 32)] ∧ piecesOf 256 33554432 4096 = (33554432, 256) :: (piecesOf 256 33554432 4096).tail ∧
    (piecesOf 256 33554432 4096).tail.all (fun p => clearOf (granuleOf promoteRead (256 * (p.1 / 256)) * 256)) = true ∧
    (piecesOf 256 33554432 4096).tail.flatMap (fun p => ((zeros 256).drop (p.1 % 256)).take p.2) = zeros 3840 := by
  decide +kernel

theorem promote_list : committedBytes promoteRead 33562624 32 = zeroList := by
  obtain ⟨h2, -, h5, -, -, -⟩ := promote_places
  have c : committedPiece promoteRead 131104 = memRead zeroByte promoteMem 524288 (32 + 224) := by rw [promote_piece, h2]
  unfold committedBytes
  rw [h5, List.flatMap_cons, List.flatMap_nil, List.append_nil]
  show ((committedPiece promoteRead 131104).drop 0).take 32 = zeroList
  rw [c, memRead_add, promote_list_piece, List.drop_zero, List.take_left' (show zeroList.length = 32 from sm3_length _)]

theorem promote_manifest : committedBytes promoteRead 33554432 4096 = manifestFrom promoteHead ++ zeros 3960 := by
  obtain ⟨-, h4, -, h6, h7, h8⟩ := promote_places
  have c : committedPiece promoteRead 131072 = manifestFrom promoteHead ++ zeros 120 := by rw [promote_piece, h4, promote_manifest_piece]
  have l : (manifestFrom promoteHead ++ zeros 120).length = 256 := by
    rw [List.length_append, manifestFrom_length _ (by decide +kernel)]
    rfl
  unfold committedBytes
  rw [h6, List.flatMap_cons, zeros_of_clear promote_piece promote_clear _ h7, h8]
  show ((committedPiece promoteRead 131072).drop 0).take 256 ++ zeros 3840 = _
  rw [c, List.drop_zero, List.take_of_length_le (Nat.le_of_eq l), List.append_assoc]
  rfl

/-- A read of runs of memory without marks answers their committed bytes. -/
theorem readRuns_bytes {s : State} (h : s.hbm.marks = []) (a b n m : Nat) :
    (readRuns s [(a, n), (b, m)]).1 = committedBytes s a n ++ committedBytes s b m := by
  have h1 := hbmRead_unmarked h a n false
  have h2 := hbmRead_unmarked (s := (hbmRead s a n false).2.2) (by rw [touched_marks h1.2, h]) b m false
  simp only [readRuns, List.foldl_cons, List.foldl_nil, List.nil_append]
  rw [h1.1, h2.1, touched_bytes h1.2]

theorem promote_marks : promoteRead.hbm.marks = [] ∧ imageRuns promoteSet0 true = [(33558528, 1024), (68157440, 65536)] := by decide +kernel

theorem promote_runs :
    (piecesOf 256 33558528 1024).all (fun p => clearOf (granuleOf promoteRead (256 * (p.1 / 256)) * 256)) = true ∧
    (piecesOf 256 68157440 65536).all (fun p => clearOf (granuleOf promoteRead (256 * (p.1 / 256)) * 256)) = true := by
  decide +kernel

theorem cut_zeros (ps : List (Nat × Nat)) :
    ps.flatMap (fun p => ((zeros 256).drop (p.1 % 256)).take p.2) = zeros (ps.map (fun p => min p.2 (256 - p.1 % 256))).sum := by
  induction ps with
  | nil => rfl
  | cons p q ih =>
    rw [List.flatMap_cons, ih]
    simp only [zeros, List.drop_replicate, List.take_replicate, List.replicate_append_replicate, List.map_cons, List.sum_cons]

theorem promote_cuts : ((piecesOf 256 33558528 1024).map (fun p => min p.2 (256 - p.1 % 256))).sum = 1024 ∧
    ((piecesOf 256 68157440 65536).map (fun p => min p.2 (256 - p.1 % 256))).sum = 65536 := by
  decide +kernel

theorem promote_image {t : State} (h : OnlyTouched promoteRead t) : (readRuns t (imageRuns promoteSet0 true)).1 = zeros 66560 := by
  rw [promote_marks.2, readRuns_bytes ((touched_marks h).trans promote_marks.1), touched_bytes h, touched_bytes h]
  unfold committedBytes
  rw [zeros_of_clear promote_piece promote_clear _ promote_runs.1, zeros_of_clear promote_piece promote_clear _ promote_runs.2]
  rw [cut_zeros, cut_zeros, promote_cuts.1, promote_cuts.2, zeros, zeros, List.replicate_append_replicate]
  rfl

theorem slice_zeros (n m : Nat) (h : n ≤ m) : slice (zeros n) 0 m = zeros m := by
  simp only [slice, zeros, List.drop_zero, List.length_replicate]
  rw [List.take_of_length_le (by rw [List.length_replicate]; exact h), List.replicate_append_replicate]
  congr 1
  omega

theorem promoteSet0_facts : setStripes promoteSet0 = 1 ∧ capAt promoteSet0 true = 33554432 ∧ capAt promoteSet0 true + capHash promoteSet0 = 33562624 ∧
    promoteSet0.phase = .recv ∧ runsReady promoteRead (promoteRuns promoteSet0) = true ∧ promoteRead.snap.role = .standby ∧
    (launchRunning promoteRead || anyPitch promoteRead) = false ∧ holdsPrepared promoteRead = false ∧ promoteRead.snap.policy = false := by
  decide +kernel

/-- A capture area whose granules answer holds the bytes stored in it, and reading it touches its stacks only. -/
theorem readManifest_bytes {s : State} {k : SnapSet} {b : Bool} (h : s.hbm.marks = []) (f : runsRefusal s .read [(capAt k b, 4096)] = none)
    (g : (hbmRead s (capAt k b) 4096 false).2.1 = .good) :
    (readManifest s k b).1 = committedBytes s (capAt k b) 4096 ∧ OnlyTouched s (readManifest s k b).2 := by
  have r := hbmRead_unmarked h (capAt k b) 4096 false
  unfold readManifest
  rw [f]
  dsimp only
  rw [if_pos g]
  exact r

/-- The state in which the first manifest has been read, and the one in which both have. -/
def promoteOne : State := (readManifest promoteRead promoteSet0 false).2
def promoteU : State := (readManifest promoteOne promoteSet0 true).2

theorem promote_read_facts : runsRefusal promoteRead .read [(capAt promoteSet0 false, 4096)] = none ∧
    (hbmRead promoteRead (capAt promoteSet0 false) 4096 false).2.1 = .good ∧
    runsRefusal promoteRead .read [(capAt promoteSet0 true, 4096)] = none ∧
    (hbmRead promoteRead (capAt promoteSet0 true) 4096 false).2.1 = .good := by
  decide +kernel

theorem promote_one_facts : runsRefusal promoteOne .read [(capAt promoteSet0 true, 4096)] = none ∧
    (hbmRead promoteOne (capAt promoteSet0 true) 4096 false).2.1 = .good := by
  decide +kernel

theorem promoteOne_touched : OnlyTouched promoteRead promoteOne :=
  (readManifest_bytes promote_marks.1 promote_read_facts.1 promote_read_facts.2.1).2

theorem promoteOne_marks : promoteOne.hbm.marks = [] := by rw [touched_marks promoteOne_touched, promote_marks.1]

theorem touched_both {s t u : State} (h : OnlyTouched s t) (g : OnlyTouched t u) : OnlyTouched s u := by
  unfold OnlyTouched at *
  rw [g, h]

theorem promoteU_touched : OnlyTouched promoteRead promoteU :=
  touched_both promoteOne_touched (readManifest_bytes promoteOne_marks promote_one_facts.1 promote_one_facts.2).2

theorem promoteU_marks : promoteU.hbm.marks = [] := by rw [touched_marks promoteU_touched, promote_marks.1]
theorem promoteU_is : readManifests promoteRead [0] = promoteU := rfl
theorem touched_snap {s t : State} (h : OnlyTouched s t) : t.snap = s.snap := by rw [h]
theorem promoteU_set : promoteU.snapSet 0 = promoteSet0 := by
  unfold promoteSet0 State.snapSet
  rw [touched_snap promoteU_touched]
theorem promoteU_policy : promoteU.snap.policy = false := by rw [touched_snap promoteU_touched]; exact promoteSet0_facts.2.2.2.2.2.2.2.2

theorem promoteU_facts : runsRefusal promoteU .read [(capAt promoteSet0 true, 4096)] = none ∧
    (hbmRead promoteU (capAt promoteSet0 true) 4096 false).2.1 = .good ∧ capHolds promoteU promoteSet0 77 false = false ∧
    promoteRefusal promoteU promoteSet0 true = none := by
  decide +kernel

theorem promoteRead_low : capHolds promoteRead promoteSet0 77 false = false := by decide +kernel

theorem promote_capManifest : capManifest promoteRead promoteSet0 true = manifestFrom promoteHead ++ zeros 3960 := by
  unfold capManifest
  rw [(readManifest_bytes promote_marks.1 promote_read_facts.2.2.1 promote_read_facts.2.2.2).1, promoteSet0_facts.2.1, promote_manifest]

theorem promoteU_capManifest : capManifest promoteU promoteSet0 true = manifestFrom promoteHead ++ zeros 3960 := by
  unfold capManifest
  rw [(readManifest_bytes promoteU_marks promoteU_facts.1 promoteU_facts.2.1).1, promoteSet0_facts.2.1, touched_bytes promoteU_touched,
    promote_manifest]

theorem capHolds_of {s : State} (h : capManifest s promoteSet0 true = manifestFrom promoteHead ++ zeros 3960) :
    capHolds s promoteSet0 77 true = true := by
  have fits : ∀ o w, o + w ≤ 72 → field (manifestFrom promoteHead ++ zeros 3960) o w = field promoteHead o w :=
    fun o w h => manifestFrom_field promoteHead (zeros 3960) (by decide +kernel) o w h
  have l : (manifestFrom promoteHead ++ zeros 3960).length = 4096 := by
    have z : (zeros 3960).length = 3960 := List.length_replicate
    rw [List.length_append, manifestFrom_length _ (by decide +kernel), z]
  simp only [capHolds, h, l, fits 8 4 (by decide), fits 4 4 (by decide), manifestFrom_valid promoteHead (zeros 3960) (by decide +kernel)]
  decide +kernel

theorem buffer_of {s : State} {k : SnapSet} {step : Nat} (h0 : capHolds s k step false = false) (h1 : capHolds s k step true = true) :
    promoteBuffer s k step = some true := by
  simp only [promoteBuffer, h0, h1]

theorem promote_buffer : promoteBuffer promoteRead promoteSet0 77 = some true := buffer_of promoteRead_low (capHolds_of promote_capManifest)
theorem promoteU_buffer : promoteBuffer promoteU promoteSet0 77 = some true := buffer_of promoteU_facts.2.2.1 (capHolds_of promoteU_capManifest)

theorem check_of {s : State} {n step : Nat} {b : Bool} {k : SnapSet} (hk : s.snapSet n = k) (h1 : s.snap.role = .standby)
    (h2 : (launchRunning s || anyPitch s) = false) (h3 : holdsPrepared s = false) (h4 : k.phase = .recv) (h5 : promoteBuffer s k step = some b) :
    promoteCheck s [n] step = 0 := by
  simp [promoteCheck, hk, h1, h2, h3, h4, h5]

theorem promoted_of {s t : State} {n step : Nat} {b : Bool} {k : SnapSet} {list img : Bytes} (hk : s.snapSet n = k)
    (ht : (hbmRead s (capAt k b + capHash k) (32 * setStripes k) false).2.2 = t)
    (hl : (hbmRead s (capAt k b + capHash k) (32 * setStripes k) false).1 = list)
    (hlg : (hbmRead s (capAt k b + capHash k) (32 * setStripes k) false).2.1 = .good) (hr : sm3 list = slice (capManifest s k b) 72 32)
    (hi : (readRuns t (imageRuns k b)).1 = img) (hok : (readRuns t (imageRuns k b)).2.1 = true)
    (hg : (goodStripes k list (stripeOf img)).length = setStripes k) (hp : s.snap.policy = false) :
    (promoteSet s n step b).1 = 0 := by
  unfold promoteSet
  simp only [hk, ht, hl, hlg, hi, hok, hg, hp, ← hr, ne_eq, not_true_eq_false, Nat.lt_irrefl, Bool.true_eq_false, Bool.false_eq_true, or_self,
    false_and, if_false]

/-- The state in which the hash list too has been read. -/
def promoteT : State := (hbmRead promoteU (capAt promoteSet0 true + capHash promoteSet0) (32 * setStripes promoteSet0) false).2.2

theorem promoteT_touched : OnlyTouched promoteU promoteT := (hbmRead_unmarked promoteU_marks _ _ false).2

theorem promoteT_facts :
    (hbmRead promoteU (capAt promoteSet0 true + capHash promoteSet0) (32 * setStripes promoteSet0) false).2.1 = .good ∧
    (readRuns promoteT (imageRuns promoteSet0 true)).2.1 = true := by
  decide +kernel

theorem promote_list_at :
    (hbmRead promoteU (capAt promoteSet0 true + capHash promoteSet0) (32 * setStripes promoteSet0) false).1 = zeroList := by
  rw [(hbmRead_unmarked promoteU_marks _ _ false).1, touched_bytes promoteU_touched, promoteSet0_facts.2.2.1, promoteSet0_facts.1]
  exact promote_list

theorem promote_root : sm3 zeroList = slice (capManifest promoteU promoteSet0 true) 72 32 := by
  rw [promoteU_capManifest]
  exact (manifestFrom_root promoteHead (zeros 3960) (by decide +kernel)).symm

theorem promote_good : (goodStripes promoteSet0 zeroList (stripeOf (zeros 66560))).length = setStripes promoteSet0 := by
  have e : slice zeroList (32 * 0) 32 = sm3 zeroStripe := by
    have := slice_all zeroList
    rw [show zeroList.length = 32 from sm3_length _] at this
    exact this
  unfold goodStripes
  rw [promoteSet0_facts.1, List.range_one, List.map_cons, List.map_nil, show stripeOf (zeros 66560) 0 = zeroStripe from slice_zeros 66560 (2 ^ 20) (by decide), e]
  exact one_good sm3 zeroStripe

theorem promote_done : (promoteSet promoteU 0 77 true).1 = 0 :=
  promoted_of promoteU_set (by rfl) promote_list_at promoteT_facts.1 promote_root
    (promote_image (touched_both promoteU_touched promoteT_touched)) promoteT_facts.2 promote_good promoteU_policy

theorem promote_head : Claims.Runs promotable 0 (descAt0 promotable) 0x19 1 ∧ hbmRun promotable (opndAddr (descAt0 promotable) 16) 1 256 = true := by
  unfold Claims.Runs
  decide +kernel

theorem witness_CursorsAndRestores_promote :
    Claims.Runs promotable 0 (descAt0 promotable) 0x19 1 ∧ Claims.Reads promotable 0 (descAt0 promotable) 1 promoteBytes promoteRead ∧
    (allZero promoteBytes 2 2 = true ∧ allZero promoteBytes 8 248 = true ∧ bitList (field promoteBytes 0 2) 16 = [0] ∧ field promoteBytes 4 4 = 77) ∧
    promoteSet0 = promoteRead.snapSet 0 ∧ runsReady promoteRead (promoteRuns promoteSet0) = true ∧ promoteCheck promoteRead [0] 77 = 0 ∧
    readManifests promoteRead [0] = promoteU ∧ promoteU.snapSet 0 = promoteSet0 ∧ promoteBuffer promoteU promoteSet0 77 = some true ∧
    promoteRefusal promoteU promoteSet0 true = none ∧ (promoteSet promoteU 0 77 true).1 = 0 := by
  obtain ⟨-, -, -, f4, f5, f6, f7, f8, -⟩ := promoteSet0_facts
  exact ⟨promote_head.1, ⟨promote_head.2, promoteRead_eq⟩, by decide +kernel, rfl, f5, check_of (k := promoteSet0) (by rfl) f6 f7 f8 f4 promote_buffer,
    promoteU_is, promoteU_set, promoteU_buffer, promoteU_facts.2.2.2, promote_done⟩

/-! ### Cursors, the root port, the primary role -/

/-- A CURSOR record of two entries. -/
def cursorBytes : Bytes := layout 48 [(0, 2, 2), (16, 1, 63), (24, 8, 5), (32, 1, 0), (40, 8, 7)]
/-- A BIND record of set 0: one stream of one tile of table 0 to cursor 63. -/
def bindBytes : Bytes := layout 32 [(0, 2, 1), (17, 1, 63), (18, 2, 1151), (20, 2, 1), (22, 1, 255)]

theorem witness_Cursors :
    (let s := snapDesc 0x1A 0 cursorBytes
     let d := descAt0 s
     let v := okState (readRecord s 16)
     let w := ringRead v 0 (addrOff (opndAddr d 16)) 48
     let b := cursorBytes
     Claims.Runs s 0 d 0x1A 0 ∧ hbmRun s (opndAddr d 16) 16 16 = true ∧ (okBytes (readRecord s 16)).map (fun h => field h 0 2) = some 2 ∧
      (okBytes (readRecord s 16)).map (fun h => allZero h 2 14) = some true ∧ hbmRun s (opndAddr d 16) 16 48 = true ∧ okBytes w = some b ∧ field b 0 2 = 2 ∧
      ∀ i, i < 2 → field b (16 + 16 * i) 1 < 64 ∧ allZero b (17 + 16 * i) 7 = true) ∧
    (let s := withSet (snapDesc 0x1A 1 bindBytes) { aSet .ready with nstrm := 1, strm := [0xFFF0000004000000] }
     let d := descAt0 s
     let v := okState (readRecord s 16)
     let w := ringRead v 0 (addrOff (opndAddr d 16)) 32
     let b := bindBytes
     let k := (okState w).snapSet 0
     let l := (List.range 1).map (readBinding b)
     Claims.Runs s 0 d 0x1A 1 ∧ hbmRun s (opndAddr d 16) 16 16 = true ∧ (okBytes (readRecord s 16)).map (fun h => field h 0 2) = some 1 ∧
      (okBytes (readRecord s 16)).map (fun h => allZero h 3 13) = some true ∧ hbmRun s (opndAddr d 16) 16 32 = true ∧ okBytes w = some b ∧ field b 0 2 = 1 ∧
      field b 2 1 = 0 ∧ k.phase ≠ .free ∧ bindingsApart l = true ∧
      ∀ x, x ∈ l → x.table < k.nstrm ∧ x.cur < 64 ∧ 1 ≤ x.ntile ∧ x.tile0 + x.ntile ≤ 1152 ∧ x.stream0 + x.nstream ≤ 256) := by
  unfold Claims.Runs
  refine ⟨?_, ?_⟩ <;> decide +kernel

theorem witness_CursorsAndRestores :
    (let s := snapDesc 0x19 0 []
     Claims.Runs s 0 (descAt0 s) 0x19 0 ∧ hbmRun s (opndAddr (descAt0 s) 16) 1 256 = true ∧ okBytes (readRecord s 256) = some (zeros 256) ∧
      (okState (readRecord s 256)).job.locked = false) ∧
    (let s := snapDesc 0x19 1 (layout 256 [(0, 2, 1)])
     let v := okState (readRecord s 256)
     let b := layout 256 [(0, 2, 1)]
     Claims.Runs s 0 (descAt0 s) 0x19 1 ∧ okBytes (readRecord s 256) = some b ∧ allZero b 2 2 = true ∧ allZero b 8 248 = true ∧
      bitList (field b 0 2) 16 = [0] ∧ runsReady v ([0].flatMap (fun n => promoteRuns (v.snapSet n))) = true ∧ promoteCheck v [0] (field b 4 4) ≠ 0) ∧
    (let s := hostUp {}
     Claims.Primary s 0 ∧ s.snap.en = false ∧ s.pins.straps.getLsbD 1 = false ∧ bit (0x2 : W32).toNat 0 = false ∧ bits (0x2 : W32).toNat 2 1 = 1 ∧
      bits (0x6 : W32).toNat 2 1 = 3) ∧
    (let s := { hostUp {} with pins := { (hostUp {}).pins with straps := 2 } }
     Claims.Primary s 0 ∧ bit (0x3 : W32).toNat 0 = true ∧ s.pins.straps.getLsbD 1 = true ∧ BitVec.ofNat 2 (bits (0x3 : W32).toNat 2 1) ≠ (3 : BitVec 2)) ∧
    (let s : State := { ({} : State) with snap := { en := true } }
     s.snap.en = true ∧ s.snap.present = 0) := by
  unfold Claims.Runs Claims.Primary
  refine ⟨?_, ?_, ?_, ?_, ?_⟩ <;> decide +kernel

/-- Both ports up, P0 primary, with an offer of token 7 that P0 made at cycle 0. -/
def offered (clk : Nat) : State :=
  let s := hostUp {}
  let s := s.setHport 1 { s.hport 1 with up := true }
  { s with host := { s.host with offer := some 7 }, clk := clk }

theorem witness_PrimaryRole :
    (∀ host, host < 2 → Claims.HostUp (offered 0) host) ∧ primaryPort (offered 0) = 0 ∧ (offered 0).host.offer = some 7 ∧
    (offered 119999999).clk < (offered 0).host.offerAt + 120000000 ∧ (offered 120000000).host.offerAt + 120000000 ≤ (offered 120000000).clk ∧
    (let s := (offered 120000000).setHport 0 { (offered 0).hport 0 with up := false }
     Claims.HostUp s 1 ∧ 1 ≠ primaryPort s ∧ (s.hport (primaryPort s)).up = false ∧ (s.hport (primaryPort s)).downAt + 120000000 ≤ s.clk) := by
  unfold Claims.HostUp
  decide +kernel

theorem test_accept_within : primaryPort (ran (exec (.hoverAccept 1 7) (offered 119999999))) = 1 ∧
    primaryPort (ran (exec (.hoverAccept 1 7) (offered 120000000))) = 0 := by decide +kernel

/-! ### Power, heat and time -/

/-- The part with its power controller as given, board power present. -/
def withPower (f : Power → Power) (clk : Nat) : State :=
  let s := hostUp {}
  { s with pwr := f s.pwr, pins := { s.pins with vaux := true }, clk := clk }

theorem witness_PowerControl :
    (∀ ph, ph ∈ [PowerPhase.run, .throttle] →
      let s := withPower (fun p => { p with phase := ph }) 12000
      s.pins.vaux = true ∧ s.pwr.sampleAt + 1200 ≤ s.clk ∧ s.pwr.shed = false ∧ s.pwr.phase = ph ∧ ((300001 :: s.pwr.samples).take 100).sum > 300000 ∧
        ((300000 :: s.pwr.samples).take 100).sum ≤ 300000 ∧ s.pwr.tickAt + 12000 ≤ s.clk) ∧
    (withPower (fun p => { p with shed := true }) 1200).pwr.shed = true ∧
    (let s := withPower (fun p => { p with phase := .floor, dieTemp := [(17, 100)], floorTemp := 104 }) 12000
     s.pwr.tickAt + 12000 ≤ s.clk ∧ s.pwr.phase = .floor ∧ hottestDie s > s.pwr.floorTemp - 5) ∧
    (let s := withPower id 0
     Claims.Primary s 0 ∧ s.pwr.maxCap.toNat = 2400) ∧
    (let s := oneDesc [(0, 1, 0x20), (8, 8, 1000), (16, 4, 10), (20, 2, 500)]
     let d := descAt0 s
     Claims.Runs s 0 d 0x20 0 ∧ opnd d 20 2 ≠ 0 ∧ opnd d 16 4 ≠ 0 ∧ s.ns < opnd d 8 8 + opnd d 16 4 * 1000 ∧ s.pwr.hints = []) ∧
    (let s0 := oneDesc [(0, 1, 0x20), (8, 8, 1000), (16, 4, 10), (20, 2, 500)]
     let s := { s0 with pwr := { s0.pwr with hints := (List.range 16).map (fun k => ⟨2000 + k, 10, 500, 0, 0⟩) } }
     let d := descAt0 s
     Claims.Runs s 0 d 0x20 0 ∧ 16 ≤ s.pwr.hints.length ∧ ∀ h, h ∈ s.pwr.hints → ¬(h.start = opnd d 8 8 ∧ h.dur = opnd d 16 4 ∧ h.watts = opnd d 20 2)) ∧
    (let s := oneDesc [(0, 1, 0x20)]
     Claims.Runs s 0 (descAt0 s) 0x20 0 ∧ opnd (descAt0 s) 20 2 = 0 ∧ s.pwr.hints.length < 16) ∧
    (let s0 := withPower (fun p => { p with domains := [0] }) 0
     let s := s0.setTile 7 { s0.tile 7 with mode := 0 }
     Claims.RowStays s 1151 ∧ Claims.RowStays s 3) := by
  unfold Claims.Primary Claims.Runs Claims.RowStays
  refine ⟨?_, ?_, ?_, ?_, ?_, ?_, ?_, ?_⟩ <;> decide +kernel

/-- An envelope of two points, 100 W apart in a second. -/
def envelopeBytes (ver : Nat) : Bytes := layout 48 [(0, 1, ver), (2, 2, 2), (16, 8, 1000000000), (24, 2, 1100), (32, 8, 2000000000), (40, 2, 1200)]
def envelopeState (ver : Nat) : State :=
  let s := recorded 0x21 0 (envelopeBytes ver) []
  withDescs s [aDesc [(0, 1, 0x21), (16, 8, 0xFFF0000000000000)]]

theorem witness_PowerControl_envelope :
    (let s := envelopeState 1
     let d := descAt0 s
     let b := envelopeBytes 1
     let w := ringRead (okState (readRecord s 16)) 0 (addrOff (opndAddr d 16)) 48
     let pts := (List.range 2).map (fun j => (field b (16 + 16 * j) 8, field b (24 + 16 * j) 2))
     Claims.Runs s 0 d 0x21 0 ∧ hbmRun s (opndAddr d 16) 256 16 = true ∧
      (okBytes (readRecord s 16)).map (fun h => (field h 0 1, field h 1 1, field h 2 2, allZero h 4 12)) = some (1, 0, 2, true) ∧
      hbmRun s (opndAddr d 16) 256 48 = true ∧ okBytes w = some b ∧
      (∀ j, j < 2 → allZero b (26 + 16 * j) 6 = true ∧ field b (24 + 16 * j) 2 ≤ (okState w).pwr.cap.toNat) ∧
      slopesOk (okState w).pwr pts = true ∧ s.ns < field b 16 8) ∧
    (let s := envelopeState 2
     Claims.Runs s 0 (descAt0 s) 0x21 0 ∧ (okBytes (readRecord s 16)).map (fun h => field h 0 1) = some 2) := by
  unfold Claims.Runs
  refine ⟨?_, ?_⟩ <;> decide +kernel

theorem test_cap_outside_range_kept : (ran (exec (.pcapWrite 0 2401) (withPower id 0))).pwr.cap = 2400 ∧
    (ran (exec (.pcapWrite 0 1000) (withPower id 0))).pwr.cap = 1000 := by decide +kernel

theorem witness_HeatAndCoolant :
    (let s := withPower (fun p => { p with phase := .run }) 0
     s.pins.vaux = true ∧ (tget s.pwr.spots 227 {}).dis = false ∧ ((109 : Int) - 104).natAbs ≤ 5 ∧ max (109 : Int) 104 < 110 ∧ 110 ≤ max (110 : Int) (-40) ∧
      s.pwr.phase ≠ .off ∧ s.pwr.phase ≠ .tripped) ∧
    (let s := withPower (fun p => { p with phase := .floor, dieTemp := [(17, 100)], floorTemp := 104 }) 2400000000
     s.pwr.phase = .floor ∧ s.pwr.floorAt + 2400000000 ≤ s.clk ∧ hottestDie s > s.pwr.floorTemp - 5) ∧
    (let x : Throttle := { source := 17 }
     let s := withPower (fun p => { p with phase := .throttle, dieTemp := [(17, 100)], throttles := [x], mem := 40, own := 64 }) 1200000
     let i := (throttleShares x.source).1
     s.pwr.throttles = [x] ∧ x.lastAt + 1200000 ≤ s.clk ∧ sourceTemp s x.source ≥ 100 ∧ shareFloor s.pwr i < min (x.ceil i) (shareOf s.pwr i)) ∧
    (let x : Throttle := { source := 17, comp := 63 }
     let s := withPower (fun p => { p with phase := .throttle, throttles := [x] }) 12000000
     s.pwr.throttles = [x] ∧ coolerThan s 97 = true ∧ s.pwr.recoverAt + 12000000 ≤ s.clk ∧
      (shareOrder s.pwr).find? (fun i => decide (x.ceil i < 64)) = some 2 ∧ sourceTemp s x.source < 100) ∧
    (let s := withPower (fun p => { p with phase := .run }) 120000000
     s.pins.vaux = true ∧ s.pwr.coolLost = false ∧ s.pwr.coolAt + 120000000 ≤ s.clk) := by
  refine ⟨?_, ?_, ?_, ?_, ?_⟩ <;> decide +kernel

/-- With the coolant lost the ceiling follows the cap in force, not the cap when it was lost (R410). -/
theorem test_cool_ceiling_follows_cap :
    let s := ran (exec .coolantReadTimeout (withPower (fun p => { p with phase := .run }) 120000000))
    coolCeil s.pwr = some 1680000000 ∧ coolCeil (ran (exec (.pcapWrite 0 1000) s)).pwr = some 700000000 := by decide +kernel

theorem test_stack_stops_above_105 : ((ran (exec (.hbmTempRead 23 105) {})).stack 23).stop = false ∧
    ((ran (exec (.hbmTempRead 23 106) {})).stack 23).stop = true := by decide +kernel

/-- The time base in a phase, its upstream port 2. -/
def timed (ph : TimePhase) : State :=
  let s := fabric {}
  { s with time := { s.time with phase := ph, upstream := some 2 }, clk := 1200000 }

theorem witness_TimeBaseRules :
    (let s := timed .locked
     s.time.phase = .locked ∧ (elect s).isNone = true) ∧
    (let s0 := timed .holdover
     let s := { s0 with time := { s0.time with upstream := none } }
     s.time.phase = .holdover ∧ s.time.upstream = none ∧ s.time.holdAt + 1200000 ≤ s.clk) ∧
    Claims.HostUp (hostUp {}) 0 ∧
    (let s := timed .acquiring
     let x : TimeSample := { tx := 0, echo := 0, rxAt := 100 * 2 ^ 17, arrived := 0 }
     s.time.upstream = some 2 ∧ s.time.selfLead = false ∧ s.time.phase = .acquiring ∧ (thetaOf x (tget s.time.asym 2 0)).natAbs = 100 * 125 * 2 ^ 17) ∧
    (let s0 := fabric {}
     let s := { s0 with time := { s0.time with cand := true } }
     (elect s).map (fun x => (x.leader, x.dist)) = some (5, 0) ∧ s.fab.devValid = true) ∧
    (let s := portIs (fun p => { p with card := some aCard, sample := { valid := true, leader := 3, leaderValid := true } })
     (portChoice s 2).map (fun x => (x.leader, x.dist)) = some (3, 1) ∧ (elect s).map (·.leader) = some 3) := by
  unfold Claims.HostUp
  refine ⟨?_, ?_, ?_, ?_, ?_, ?_⟩ <;> decide +kernel

/-! ### Security -/

/-- The service die is awake with its clock; nothing has been verified and the flash is erased. -/
def awake : State := { ({} : State) with pins := { vaux := true }, time := { pllLocked := true } }

/-- The service die with its security state as given, P0 up. -/
def withSec (f : Security → Security) : State := let s := hostUp awake; { s with sec := f s.sec }

theorem witness_BootAndFlash :
    bootDue awake = true ∧
    (trySlot awake true false = .failed 4 ∧ trySlot (noteReason awake false 4) true true = .failed 4 ∧ awake.log.fcode = 0) ∧
    bootDue State.reset = false ∧
    (Claims.Primary (withSec id) 0 ∧ (withSec (fun c => { c with advancing := true, floorAhead := true })).sec.advancing = true ∧
      (withSec (fun c => { c with advancing := true, floorAhead := true })).sec.floorAhead = true) ∧
    (let s := withSec (fun c => { c with floor := 3, svn := 5, bsvn := 4 })
     Claims.Primary s 0 ∧ s.sec.advancing = false ∧ s.sec.floor.toNat ≤ bits (4 : W32).toNat 30 0 ∧ bits (4 : W32).toNat 30 0 ≤ s.sec.svn.toNat ∧
      bits (4 : W32).toNat 30 0 ≤ s.sec.bsvn.toNat) ∧
    (let s := withSec (fun c => { c with fAddr := 0x4020000 - 4096 })
     s.sec.fOp = .none ∧ flashGuarded s 0x401F000 4096 = false ∧ flashGuarded s (0x401F000 / 65536 * 65536) 65536 = true) ∧
    (∀ o, o ∈ [FlashOp.erase, .program, .read] → let s := withSec (fun c => { c with fOp := o, fOpAddr := 0x2000000, flash := [(0x2000000, 0x0F)] })
     Claims.Primary s 0 ∧ s.sec.fOp ≠ .none ∧ s.sec.advancing = false ∧ Mem.wf erasedByte s.sec.flash = true) := by
  unfold Claims.Primary
  refine ⟨?_, ?_, ?_, ?_, ?_, ?_, ?_⟩ <;> decide +kernel

/-- A manifest of version 6 whose images are 4 KiB apart from the end of the first 4 KiB. -/
def aManifest : Bytes :=
  layout 512 ([(0, 1, 1), (1, 1, 6), (4, 4, 9)] ++ (List.range 6).flatMap (fun i =>
    [(16 + 48 * i, 1, i + 1), (24 + 48 * i, 4, 4096 * (i + 1)), (28 + 48 * i, 4, 4096)]))

/-- A manifest with a TYPE twice, one without a TYPE, and one whose image starts below the first 4 KiB are malformed. -/
theorem test_manifest_checks :
    manifestOk aManifest = true ∧ manifestOk (aManifest.set 16 2) = false ∧ manifestOk (aManifest.set 25 0) = false ∧
    manifestOk (aManifest.set 2 1) = false ∧ field (entryOfType aManifest 6) 8 4 = 24576 := by
  refine ⟨?_, ?_, ?_, ?_, ?_⟩ <;> decide +kernel

theorem witness_AttestationAndUnlock :
    (∀ n, n ∈ [0, 3] → let s := withSec (fun c => { c with attests := List.replicate n ⟨.management .smbus, []⟩ })
     Claims.Primary s 0 ∧ s.sec.attBusy = false ∧ s.sec.attests.length < 4 ∧ managed s .smbus = true ∧ managed s (.vdm 0) = true) ∧
    (let s := withSec (fun c => { c with attests := List.replicate 4 ⟨.management .smbus, []⟩ })
     Claims.Primary s 0 ∧ 4 ≤ s.sec.attests.length) ∧
    (let s := withSec (fun c => { c with attBusy := true, attests := [⟨.host 0 0x1000, []⟩] })
     Claims.Primary s 0 ∧ s.sec.attBusy = true ∧ s.sec.attests = [⟨.host 0 0x1000, []⟩] ∧ s.pins.vaux = true ∧ s.pins.resetLow = false ∧ (s.hport 0).up = true) ∧
    (∀ port, port < 2 → let s := withSec (fun c => { c with attests := [⟨.management (.vdm port), []⟩] })
     s.sec.attests = [⟨.management (.vdm port), []⟩] ∧ s.pins.vaux = true ∧ s.pins.resetLow = false ∧ managed s (.vdm port) = (port == 0)) ∧
    (managed awake .smbus = true ∧ managed State.reset .smbus = false ∧ (awake.hport 1).up = false) ∧
    (let s := { awake with clk := 7 }
     bits (10 : W32).toNat 3 0 = 10 ∧ s.sec.extAt ≠ some s.clk ∧ { s.sec with extAt := some 7 }.extAt = some s.clk) ∧
    (let r : LogRecord := { cls := 3, code := 0x0802, lseq := 3 }
     let s := { awake with log := { awake.log with trip := some r } }
     managed s .smbus = true ∧ s.log.trip = some r ∧ r.lseq = 3) ∧
    (let s := note awake 0x0901 0 unitService
     managed s .smbus = true ∧ tripRecord s 0 = none ∧ (s.log.early.find? (fun r => r.lseq == 0)).map (·.code) = some 0x0901) := by
  unfold Claims.Primary
  refine ⟨?_, ?_, ?_, ?_, ?_, ?_, ?_, ?_⟩ <;> decide +kernel

/-- The host may extend MR10 to MR15 alone (R457). -/
theorem test_mr9_not_extended : (ran (exec (.smrxGo 0 9) (withSec id))).sec.mrIndex = (withSec id).sec.mrIndex ∧
    (ran (exec (.smrxGo 0 9) (withSec id))).log.next = 1 := by decide +kernel

/-! ### Host attachment and registers -/

/-- P0 up, the part powered and trained. -/
def hostPart : State := hostUp (powered {})

theorem witness_HostPorts :
    (let a := windowOff hostPart 0 0
     Claims.HostUp hostPart 0 ∧ beyondBar hostPart 0 0 4 = false ∧ beyondHbm a 4 = false ∧ refusal hostPart .engine .read none 0 a 4 = 0 ∧ unitReady hostPart 0 a 4 = true ∧
      hostPart.hbm.marks = [] ∧ hostPart.cmd.redirects = []) ∧
    (let s := hostPart.setHport 0 { hostPart.hport 0 with win := 1535 }
     Claims.HostUp s 0 ∧ beyondHbm (windowOff s 0 (2 ^ 30 - 4)) 4 = false ∧ beyondBar s 0 (2 ^ 30 - 4) 5 = true) ∧
    (let s := hostPart.setHport 0 { hostPart.hport 0 with win := 1535, cfg := [(0x160, 11 * 2 ^ 8)] }
     Claims.HostUp s 0 ∧ beyondBar s 0 (2 ^ 30) 4 = false ∧ beyondHbm (windowOff s 0 (2 ^ 30)) 4 = true) ∧
    (let s := { hostPart with log := { hostPart.log with en := true, region := 0 } }
     Claims.HostUp s 0 ∧ beyondBar s 0 0 4 = false ∧ beyondHbm (windowOff s 0 0) 4 = false ∧ (refusal s .engine .write none 0 (windowOff s 0 0) 4 ≠ 0 ∨
       refusal s .engine .read none 0 (windowOff s 0 0) 4 = 0)) ∧
    (let a := windowOff hostPart 0 252
     beyondBar hostPart 0 252 4 = false ∧ beyondHbm a 4 = false ∧ refusal hostPart .engine .write none 0 a 4 = 0 ∧ unitReady hostPart 0 a 4 = true ∧ a % 256 + 4 ≤ 256 ∧
      Mem.wf zeroByte hostPart.hbm.mem = true) ∧
    (let s := powered {}
     hostPowered s 1 = true ∧ (s.hport 1).up = false ∧ linkOk 6 8 = true ∧ trainingEnded s = true) ∧
    (let s := setVector { hostPart with clk := 12000 } 0 255 { timing := true, count := 1, firstAt := 0 }
     (vectorOf s 0 255).timing = true ∧ 0 < (vectorOf s 0 255).count ∧ (vectorOf s 0 255).firstAt + (s.hport 0).modTime.toNat * 1200 ≤ s.clk ∧
      (vectorOf s 0 255).masked = true) ∧
    (let s := setVector hostPart 0 0 { masked := true, pba := true }
     Claims.HostUp s 0 ∧ (vectorOf s 0 0).pba = true) ∧
    ((cfgRow 0).open_ = 0 ∧ (cfgRow 0x2C).open_ = 0 ∧ (cfgRow 0x44).open_ = 0 ∧ (hostPart.hport 0).cfg = []) ∧
    (bits (BitVec.ofNat 32 (21 * 2 ^ 8)).toNat 13 8 = 21 ∧ bit (BitVec.ofNat 32 (2 ^ 15)).toNat 15 = true ∧ powerState (hostPart.hport 0) = 0) ∧
    (let s := hostPart.setHport 0 { hostPart.hport 0 with cfg := [(0x44, 3)] }
     Claims.HostUp s 0 ∧ powerState (s.hport 0) = 3) := by
  unfold Claims.HostUp
  refine ⟨?_, ?_, ?_, ?_, ?_, ?_, ?_, ?_, ?_, ?_, ?_⟩ <;> decide +kernel

/-- A vector's message goes to the address and with the data that BAR4's table holds (R467, R471). -/
theorem test_vector_entry :
    let put (off : Nat) (v : W32) (s : State) : State := ran (exec (.registerWrite 0 off v .bar4) s)
    let s := put 0x38 0xCAFE (put 0x34 1 (put 0x30 0x1002 (setVector hostPart 0 3 { masked := true, pba := true })))
    (ran (exec (.msixVectorUnmask 0 3) s)).out.head? = some (.msix 0 3 0x100001000 0xCAFE) ∧
      (ran (exec (.rcRegisterRead 0 0x1000 .bar4) s)).out.head? = some (.spaceRead 0 .bar4 0x1000 8) := by
  decide +kernel

/-- R464, R465: a return from D3hot resets the port's configuration space. -/
theorem test_power_state :
    let put (v : W32) (s : State) : State := ran (exec (.registerWrite 0 0x44 v .config) s)
    let s := put 3 (ran (exec (.registerWrite 0 0x160 (BitVec.ofNat 32 (12 * 2 ^ 8)) .config) hostPart))
    powerState (s.hport 0) = 3 ∧ bar2Size (s.hport 0) = 2 ^ 32 ∧ bar2Size ((put 0 s).hport 0) = 2 ^ 30 := by
  decide +kernel

theorem witness_HostRegisters :
    (let v := (BitVec.ofNat 32 (1 + 2 * 1471 + 2 ^ 16 * 24))
     let s := { hostPart with log := { hostPart.log with en := false } }
     Claims.Primary s 0 ∧ bits v.toNat 11 1 = 1471 ∧ bits v.toNat 20 16 = 24 ∧ s.log.en = false ∧
      inPool s (1471 * 2 ^ 30) (64 * 2 ^ 24) = false) ∧
    (bits (BitVec.ofNat 32 (4 * 6)).toNat 6 2 = 6 ∧ bits (BitVec.ofNat 32 (4 * 16)).toNat 6 2 = 16 ∧ hostPart.log.mirEn = false ∧
      bits (BitVec.ofNat 32 (4 * 5)).toNat 6 2 = 5 ∧ bits (BitVec.ofNat 32 (4 * 17)).toNat 6 2 = 17) ∧
    (let s0 := note hostPart 0x0901 0 unitService
     let s := { s0 with log := { s0.log with en := true, log2n := 16 } }
     s.log.en = true ∧ s.log.ringUp = false ∧ hbmTrained s = true ∧ s.log.early.length = 1 ∧ s.log.copied = 0 ∧ Mem.wf zeroByte s.hbm.mem = true ∧ s.hbm.commit = none ∧
      retiredRun s (s.log.region.toNat * 2 ^ 30) 64 = false ∧ offRun s (s.log.region.toNat * 2 ^ 30) 64 = false ∧
      (s.log.early.map (fun r => r.lseq.toNat % 2 ^ 16)) = [0]) ∧
    (let f : Raise := { code := 0x0901, unit := unitService }
     let g : Raise := { code := 0x0205, unit := unitTile 5 }
     thisCycle awake = [] ∧ awake.log.ringUp = false ∧ awake.log.early = [] ∧ suppressed awake f = false ∧ suppressed (record awake f) g = false ∧
      outranks (recordOf awake g) (recordOf awake f) = true) ∧
    (Claims.HostUp hostPart 0 ∧ 0x10054 < 2 ^ 20 ∧ 0x10054 % 4 = 0 ∧ 0x10055 % 4 ≠ 0) ∧
    (let s := { hostPart with host := { hostPart.host with primary := true } }
     Claims.HostUp s 0 ∧ 0 ≠ b2n s.host.primary) := by
  unfold Claims.Primary Claims.HostUp
  refine ⟨?_, ?_, ?_, ?_, ?_, ?_⟩ <;> decide +kernel

/-- A read of a read-clear count returns and takes away what stood before this control cycle (R6, R476). -/
theorem test_read_clears_count :
    let s := { hostPart with pwr := { hostPart.pwr with clamps := 7 }, counts := [(0x10054, 5)] }
    let t := ran (exec (.rcRegisterRead 0 0x10054 .bar0) s)
    t.pwr.clamps = 2 ∧ t.out.head? = some (.barRead 0 0x10054 5) := by
  decide +kernel

/-- Two records of one control cycle stand by class, not in the order raised (R437). -/
theorem test_cycle_order :
    let s := record (record awake { code := 0x0901, unit := unitService }) { code := 0x0205, unit := unitTile 5 }
    s.log.early.map (fun r => (r.code, r.lseq)) = [(0x0205, 0), (0x0901, 1)] := by decide +kernel

/-! ### Pins and power-up -/

/-- Enabling goes on with `n` domains of the order done. -/
def enablingAt (n : Nat) (on : List Nat) : State :=
  let s := withSec (fun c => { c with verified := true })
  { s with pins := { s.pins with powerOk := true, straps := 3 }, pwr := { s.pwr with phase := .enabling, upDone := n, domains := on } }

theorem witness_PinsAndPowerUp :
    (State.reset.pins.vaux = false ∧ State.reset.pins.powerOk = false) ∧
    (awake.pins.vaux = true ∧ awake.sec.fOp = .none ∧ awake.sec.advancing = false ∧ awake.pins.resetLow = false ∧ awake.time.pllLocked = true) ∧
    (let s := { awake with time := {} }
     s.pins.vaux = true ∧ s.pins.resetLow = false ∧ s.time.pllLocked = false ∧ s.time.clockLost = false ∧ s.log.fcode = 0) ∧
    (let s := { enablingAt 0 [] with pins := { (enablingAt 0 []).pins with powerOk := false }, pwr := { phase := .off } }
     s.pins.powerOk = false ∧ mayEnable s = true ∧ s.pwr.phase = .off) ∧
    (let s := enablingAt 3 [8, 17, 26]
     s.pins.powerOk = true ∧ s.pwr.phase ≠ .off ∧ s.pwr.phase ≠ .tripped) ∧
    (let s := enablingAt 12 []
     s.pwr.level * 1000 ≤ s.pwr.upCeil ∧ (powerOrder s.pins.straps)[s.pwr.upDone]? = some 108 ∧ mayEnable s = true ∧ s.pins.powerOk = true ∧ s.pwr.phase = .enabling) ∧
    (let s := enablingAt 36 []
     s.pwr.level * 1000 ≤ s.pwr.upCeil ∧ (powerOrder s.pins.straps)[s.pwr.upDone]? = some 0 ∧ s.pwr.rowOff = 0 ∧ 11 ∈ rowTiles 0 ∧ widthFor 0 (tget ([] : Table (BitVec 260)) 11 0) ≠ 0) ∧
    (let s := enablingAt 36 [131]
     23 < 24 ∧ 108 + 23 ∈ s.pwr.domains ∧ (s.stack 23).trained = false ∧ (s.stack 23).failed = false ∧ s.log.trip = none ∧ s.log.fcode = 0) ∧
    (let s := { awake with pins := { awake.pins with resetLow := true } }
     s.pins.vaux = true ∧ s.pins.resetLow = true) := by
  refine ⟨?_, ?_, ?_, ?_, ?_, ?_, ?_, ?_, ?_⟩ <;> decide +kernel

/-- Row 0 of a band holds the band's first twelve tiles, and the last domain of the order is the host port of strap 0. -/
theorem test_power_order : (powerOrder 3).getLast? = some 154 ∧ (powerOrder 3).length = 140 ∧ (powerOrder 0).head? = some 8 := by
  decide +kernel

/-! ### The whole machine -/

theorem witness_StepRunsFront : State.reset.pending = [] ∧ went (step State.reset) = true := by decide +kernel

theorem witness_StepKeepsCanonical :
    Canonical State.reset = true ∧ went (step State.reset) = true ∧
    (let s := { threadAt (formB 0x38 1 0 0) with pending := [Instr.stl1 0 0] }
     Canonical s = true ∧ went (step s) = true ∧ memByte zeroByte ((ran (step s)).tile 0).mem 0 = 0xFF) := by
  refine ⟨?_, ?_, ?_⟩ <;> decide +kernel

/-! ### The rules stated whole -/

theorem witness_TimeWritesGuarded :
    (Claims.Primary hostPart 0 ∧ hostPart.job.locked = false ∧ hostPart.time.phase = .free) ∧
    (let s := { hostPart with job := { hostPart.job with locked := true }, time := { hostPart.time with phase := .locked } }
     Claims.Primary s 0 ∧ s.job.locked = true ∧ s.time.phase ≠ .free) := by
  unfold Claims.Primary
  refine ⟨?_, ?_⟩ <;> decide +kernel

/-- An INFO fault. -/
def anInfo : Raise := { code := 0x0901, unit := unitService }

theorem witness_LogSuppressesRepeats :
    (classOf anInfo.code ≤ 1 ∧ suppressed awake anInfo = false) ∧
    (let s := record awake anInfo
     suppressOf s anInfo = some ⟨0x0901, unitService, 0, 0, 0⟩ ∧ s.clk < 0 + 1200000) ∧
    (let s := { record awake anInfo with clk := 1200000 }
     suppressOf s anInfo = some ⟨0x0901, unitService, 0, 0, 0⟩ ∧ 0 + 1200000 ≤ s.clk ∧ s.log.ringUp = false ∧ s.log.early.length < 256) ∧
    2 ≤ classOf 0x0205 := by
  refine ⟨?_, ?_, ?_, ?_⟩ <;> decide +kernel

/-- The third of three equal CORRECTED records in a millisecond is counted, and the next carries 2 in SUPPR (R443). -/
theorem test_suppr_counts :
    let f : Raise := { code := 0x0202, unit := unitTile 5 }
    let s := record (record (record awake f) f) f
    s.log.next = 1 ∧ (record { s with clk := 1200000 } f).log.early.map (·.suppr) = [0, 2] := by decide +kernel

/-! ### Well-formedness -/

theorem witness_WellFormedCommandsRun : (Instr.nop 1151 2047).wf = true ∧ (Instr.hostReadFailure (.thread 1151 2047)).wf = true := by decide

/-- The highest unit of each kind exists. -/
theorem test_wf_highest :
    ([.hbmTrainingComplete 23 true [] [], .mload 1151, .nop 1151 2047, .launch 31, .bankRetentionEnter 1151 5, .tileRowPowerOn 107,
      .hbmRefresh 767, .mretWrite 1 4095 0, .pctlEnWrite 1 15 0, .linkTrained 15 0xFF, .rhiWrite 1 4094 0, .recallComplete 793343,
      .fcwhiWrite 1 63 0, .bucketFire 255, .pipePackSend 255, .rctlEnWrite 1 31 0, .captureComplete 15, .msixModerationTimer 1 255,
      .replyCacheExpire 3 [], .requestRetryExpire 16777215] : List Instr).all Instr.wf = true := by decide

/-- One above the highest unit of each kind: no such command. -/
theorem test_wf_refuses :
    ([.hbmTrainingComplete 24 true [] [], .mload 1152, .nop 1152 0, .nop 0 2048, .launch 32, .bankRetentionEnter 0 6, .bankRetentionEnter 1152 0,
      .tileRowPowerOn 108, .edgeBeatReceive 24 true, .hbmRefresh 768, .mretWrite 2 0 0, .mretWrite 0 4096 0, .pctlEnWrite 0 16 0, .linkTrained 16 0,
      .rhiWrite 0 4095 0, .ackSend 4095 0, .streamRetryExpire 4095 0, .requestRetryExpire 16777216, .replyCacheExpire 4 [], .invResend 793344 0,
      .invResend 0 4095, .recallComplete 793344, .fcwhiWrite 0 64 0, .bucketFire 256, .contributionFold 256 0, .contributionFold 0 4095,
      .pipePackSend 256, .rctlEnWrite 0 32 0, .rctlEnWrite 2 0 0, .scommitResend 0 4095, .captureComplete 16, .nvmeCommandComplete 16 0 0 [],
      .nvmeCommandComplete 0 4 0 [], .sensorRead 228 0 0, .msixModerationTimer 2 0, .msixModerationTimer 0 256] : List Instr).all (fun i => !i.wf) = true := by
  decide

theorem test_wf_refuses_names :
    ([.fenceComplete (.thread 1152 0), .fenceComplete (.thread 0 2048), .fenceTimeoutExpire (.ring 32), .copyFenceTimeout (.engine 1152 0),
      .copyFenceTimeout (.ring 32), .hostReadFailure (.doorbell 2), .hostReadFailure (.fetch 32), .hostReadFailure (.descriptor 32),
      .hostReadFailure (.thread 1152 0), .hostReadFailure (.thread 0 2048), .hostReadFailure (.copy 1152 0),
      .flitReceive 0 [] [], .nvmeCommandComplete 0 0 0 [.read 0 4097], .nvmeCommandComplete 0 0 0 [.write 0 (zeros 4097)],
      .getLog 0 (.vdm 2), .getSensors (.vdm 2), .getCert 0 (.vdm 2), .attest [] (.vdm 2), .getChal (.vdm 2), .unlock [] (.vdm 2), .getBoot (.vdm 2),
      .mctpControlMessage 0 0 (.vdm 2)] : List Instr).all (fun i => !i.wf) = true := by
  decide +kernel

/-- A command that names no unit of the part is the fault of that name. -/
theorem test_no_such_unit : exec (.mload 1152) State.reset = .fault .noSuchUnit ∧ exec (.sensorRead 228 0 0) State.reset = .fault .noSuchUnit := ⟨rfl, rfl⟩

end Sys2Proof.Tests
end

section
/-! What a record keeps beside `OnlyLog`: all that was sent before it, the host ports but for their vectors and their
counts of messages, and the mirror's switch (R440 to R444, R473). -/

namespace Sys2Proof.Machine

open Sys2Proof.Safety

/-! ### Events of a port's vectors (R473) -/

/-- Every host port is as before but for its vectors and its count of messages. -/
def SamePorts (s t : State) : Prop :=
  ∀ p, t.hport p = { s.hport p with vectors := (t.hport p).vectors, sent := (t.hport p).sent }

theorem samePorts_of_host {s t : State} (h : t.host = s.host) : SamePorts s t := by
  intro p
  have e : t.hport p = s.hport p := by unfold State.hport; rw [h]
  rw [e]

theorem samePorts_trans {s t u : State} (h : SamePorts s t) (k : SamePorts t u) : SamePorts s u := by
  intro p
  rw [k p, h p]

/-- Only the vectors and the count of one port changed, and messages went out. -/
structure PortEvent (p : Nat) (s t : State) : Prop where
  frame  : t = { s with host := t.host, out := t.out }
  others : ∀ q, q ≠ p → t.hport q = s.hport q
  ports  : SamePorts s t
  sent   : s.out <:+ t.out

theorem portEvent_refl (p : Nat) (s : State) : PortEvent p s s :=
  ⟨rfl, fun _ _ => rfl, samePorts_of_host rfl, List.suffix_refl _⟩

theorem PortEvent.trans {p : Nat} {s t u : State} (h : PortEvent p s t) (k : PortEvent p t u) : PortEvent p s u :=
  ⟨by rw [k.frame, h.frame], fun q hq => (k.others q hq).trans (h.others q hq), samePorts_trans h.ports k.ports,
    h.sent.trans k.sent⟩

/-- A port whose vectors and count alone are replaced. -/
theorem portEvent_setHport (s : State) (p : Nat) (vs : Table Vector256) (n : W32) :
    PortEvent p s (s.setHport p { s.hport p with vectors := vs, sent := n }) := by
  refine ⟨rfl, fun q hq => State.hport_setHport_ne s _ hq, fun q => ?_, List.suffix_refl _⟩
  by_cases h : q = p
  · subst h
    simp
  · simp [h]

theorem portEvent_emit (s : State) (p : Nat) (o : Out) : PortEvent p s (s.emit o) :=
  ⟨rfl, fun _ _ => rfl, samePorts_of_host rfl, List.suffix_cons _ _⟩

theorem portEvent_setVector (s : State) (p v : Nat) (x : Vector256) : PortEvent p s (setVector s p v x) :=
  portEvent_setHport s p _ _

theorem portEvent_sendMessage (s : State) (p v : Nat) : PortEvent p s (sendMessage s p v) :=
  (portEvent_setHport s p _ _).trans (portEvent_emit _ p _)

theorem portEvent_vectorFire (s : State) (p v : Nat) : PortEvent p s (vectorFire s p v) := by
  unfold vectorFire
  dsimp only
  split
  · exact portEvent_setVector s p v _
  · exact (portEvent_setVector s p v _).trans (portEvent_sendMessage _ p v)

theorem portEvent_vectorEvent (s : State) (p v : Nat) : PortEvent p s (vectorEvent s p v) := by
  unfold vectorEvent
  dsimp only
  split
  · exact (portEvent_setVector s p v _).trans (portEvent_vectorFire _ p v)
  · exact portEvent_setVector s p v _

@[simp] theorem vectorOf_setVector_self (s : State) (p v : Nat) (x : Vector256) : vectorOf (setVector s p v x) p v = x := by
  simp [vectorOf, setVector]

@[simp] theorem vectorOf_setVector_ne (s : State) (p : Nat) {v w : Nat} (x : Vector256) (h : w ≠ v) :
    vectorOf (setVector s p v x) p w = vectorOf s p w := by
  simp [vectorOf, setVector, h]

/-- Sending a message changes no vector. -/
@[simp] theorem vectorOf_sendMessage (s : State) (p v w : Nat) : vectorOf (sendMessage s p v) p w = vectorOf s p w := by
  simp [vectorOf, sendMessage]

/-! ### A record (R440 to R444) -/

/-- What storing a record changes: HBM and the log, and not the mirror's switch. -/
def OnlyStored (s t : State) : Prop := t = { s with hbm := t.hbm, log := t.log } ∧ t.log.mirEn = s.log.mirEn

theorem OnlyStored.trans {s t u : State} (h : OnlyStored s t) (k : OnlyStored t u) : OnlyStored s u := by
  obtain ⟨h, hm⟩ := h
  obtain ⟨k, km⟩ := k
  exact ⟨by rw [k, h], km.trans hm⟩

theorem onlyStored_foldl {α : Type} (f : State → α → State) (h : ∀ u x, OnlyStored u (f u x)) (l : List α) (s : State) :
    OnlyStored s (l.foldl f s) := by
  induction l generalizing s with
  | nil => exact ⟨rfl, rfl⟩
  | cons x r ih => exact (h s x).trans (ih _)

/-- A record that lands in HBM changes nothing else. -/
theorem postRecord_frame (s : State) (off : Nat) (b : Bytes) : postRecord s off b = { s with hbm := (postRecord s off b).hbm } := by
  unfold postRecord
  dsimp only
  split
  · rfl
  · unfold holdWrite granuleWrite
    dsimp only
    repeat' split
    all_goals rfl

@[simp] theorem postRecord_log (s : State) (off : Nat) (b : Bytes) : (postRecord s off b).log = s.log := by rw [postRecord_frame]

theorem postRecord_stored (s : State) (off : Nat) (b : Bytes) : OnlyStored s (postRecord s off b) :=
  ⟨by rw [postRecord_log]; exact postRecord_frame s off b, by rw [postRecord_log]⟩

theorem writeRing_stored (s : State) (r : LogRecord) : OnlyStored s (writeRing s r) :=
  (postRecord_stored s _ _).trans ⟨rfl, by simp [writeRing]⟩

theorem appendRecord_stored (s : State) (r : LogRecord) : OnlyStored s (appendRecord s r) := by
  unfold appendRecord
  dsimp only
  split
  · exact OnlyStored.trans (t := { s with log := { s.log with next := s.log.next + 1, unmirrored := s.log.unmirrored ++ [r.lseq] } })
      ⟨rfl, rfl⟩ (writeRing_stored _ _)
  · split <;> exact ⟨rfl, rfl⟩

theorem replaceRecord_stored (s : State) (r : LogRecord) : OnlyStored s (replaceRecord s r) := by
  unfold replaceRecord
  dsimp only
  split
  · exact OnlyStored.trans (t := { s with log := { s.log with early := s.log.early.map (fun q => if q.lseq = r.lseq then r else q) } })
      ⟨rfl, rfl⟩ (postRecord_stored _ _ _)
  · exact ⟨rfl, rfl⟩

theorem storeRecord_stored (s : State) (r : LogRecord) : OnlyStored s (storeRecord s r) := by
  have h := onlyStored_foldl replaceRecord replaceRecord_stored (movedBy s r).dropLast s
  unfold storeRecord
  dsimp only
  split
  · exact (h.trans (appendRecord_stored _ _)).trans ⟨rfl, rfl⟩
  · exact h.trans ⟨rfl, rfl⟩

/-- Mirroring records sends them, and of the log changes only which have never been mirrored. -/
structure Mirrored (s t : State) : Prop where
  frame : t = { s with log := { s.log with unmirrored := t.log.unmirrored }, out := t.out }
  sent  : s.out <:+ t.out

theorem mirrored_refl (s : State) : Mirrored s s := ⟨rfl, List.suffix_refl _⟩

theorem mirrored_foldl (l : List LogRecord) (s : State) : Mirrored s (l.foldl mirrorOne s) := by
  induction l generalizing s with
  | nil => exact mirrored_refl s
  | cons r l ih =>
    obtain ⟨h, k⟩ := ih (mirrorOne s r)
    exact ⟨h, (List.suffix_cons _ _).trans k⟩

theorem mirrorEarly_mirrored (s : State) : Mirrored s (mirrorEarly s) := by
  unfold mirrorEarly
  split
  · exact mirrored_foldl _ s
  · exact mirrored_refl s

/-- What recording a fault keeps, whatever its class. -/
structure RecordKeeps (s t : State) : Prop where
  sent  : s.out <:+ t.out
  ports : SamePorts s t
  mirEn : t.log.mirEn = s.log.mirEn

theorem RecordKeeps.trans {s t u : State} (h : RecordKeeps s t) (k : RecordKeeps t u) : RecordKeeps s u :=
  ⟨h.sent.trans k.sent, samePorts_trans h.ports k.ports, k.mirEn.trans h.mirEn⟩

theorem recordKeeps_refl (s : State) : RecordKeeps s s := ⟨List.suffix_refl _, samePorts_of_host rfl, rfl⟩

theorem PortEvent.keeps {p : Nat} {s t : State} (h : PortEvent p s t) : RecordKeeps s t :=
  ⟨h.sent, h.ports, by rw [h.frame]⟩

/-- One port's event of a record, when the port asks for the class. -/
theorem errorEvent_portEvent (s : State) (cls p : Nat) : PortEvent p s
    (if (s.hport p).errEn && decide (cls ≥ (s.hport p).errCls.toNat) then vectorEvent s p (s.hport p).errV.toNat else s) := by
  split
  · exact portEvent_vectorEvent _ _ _
  · exact portEvent_refl p s

theorem errorEvents_events (s : State) (cls : Nat) : ∃ t, PortEvent 0 s t ∧ PortEvent 1 t (errorEvents s cls) :=
  ⟨_, errorEvent_portEvent s cls 0, errorEvent_portEvent _ cls 1⟩

theorem errorEvents_keeps (s : State) (cls : Nat) : RecordKeeps s (errorEvents s cls) := by
  obtain ⟨t, h, k⟩ := errorEvents_events s cls
  exact h.keeps.trans k.keeps

theorem errorEvents_frame (s : State) (cls : Nat) :
    errorEvents s cls = { s with host := (errorEvents s cls).host, out := (errorEvents s cls).out } := by
  obtain ⟨t, h, k⟩ := errorEvents_events s cls
  generalize errorEvents s cls = u at k ⊢
  rw [k.frame, h.frame]

/-- A port that asks for no error events is left alone by them. -/
theorem errorEvents_hport_of_off (s : State) (cls p : Nat) (h : (s.hport p).errEn = false) :
    (errorEvents s cls).hport p = s.hport p := by
  have one : ∀ (t : State) (q : Nat), (t.hport p).errEn = false →
      State.hport (if (t.hport q).errEn && decide (cls ≥ (t.hport q).errCls.toNat) then vectorEvent t q (t.hport q).errV.toNat else t) p =
        t.hport p := by
    intro t q ht
    by_cases e : p = q
    · subst e
      simp [ht]
    · exact (errorEvent_portEvent t cls q).others p e
  simp only [errorEvents, List.foldl_cons, List.foldl_nil]
  rw [one _ 1 (by rw [one s 0 h]; exact h), one s 0 h]

/-- The state in which a record is stored: its combination's suppression starts again (R443). -/
def storedRecord (s : State) (f : Raise) : State :=
  storeRecord { s with log := { s.log with suppress := restartSuppress s f } } (recordOf s f)

theorem storedRecord_frame (s : State) (f : Raise) : OnlyStored s (storedRecord s f) :=
  OnlyStored.trans (t := { s with log := { s.log with suppress := restartSuppress s f } }) ⟨rfl, rfl⟩ (storeRecord_stored _ _)

/-- A record that is not suppressed is stored, mirrored while the mirror takes records, and makes the ports' events. -/
theorem record_of_not_suppressed {s : State} {f : Raise} (h : suppressed s f = false) :
    ∃ u, Mirrored (storedRecord s f) u ∧ record s f = errorEvents u (recordOf s f).cls.toNat := by
  unfold record
  rw [if_neg (by simp [h])]
  dsimp only
  split
  · exact ⟨_, mirrored_foldl _ _, rfl⟩
  · exact ⟨_, mirrored_refl _, rfl⟩

theorem record_of_suppressed {s : State} {f : Raise} (h : suppressed s f = true) : record s f = countSuppressed s f := if_pos h

theorem record_keeps (s : State) (f : Raise) : RecordKeeps s (record s f) := by
  cases h : suppressed s f with
  | true =>
    rw [record_of_suppressed h]
    exact ⟨List.suffix_refl _, samePorts_of_host rfl, rfl⟩
  | false =>
    obtain ⟨u, hu, e⟩ := record_of_not_suppressed h
    obtain ⟨hs, hm⟩ := storedRecord_frame s f
    rw [e]
    refine RecordKeeps.trans ⟨?_, samePorts_of_host ?_, ?_⟩ (errorEvents_keeps u _)
    · have := hu.sent
      rw [hs] at this
      exact this
    · rw [hu.frame, hs]
    · rw [hu.frame, ← hm]

theorem note_keeps (s : State) (code detail : Nat) (unit : W16) : RecordKeeps s (note s code detail unit) := record_keeps _ _

/-- A port that asks for no error events is as before a record. -/
theorem record_hport_of_off (s : State) (f : Raise) (p : Nat) (h : (s.hport p).errEn = false) : (record s f).hport p = s.hport p := by
  cases hs : suppressed s f with
  | true => rw [record_of_suppressed hs]; rfl
  | false =>
    obtain ⟨u, hu, e⟩ := record_of_not_suppressed hs
    have hp : u.hport p = s.hport p := by
      unfold State.hport
      rw [hu.frame, (storedRecord_frame s f).1]
    rw [e, errorEvents_hport_of_off u _ p (by rw [hp]; exact h), hp]

/-- What was sent before a record stays among what has been sent. -/
theorem mem_record_out {s : State} {o : Out} (h : o ∈ s.out) (f : Raise) : o ∈ (record s f).out := (record_keeps s f).sent.subset h

theorem mem_note_out {s : State} {o : Out} (h : o ∈ s.out) (code detail : Nat) (unit : W16) : o ∈ (note s code detail unit).out :=
  mem_record_out h _

/-- An answer that leaves before a record is recorded: only the log's reach changed. -/
theorem record_emit_onlyLog (s : State) (o : Out) (f : Raise) : OnlyLog s (record (s.emit o) f) :=
  onlyLog_trans (onlyLog_of_quiet (t := s.emit o) rfl rfl rfl rfl) (record_onlyLog _ f)

theorem note_emit_onlyLog (s : State) (o : Out) (code detail : Nat) (unit : W16) : OnlyLog s (note (s.emit o) code detail unit) :=
  record_emit_onlyLog s o _

end Sys2Proof.Machine
end

section
/-! Attestation, measurement, debug unlock and the management endpoint (R457 to R461): the layout of a report, and what each
command of chapter 17 answers. -/

namespace Sys2Proof.Machine

open Sys2Proof Sys2Proof.Safety

/-! ### Runs of bytes -/

@[simp] theorem slice_length (b : Bytes) (off k : Nat) : (slice b off k).length = k := by
  simp only [slice, List.length_append, List.length_take, List.length_drop, List.length_replicate]
  omega

@[simp] theorem beBytes_length (k n : Nat) : (beBytes k n).length = k := by simp [beBytes, leBytes_length]

@[simp] theorem zeros_length (k : Nat) : (zeros k).length = k := by simp [zeros]

/-- A run of bytes laid between two others is read back whole. -/
theorem slice_middle (a m c : Bytes) {off k : Nat} (ha : a.length = off) (hm : m.length = k) : slice (a ++ (m ++ c)) off k = m := by
  subst ha hm
  simp [slice]

theorem slice_prefix (m c : Bytes) {k : Nat} (hm : m.length = k) : slice (m ++ c) 0 k = m := by
  have h := slice_middle [] m c rfl hm
  rwa [List.nil_append] at h

/-- Blocks of `k` bytes laid one after another. -/
theorem flatMap_length_const {α : Type} (f : α → Bytes) (k : Nat) (h : ∀ x, (f x).length = k) (l : List α) :
    (l.flatMap f).length = k * l.length := by
  induction l with
  | nil => rfl
  | cons x l ih => rw [List.flatMap_cons, List.length_append, h, ih, List.length_cons, Nat.mul_succ, Nat.add_comm]

/-- Block `m` of such a run is read back whole, after a run of `off` bytes. -/
theorem slice_block (a c : Bytes) (f : Nat → Bytes) {off k n m : Nat} (ha : a.length = off) (h : ∀ i, (f i).length = k) (hm : m < n) :
    slice (a ++ ((List.range n).flatMap f ++ c)) (off + k * m) k = f m := by
  obtain ⟨j, rfl⟩ : ∃ j, n = m + (1 + j) := ⟨n - m - 1, by omega⟩
  rw [List.range_add, List.range_add, List.map_append, List.flatMap_append, List.flatMap_append]
  simp only [List.range_one, List.map_cons, List.map_nil, Nat.add_zero, List.flatMap_cons, List.flatMap_nil, List.append_nil,
    List.append_assoc]
  rw [← List.append_assoc a]
  exact slice_middle _ _ _ (by simp [ha, flatMap_length_const f k h]) (h m)

/-! ### The report (R458) -/

theorem identityBytes_length (s : State) : (identityBytes s).length = 64 := by simp [identityBytes, sm2Public]

theorem reportSignature_length (s : State) (body : Bytes) : (reportSignature s body).length = 64 := by simp [reportSignature, sm2Sign]

/-- Bytes 0 to 15 of a report: version, flags, device number, floor and time. -/
def reportHead (s : State) : Bytes :=
  layout 16
    [(0, 1, 1), (1, 1, b2n s.job.locked + 2 * b2n s.sec.debug + 4 * b2n s.sec.noCfg + 8 * b2n s.sec.certBad),
     (2, 2, s.fab.devNum.toNat + 0x8000 * b2n s.fab.devValid), (4, 4, s.sec.floor.toNat), (8, 8, s.ns)]

/-- The four bytes of a version: major, minor, patch. -/
def versionBytes (s : State) (i : Nat) : Bytes :=
  [(s.sec.versions.getD i (0, 0, 0)).1, (s.sec.versions.getD i (0, 0, 0)).2.1] ++ leBytes 2 (s.sec.versions.getD i (0, 0, 0)).2.2.toNat

theorem versionBytes_length (s : State) (i : Nat) : (versionBytes s i).length = 4 := by
  simp only [versionBytes, List.length_append, List.length_cons, List.length_nil, leBytes_length]

/-- Bytes 48 to 191: the identity key, the versions, the job, and the part's place. -/
def reportFacts (s : State) : Bytes :=
  identityBytes s ++ (List.range 6).flatMap (versionBytes s) ++
    leBytes 8 s.job.jepoch.toNat ++ leBytes 16 s.job.digest.toNat ++ leBytes 4 s.sec.domain.toNat ++ leBytes 4 s.sec.feed.toNat ++
    leBytes 4 s.sec.rack.toNat ++ zeros 20

/-- A measurement register as the report carries it. -/
def reportMr (s : State) (m : Nat) : Bytes := slice (s.sec.mr.getD m []) 0 32

theorem reportBody_eq (s : State) (nonce : Bytes) :
    reportBody s nonce = reportHead s ++ (slice nonce 0 32 ++ (reportFacts s ++ ((List.range 16).flatMap (reportMr s) ++
      (slice s.sec.owner 0 32 ++ zeros 32)))) := by
  simp only [reportBody, reportHead, reportFacts, List.append_assoc]
  rfl

theorem reportHead_length (s : State) : (reportHead s).length = 16 := layout_length _ _ (by simp)

theorem reportFacts_length (s : State) : (reportFacts s).length = 144 := by
  simp only [reportFacts, List.length_append, identityBytes_length, flatMap_length_const _ 4 (versionBytes_length s), List.length_range,
    leBytes_length, zeros_length]

theorem reportMr_length (s : State) (m : Nat) : (reportMr s m).length = 32 := slice_length _ _ _

theorem reportBody_length (s : State) (nonce : Bytes) : (reportBody s nonce).length = 768 := by
  simp [reportBody_eq, reportHead_length, reportFacts_length, flatMap_length_const _ 32 (reportMr_length s)]

theorem reportBody_nonce (s : State) (nonce : Bytes) : slice (reportBody s nonce) 16 32 = slice nonce 0 32 := by
  rw [reportBody_eq]
  exact slice_middle _ _ _ (reportHead_length s) (slice_length _ _ _)

theorem reportBody_mr (s : State) (nonce : Bytes) (m : Nat) (h : m < 16) :
    slice (reportBody s nonce) (192 + 32 * m) 32 = slice (s.sec.mr.getD m []) 0 32 := by
  rw [reportBody_eq, ← List.append_assoc (slice nonce 0 32), ← List.append_assoc (reportHead s)]
  exact slice_block _ _ (reportMr s) (by simp [reportHead_length, reportFacts_length]) (reportMr_length s) h

/-! ### Requests for a report (R459) -/

theorem primary_write {s : State} {host : Nat} (h : Claims.Primary s host) (r : State) : setupWrite host s r = .next r := by
  obtain ⟨hh, up, hp⟩ := h
  exact setupWrite_primary hh up hp r

@[simp] theorem record_free (s : State) (f : Raise) : (record s f).free = s.free := by rw [(record_onlyLog s f).1]
@[simp] theorem note_free (s : State) (c d : Nat) (u : W16) : (note s c d u).free = s.free := record_free _ _
@[simp] theorem note_sec (s : State) (c d : Nat) (u : W16) : (note s c d u).sec = s.sec := record_sec _ _
@[simp] theorem vectorEvent_free (s : State) (p v : Nat) : (vectorEvent s p v).free = s.free := by rw [(portEvent_vectorEvent s p v).frame]
@[simp] theorem vectorEvent_sec (s : State) (p v : Nat) : (vectorEvent s p v).sec = s.sec := by rw [(portEvent_vectorEvent s p v).frame]

theorem requestReport_taken {s : State} (h : s.sec.attBusy = false) (k : s.sec.attests.length < 4) (host : Nat) :
    requestReport s host = { s with sec := { s.sec with
      attBusy := true
      attests := s.sec.attests ++
        [⟨.host host (BitVec.ofNat 64 (s.sec.attLo.toNat + s.sec.attHi.toNat * 2 ^ 32)), reportBody s (wordBytes s.sec.nonce)⟩] } } :=
  if_neg (by simp [reportRefused, h, k])

theorem requestReport_refused {s : State} (h : s.sec.attBusy = true ∨ 4 ≤ s.sec.attests.length) (host : Nat) :
    requestReport s host = secRefused s :=
  if_pos (by simpa [reportRefused] using h)

theorem secRefused_onlyLog (s : State) : OnlyLog s (secRefused s) := note_onlyLog _ _ _ _

/-- A step of the management core is due while it serves the endpoint. -/
theorem managed_due {s : State} {via : Endpoint} (h : managed s via = true) (t : State) : ifDue (managed s via) s t = .next t := by
  rw [h]
  rfl

/-- A request over management is queued, or refused while four queue. -/
theorem attest_next {s : State} {via : Endpoint} (h : managed s via = true) (nonce : Bytes) :
    ∃ t, exec (.attest nonce via) s = .next t ∧
      (if s.sec.attests.length < 4 then t = { s with sec := { s.sec with attests := s.sec.attests ++ [⟨.management via, reportBody s nonce⟩] } }
       else OnlyLog s t) := by
  refine ⟨_, managed_due h _, ?_⟩
  by_cases k : s.sec.attests.length < 4
  · rw [if_pos k, if_neg (Nat.not_le.mpr k)]
  · rw [if_neg k, if_pos (Nat.not_lt.mp k)]
    exact secRefused_onlyLog s

/-- Which endpoints are served depends on the pins and the ports alone. -/
theorem managed_free_sec (s : State) (n : Nat) (c : Security) (via : Endpoint) :
    managed { s with free := n, sec := c } via = managed s via := rfl

/-- Over management a report leaves through its endpoint, when that is served, and changes nothing of the part. -/
theorem deliverReport_management (s : State) (via : Endpoint) (body report : Bytes) :
    deliverReport s ⟨.management via, body⟩ report = if managed s via = true then s.emit (.management via 0x04 report) else s := rfl

/-- Toward a host a report ends the port's request; with the link up it is written to the host's memory. -/
theorem deliverReport_host (s : State) (p : Nat) (addr : W64) (body report : Bytes) :
    let t := deliverReport s ⟨.host p addr, body⟩ report
    t.sec.attests = s.sec.attests ∧ t.sec.mr = s.sec.mr ∧ t.free = s.free ∧ t.sec.attBusy = false ∧
      ((s.hport p).up = true → t.sec.attDone = true ∧ .hostWrite p addr report false false ∈ t.out) := by
  simp only [deliverReport]
  split
  · split
    · exact ⟨by simp, by simp, by simp, by simp,
        fun _ => ⟨by simp, (portEvent_vectorEvent _ _ _).sent.subset (List.mem_cons_self ..)⟩⟩
    · exact ⟨rfl, rfl, rfl, rfl, fun _ => ⟨rfl, List.mem_cons_self ..⟩⟩
  · rename_i h
    exact ⟨rfl, rfl, rfl, rfl, fun k => absurd k h⟩

/-- The oldest request is signed and leaves. -/
theorem attestReportComplete_next {s : State} {a : Attest} {rest : List Attest} (h : s.sec.attests = a :: rest)
    (hv : s.pins.vaux = true) (hr : s.pins.resetLow = false) :
    exec .attestReportComplete s = .next (deliverReport { s with free := s.free + 1, sec := { s.sec with attests := rest } } a
      (a.body ++ reportSignature s a.body)) := by
  show execAttestReportComplete s = _
  simp [execAttestReportComplete, h, awake, hv, hr]

/-- Signing the oldest request uses up a free value and takes it from the queue; the measurements stay. -/
theorem attestReportComplete_effect {s : State} {a : Attest} {rest : List Attest} (h : s.sec.attests = a :: rest)
    (hv : s.pins.vaux = true) (hr : s.pins.resetLow = false) :
    let sig := reportSignature s a.body
    ∃ t, exec .attestReportComplete s = .next t ∧ sig.length = 64 ∧ t.sec.attests = rest ∧ t.sec.mr = s.sec.mr ∧ t.free = s.free + 1 ∧
      (match a.for_ with
       | .management via => t.out = if managed s via = true then .management via 0x04 (a.body ++ sig) :: s.out else s.out
       | .host p addr => t.sec.attBusy = false ∧
           ((s.hport p).up = true → t.sec.attDone = true ∧ .hostWrite p addr (a.body ++ sig) false false ∈ t.out)) := by
  intro sig
  refine ⟨_, attestReportComplete_next h hv hr, reportSignature_length _ _, ?_⟩
  obtain ⟨who, body⟩ := a
  cases who with
  | management via =>
    rw [deliverReport_management, managed_free_sec]
    dsimp only
    split <;> exact ⟨rfl, rfl, rfl, rfl⟩
  | host p addr => exact deliverReport_host { s with free := s.free + 1, sec := { s.sec with attests := rest } } p addr body (body ++ sig)

/-! ### Extensions by the host (R457) -/

theorem bit_eq_testBit (n i : Nat) : bit n i = n.testBit i := by
  rw [Nat.testBit_eq_decide_div_mod_eq]
  rfl

/-- `GO` stands in bit 31 of the word that SMRX_GO writes, and the register's number is the value's. -/
theorem smrxGo_word (v : W32) :
    bits (v ||| 0x80000000#32).toNat 3 0 = bits v.toNat 3 0 ∧ bit (v ||| 0x80000000#32).toNat 31 = true := by
  constructor
  · simp only [bits, BitVec.toNat_or, Nat.pow_zero, Nat.div_one]
    rw [Nat.or_mod_two_pow]
    exact Nat.or_zero _
  · rw [bit_eq_testBit, BitVec.testBit_toNat, BitVec.getLsbD_or]
    simp

/-- One extension in a control cycle, of MR10 to MR15 alone. -/
theorem smrxGo_next {s : State} {host : Nat} (h : Claims.Primary s host) (v : W32) :
    let k := bits v.toNat 3 0
    ∃ t, exec (.smrxGo host v) s = .next t ∧
      (if k < 10 ∨ s.sec.extAt = some s.clk then OnlyLog s t
       else t.sec.mrIndex = BitVec.ofNat 4 k ∧ t = { s with sec := t.sec } ∧ t.sec.extAt = some s.clk ∧
         t.sec.mr = s.sec.mr.set k (sm3 (s.sec.mr.getD k (zeros 32) ++ wordBytes s.sec.mrd))) := by
  intro k
  obtain ⟨hk, hgo⟩ := smrxGo_word v
  refine ⟨_, primary_write h _, ?_⟩
  simp only [writeSmrx, hk, hgo, if_true]
  by_cases hx : k < 10 ∨ s.sec.extAt = some s.clk
  · rw [if_pos hx, if_pos (by simpa [extending, or_comm] using hx)]
    exact secRefused_onlyLog s
  · rw [if_neg hx, if_neg (by simpa [extending, or_comm] using hx)]
    exact ⟨rfl, rfl, rfl, rfl⟩

/-! ### Debug unlock (R460) -/

theorem tryUnlock_fst (s : State) (token : Bytes) : (tryUnlock s token).1 = tokenDetail s token := by
  simp only [tryUnlock]
  split
  · rename_i h
    exact h.symm
  · rfl

/-- Every attempt draws a fresh challenge; an accepted token extends MR9 and opens its scopes, and one that fails leaves the SEC
block's measurements and scopes as they are. -/
theorem tryUnlock_snd (s : State) (token : Bytes) :
    let t := (tryUnlock s token).2
    t.free = s.free + 1 ∧ t.sec.challenge = Config.challenge s.free ∧
      (if tokenDetail s token = 0 then t.sec.debug = true ∧ t.sec.scopes = s.sec.scopes ||| BitVec.ofNat 8 (field token 1 1) ∧
          t.sec.mr = s.sec.mr.set 9 (sm3 (s.sec.mr.getD 9 (zeros 32) ++ sm3 (slice token 0 256)))
       else t.sec.debug = s.sec.debug ∧ t.sec.scopes = s.sec.scopes ∧ t.sec.mr = s.sec.mr) := by
  simp only [tryUnlock]
  split
  · exact ⟨rfl, rfl, rfl, rfl, rfl⟩
  · simp [newChallenge]

/-! ### The management endpoint (R461) -/

/-- A command of the management core that only answers. -/
theorem answerManagement_next {s : State} {via : Endpoint} (h : managed s via = true) (command : Byte) (data : Bytes) :
    answerManagement s via command data = .next { s with out := .management via command data :: s.out } := managed_due h _

theorem getLog_next {s : State} {via : Endpoint} (h : managed s via = true) {lseq : W32} {r : LogRecord}
    (hr : recordFor s lseq = recordBytes r) :
    exec (.getLog lseq via) s = .next { s with out := .management via 0x01 (recordBytes r) :: s.out } := by
  show answerManagement s via 0x01 (recordFor s lseq) = _
  rw [answerManagement_next h, hr]

theorem certBytes_eq (s : State) : certBytes s = flashBytes s 0x4010000 4096 := rfl

theorem getCert_next {s : State} {via : Endpoint} (h : managed s via = true) (off : Nat) :
    exec (.getCert off via) s = .next { s with out := .management via 0x03 (slice (flashBytes s 0x4010000 4096) off 64) :: s.out } := by
  rw [← certBytes_eq]
  exact answerManagement_next h _ _

/-- The sensors' answer: 20 registers of four bytes, `PSTAT` first. -/
theorem getSensors_next {s : State} {via : Endpoint} (h : managed s via = true) :
    ∃ b, exec (.getSensors via) s = .next { s with out := .management via 0x02 b :: s.out } ∧ b.length = 80 ∧
      slice b 0 4 = leBytes 4 (readPstat s) := by
  refine ⟨leBytes 4 (readPstat s) ++ (List.range 18).flatMap (fun i => leBytes 4 (readPdie s i)) ++ leBytes 4 (readPcool s),
    answerManagement_next h _ _, ?_, ?_⟩
  · simp [leBytes_length, flatMap_length_const _ 4 (fun i => leBytes_length 4 (readPdie s i))]
  · rw [List.append_assoc]
    exact slice_prefix _ _ (leBytes_length _ _)

theorem getChal_next {s : State} {via : Endpoint} (h : managed s via = true) :
    exec (.getChal via) s = .next { s with out := .management via 0x05 (beBytes 32 s.sec.challenge.toNat) :: s.out } :=
  answerManagement_next h _ _

theorem getBoot_next {s : State} {via : Endpoint} (h : managed s via = true) :
    exec (.getBoot via) s = .next { s with out := .management via 0x07 (leBytes 4 (readSstat s) ++ leBytes 4 (readSboot s) ++
      leBytes 4 s.sec.floor.toNat ++ leBytes 4 s.sec.svn.toNat) :: s.out } :=
  answerManagement_next h _ _

theorem unlock_next {s : State} {via : Endpoint} (h : managed s via = true) (token : Bytes) :
    ∃ t, exec (.unlock token via) s = .next t ∧ t.free = s.free + 1 ∧ t.sec.challenge = Config.challenge s.free ∧
      t.out.head? = some (.management via 0x06 [BitVec.ofNat 8 (tokenDetail s token)]) ∧
      (if tokenDetail s token = 0 then t.sec.debug = true ∧ t.sec.scopes = s.sec.scopes ||| BitVec.ofNat 8 (field token 1 1)
       else t.sec.debug = s.sec.debug ∧ t.sec.scopes = s.sec.scopes ∧ t.sec.mr = s.sec.mr) := by
  obtain ⟨hf, hc, ht⟩ := tryUnlock_snd s token
  refine ⟨_, managed_due h _, hf, hc, ?_, ?_⟩
  · rw [tryUnlock_fst]
    rfl
  · by_cases k : tokenDetail s token = 0
    · rw [if_pos k] at ht ⊢
      obtain ⟨hd, hs, -⟩ := ht
      exact ⟨hd, hs⟩
    · rw [if_neg k] at ht ⊢
      exact ht

theorem mctp_next {s : State} {via : Endpoint} (h : managed s via = true) (ty : Byte) (vendor : Nat) :
    exec (.mctpControlMessage ty vendor via) s =
      .next { s with out := .mctp via ty (ty == 0 || (ty == 0x7E && vendor == 0x1F3A)) :: s.out } := managed_due h _

theorem mctp_unserved {s : State} {via : Endpoint} (h : managed s via = false) (ty : Byte) (vendor : Nat) :
    exec (.mctpControlMessage ty vendor via) s = .next s := by
  show ifDue (managed s via) s _ = _
  rw [h]
  rfl

/-- SMBus is served from VAUX onward, out of reset. -/
theorem managed_smbus (s : State) : managed s .smbus = (s.pins.vaux && !s.pins.resetLow) := by simp [managed, awake]

/-- A port whose link is down is not served. -/
theorem managed_vdm_down (s : State) (p : Nat) (h : p < 2 → (s.hport p).up = false) : managed s (.vdm p) = false := by
  by_cases k : p < 2
  · simp [managed, h k]
  · simp [managed, k]

/-- Settles O49: each command of chapter 17 on the states that let it act. -/
theorem attestationAndUnlock : Obligations.AttestationAndUnlock := by
  unfold Obligations.AttestationAndUnlock
  refine ⟨fun s n => ⟨reportBody_length s n, reportBody_nonce s n, reportBody_mr s n⟩, ?_, ?_,
    fun s nonce via h => attest_next h nonce, fun s a rest h hv hr => attestReportComplete_effect h hv hr,
    fun s host v h => smrxGo_next h v, ?_, fun s token via h => unlock_next h token, ?_, ?_,
    fun s off via h => getCert_next h off, fun s via h => ⟨getChal_next h, getBoot_next h, getSensors_next h⟩,
    fun s ty vendor via h => mctp_next h ty vendor, fun s ty vendor via h => mctp_unserved h ty vendor, managed_smbus, managed_vdm_down⟩
  · intro s host h hb hq
    exact ⟨_, _, primary_write h _, requestReport_taken hb hq host, rfl, rfl⟩
  · intro s host h hq
    refine ⟨_, primary_write h _, ?_⟩
    rw [requestReport_refused hq]
    exact secRefused_onlyLog s
  · intro s host token h
    exact ⟨_, primary_write h _, tryUnlock_snd _ token⟩
  · intro s lseq via r h ht hr
    exact getLog_next h (by simp [recordFor, ht, hr])
  · intro s lseq via r h ht hr
    exact getLog_next h (by simp [recordFor, tripRecord, Option.filter, ht, hr])

end Sys2Proof.Machine
end

section
/-! The log's registers, the log ring's coming up, the records of one control cycle, and reads and writes of BAR0
(R4 to R7, R437, R440, R444, R468, R474 to R477). -/

namespace Sys2Proof.Machine

open Sys2Proof Sys2Proof.Safety

theorem hostUp_read {s : State} {host : Nat} (h : Claims.HostUp s host) (r : State) : portRead host s r = .next r := by
  obtain ⟨hh, up⟩ := h
  exact portRead_up hh up r

theorem Claims.Primary.hostUp {s : State} {host : Nat} (h : Claims.Primary s host) : Claims.HostUp s host := ⟨h.1, h.2.1⟩

/-! ### `ELOG` and `EMIRCTL` (R440, R444) -/

/-- `ELOG` takes a place and size in range, unmoved while the log is enabled, and clear of the staging pool. -/
theorem elogWrite_next {s : State} {host : Nat} (h : Claims.Primary s host) (v : W32) :
    let reg := bits v.toNat 11 1
    let lg := bits v.toNat 20 16
    ∃ t, exec (.elogWrite host v) s = .next t ∧
      (if reg ≤ 1535 ∧ 16 ≤ lg ∧ lg ≤ 24 ∧ (s.log.en = true → reg = s.log.region.toNat ∧ lg = s.log.log2n.toNat) ∧
          inPool s (reg * 2 ^ 30) (64 * 2 ^ lg) = false then
        t = { s with log := t.log } ∧ t.log.en = bit v.toNat 0 ∧ t.log.region = BitVec.ofNat 11 reg ∧ t.log.log2n = BitVec.ofNat 5 lg ∧
        t.log.next = s.log.next ∧ t.log.early = s.log.early
       else OnlyLog s t) := by
  intro reg lg
  refine ⟨_, primary_write h _, ?_⟩
  have key : (reg > 1535 ∨ lg < 16 ∨ lg > 24 ∨ (s.log.en && (reg != s.log.region.toNat || lg != s.log.log2n.toNat)) = true ∨
      inPool s (reg * 2 ^ 30) (64 * 2 ^ lg) = true) ↔
      ¬(reg ≤ 1535 ∧ 16 ≤ lg ∧ lg ≤ 24 ∧ (s.log.en = true → reg = s.log.region.toNat ∧ lg = s.log.log2n.toNat) ∧
          inPool s (reg * 2 ^ 30) (64 * 2 ^ lg) = false) := by
    simp only [Bool.and_eq_true, Bool.or_eq_true, bne_iff_ne]
    grind
  simp only [writeElog]
  split
  · rename_i ok
    rw [if_neg (fun c => (key.mp c) ok)]
    exact ⟨rfl, rfl, rfl, rfl, rfl, rfl⟩
  · rename_i bad
    rw [if_pos (key.mpr bad)]
    exact note_onlyLog _ _ _ _

/-- `EMIRCTL` takes a size in range, unmoved while mirroring is enabled; what the early buffer holds is mirrored. -/
theorem emirctlWrite_taken {s : State} {host : Nat} (h : Claims.Primary s host) (v : W32) (h6 : 6 ≤ bits v.toNat 6 2)
    (h16 : bits v.toNat 6 2 ≤ 16) (hm : s.log.mirEn = true → bit v.toNat 1 = s.log.mirPort ∧ bits v.toNat 6 2 = s.log.mirLog2n.toNat) :
    ∃ t, exec (.emirctlWrite host v) s = .next t ∧ t.log.mirEn = bit v.toNat 0 ∧ t.log.mirPort = bit v.toNat 1 ∧
      t.log.mirLog2n = BitVec.ofNat 5 (bits v.toNat 6 2) ∧ t = { s with log := t.log, out := t.out } := by
  refine ⟨_, primary_write h _, ?_⟩
  have ok : ¬(bits v.toNat 6 2 < 6 ∨ bits v.toNat 6 2 > 16 ∨
      (s.log.mirEn && (bit v.toNat 1 != s.log.mirPort || bits v.toNat 6 2 != s.log.mirLog2n.toNat)) = true) := by
    rintro (c | c | c)
    · omega
    · omega
    · simp only [Bool.and_eq_true, Bool.or_eq_true, bne_iff_ne] at c
      obtain ⟨e, c⟩ := c
      obtain ⟨p, n⟩ := hm e
      exact c.elim (fun x => x p) (fun x => x n)
  simp only [writeEmirctl]
  rw [if_neg ok, (mirrorEarly_mirrored _).frame]
  exact ⟨rfl, rfl, rfl, rfl⟩

theorem emirctlWrite_refused {s : State} {host : Nat} (h : Claims.Primary s host) (v : W32)
    (hx : bits v.toNat 6 2 < 6 ∨ 16 < bits v.toNat 6 2) :
    ∃ t, exec (.emirctlWrite host v) s = .next t ∧ OnlyLog s t ∧ t.log.mirEn = s.log.mirEn := by
  refine ⟨_, primary_write h _, ?_⟩
  simp only [writeEmirctl]
  rw [if_pos (hx.imp_right Or.inl)]
  exact ⟨note_onlyLog _ _ _ _, (note_keeps _ _ _ _).mirEn⟩

/-! ### The log ring comes up (R440) -/

/-- Outside a region commit a record lands at its place, when no retirement and no 0x10054 region refuses it. -/
theorem postRecord_mem {s : State} {off : Nat} {b : Bytes} (hc : s.hbm.commit = none) (hr : retiredRun s off b.length = false)
    (ho : offRun s off b.length = false) :
    (postRecord s off b).hbm.mem = memWrite zeroByte s.hbm.mem (physKey s off) b := by
  have hv : landView s = s := by rw [landView, hc]
  unfold postRecord
  simp only [hv, hr, ho]
  rw [if_neg (by simp)]
  unfold holdWrite granuleWrite
  dsimp only
  repeat' split
  all_goals rfl

theorem writeRing_log (s : State) (r : LogRecord) :
    (writeRing s r).log = { s.log with overCount := (writeRing s r).log.overCount, unmirrored := (writeRing s r).log.unmirrored } := by
  simp [writeRing]

/-- The early buffer's record goes to the ring, and the buffer keeps it. -/
theorem logRingUp_next {s : State} {r : LogRecord} (he : s.log.en = true) (hu : s.log.ringUp = false) (ht : hbmTrained s = true)
    (hr : s.log.early = [r]) (hc : s.log.copied = 0) (hw : Mem.wf zeroByte s.hbm.mem = true) (hm : s.hbm.commit = none)
    (h1 : retiredRun s (s.log.region.toNat * 2 ^ 30 + r.lseq.toNat % 2 ^ s.log.log2n.toNat * 64) 64 = false)
    (h2 : offRun s (s.log.region.toNat * 2 ^ 30 + r.lseq.toNat % 2 ^ s.log.log2n.toNat * 64) 64 = false) :
    ∃ t, exec .logRingUp s = .next t ∧ t.log.ringUp = true ∧ t.log.early = [r] ∧ t.log.next = s.log.next ∧
      memRead zeroByte t.hbm.mem (physKey s (s.log.region.toNat * 2 ^ 30 + r.lseq.toNat % 2 ^ s.log.log2n.toNat * 64)) 64 = recordBytes r := by
  have e : exec .logRingUp s = .next (modLog (writeRing s r) (fun l => { l with ringUp := true, copied := l.early.length })) := by
    show execLogRingUp s = _
    simp [execLogRingUp, he, hu, ht, hr, hc]
  refine ⟨_, e, rfl, ?_, ?_, ?_⟩
  · show (writeRing s r).log.early = [r]
    rw [writeRing_log, ← hr]
  · show (writeRing s r).log.next = s.log.next
    rw [writeRing_log]
  · have hl := recordBytes_length r
    show memRead zeroByte (postRecord s _ (recordBytes r)).hbm.mem _ 64 = _
    rw [postRecord_mem hm (by rw [hl]; exact h1) (by rw [hl]; exact h2), ← hl]
    exact memRead_memWrite _ _ _ _ hw

/-! ### Two records of one control cycle (R437) -/

/-- Of the log, a record that is not suppressed leaves what storing it left, but for which records were mirrored. -/
theorem record_log {s : State} {f : Raise} (h : suppressed s f = false) :
    (record s f).log = { (storedRecord s f).log with unmirrored := (record s f).log.unmirrored } := by
  obtain ⟨u, hu, e⟩ := record_of_not_suppressed h
  rw [e, errorEvents_frame, hu.frame]

/-- The first record of a control cycle goes to the early buffer under the next `LSEQ`. -/
theorem storeRecord_first {s : State} {r : LogRecord} (hc : thisCycle s = []) (hu : s.log.ringUp = false)
    (hl : s.log.early.length < 256) (hr : r.lseq = s.log.next) :
    (storeRecord s r).log.early = s.log.early ++ [r] ∧ (storeRecord s r).log.cycle = [r] ∧ (storeRecord s r).log.cycleAt = s.clk ∧
      (storeRecord s r).log.next = s.log.next + 1 ∧ (storeRecord s r).log.ringUp = false := by
  have hm : movedBy s r = [r] := by
    cases r
    simp only [movedBy, hc, List.dropWhile_nil, List.length_nil, renumber] at hr ⊢
    simp [hr]
  simp [storeRecord, hm, hc, appendRecord, hu, hl]

/-- A record that comes before the only other one of its control cycle takes its place, and that one the next. -/
theorem storeRecord_before {s : State} {r q : LogRecord} {early : List LogRecord} (hc : thisCycle s = [q]) (hu : s.log.ringUp = false)
    (he : s.log.early = early ++ [q]) (hl : early.length < 255) (hq : s.log.next = q.lseq + 1)
    (hn : ∀ x, x ∈ early → x.lseq ≠ q.lseq) (ho : outranks r q = true) :
    (storeRecord s r).log.early = early ++ [{ r with lseq := q.lseq }, { q with lseq := q.lseq + 1 }] := by
  have hm : movedBy s r = [{ r with lseq := q.lseq }, { q with lseq := q.lseq + 1 }] := by
    have e : s.log.next - BitVec.ofNat 32 1 = q.lseq := by rw [hq]; exact BitVec.add_sub_cancel ..
    simp only [movedBy, hc, List.dropWhile_cons, ho]
    simp [renumber, e]
  have hmap : early.map (fun x => if x.lseq = q.lseq then { r with lseq := q.lseq } else x) = early :=
    (List.map_congr_left fun x hx => if_neg (hn x hx)).trans (List.map_id' _)
  simp [storeRecord, hm, replaceRecord, appendRecord, hu, he, hmap, show early.length + 1 < 256 from by omega]

/-- Two records of one control cycle, the second of which comes before the first, stand in that order in the early buffer. -/
theorem record_record_early {s : State} {f g : Raise} (hc : thisCycle s = []) (hu : s.log.ringUp = false)
    (hl : s.log.early.length < 255) (hn : ∀ q, q ∈ s.log.early → q.lseq ≠ s.log.next) (hf : suppressed s f = false)
    (hg : suppressed (record s f) g = false) (ho : outranks (recordOf s g) (recordOf s f) = true) :
    (record (record s f) g).log.early = s.log.early ++
      [{ recordOf (record s f) g with lseq := s.log.next }, { recordOf s f with lseq := s.log.next + 1 }] := by
  obtain ⟨early, cycle, at_, next, up⟩ := storeRecord_first (s := { s with log := { s.log with suppress := restartSuppress s f } })
    (r := recordOf s f) hc hu (show s.log.early.length < 256 by omega) rfl
  have e := record_log hf
  have c : thisCycle (record s f) = [recordOf s f] := by
    have clk : (record s f).log.cycleAt = (record s f).clk := by rw [e, record_clk]; exact at_
    rw [thisCycle, if_pos clk, e]
    exact cycle
  have second : (storedRecord (record s f) g).log.early = _ := storeRecord_before
    (s := { record s f with log := { (record s f).log with suppress := restartSuppress (record s f) g } })
    (r := recordOf (record s f) g) (q := recordOf s f) c (by rw [e]; exact up) (by rw [e]; exact early) hl (by rw [e]; exact next) hn ho
  rw [record_log hg]
  exact second

/-! ### Reads of BAR0 (R4, R6, R468) -/

theorem setFabRc_out (s : State) (off v : Nat) : (setFabRc s off v).out = s.out := by
  unfold setFabRc
  dsimp only
  repeat' split
  all_goals rfl

theorem setRedRc_out (s : State) (off v : Nat) : (setRedRc s off v).out = s.out := by
  unfold setRedRc
  dsimp only
  split <;> rfl

theorem setTileRc_out (s : State) (off v : Nat) : (setTileRc s off v).out = s.out := by
  unfold setTileRc
  repeat' split
  all_goals rfl

theorem out_ite {c : Prop} [Decidable c] {a b : State} {o : List Out} (ha : a.out = o) (hb : b.out = o) : (if c then a else b).out = o := by
  split
  · exact ha
  · exact hb

theorem setRc_out (s : State) (off v : Nat) : (setRc s off v).out = s.out := by
  unfold setRc
  refine out_ite ?ring <| out_ite rfl <| out_ite rfl <| out_ite rfl <| out_ite rfl <| out_ite rfl <| out_ite rfl <| out_ite rfl <|
    out_ite rfl <| out_ite rfl <| out_ite (setFabRc_out ..) <| out_ite (setRedRc_out ..) <| out_ite rfl (setTileRc_out ..)
  split <;> rfl

theorem clearRc_out (s : State) (off : Nat) : (clearRc s off).out = s.out := by
  simp only [clearRc, setRc_out]

/-- What a read latches or clears sends nothing. -/
theorem afterRead_out (s : State) (off : Nat) : (afterRead s off).out = s.out := by
  have latch : (latchNow s).2.out = s.out := by simp only [latchNow]
  unfold afterRead
  exact out_ite latch (out_ite (clearRc_out s off) rfl)

/-- An aligned read of BAR0. -/
theorem rcRegisterRead_bar0 {s : State} {host off : Nat} (h : Claims.HostUp s host) (hb : off < 2 ^ 20) (ha : off % 4 = 0) :
    exec (.rcRegisterRead host off .bar0) s =
      .next ((afterRead s off).emit (.barRead host off (BitVec.ofNat 32 (readValue s host off)))) := by
  refine (hostUp_read h _).trans ?_
  simp only [readBar0]
  rw [if_neg (by omega), if_neg (by simp [ha])]

theorem readValue_of_not_rc {off : Nat} (h : isRc off = false) (s : State) (host : Nat) : readValue s host off = readReg s host off := by
  simp [readValue, h]

/-- A read of a read-clear field whose register holds nothing else returns what stood before this control cycle. -/
theorem readValue_of_rc {s : State} {host off : Nat} (h : isRc off = true) (hv : readReg s host off = rcValue s off) :
    readValue s host off = rcShown s off := by
  simp [readValue, h, hv]

/-- `PCLAMP` is read and cleared of what stood before this control cycle. -/
theorem read_clamps {s : State} {host : Nat} (h : Claims.HostUp s host) :
    let m := min (tget s.counts 0x10054 0) s.pwr.clamps.toNat
    exec (.rcRegisterRead host 0x10054 .bar0) s = .next { s with
      pwr := { s.pwr with clamps := BitVec.ofNat 32 (s.pwr.clamps.toNat - m) }, counts := tdel s.counts 0x10054
      out := .barRead host 0x10054 (BitVec.ofNat 32 m) :: s.out } := by
  refine (rcRegisterRead_bar0 h (by omega) (by omega)).trans ?_
  rw [readValue_of_rc (by decide) (by simp [rcValue, readReg, readPwr])]
  simp [afterRead, tnowloAt, show isRc 0x10054 = true by decide, clearRc, setRc, rcShown, rcValue, readReg, readPwr, modPwr, State.emit]

/-- `TSTEP` is read and cleared of what stood before this control cycle. -/
theorem read_steps {s : State} {host : Nat} (h : Claims.HostUp s host) :
    let n := min (tget s.counts 0x18014 0) s.time.steps.toNat
    exec (.rcRegisterRead host 0x18014 .bar0) s = .next { s with
      time := { s.time with steps := BitVec.ofNat 32 (s.time.steps.toNat - n) }, counts := tdel s.counts 0x18014
      out := .barRead host 0x18014 (BitVec.ofNat 32 n) :: s.out } := by
  refine (rcRegisterRead_bar0 h (by omega) (by omega)).trans ?_
  rw [readValue_of_rc (by decide) (by simp [rcValue, readReg, readTime])]
  simp [afterRead, tnowloAt, show isRc 0x18014 = true by decide, clearRc, setRc, rcShown, rcValue, readReg, readTime, State.emit]

/-! ### Writes of BAR0 (R7, R361, R414, R426, R474) -/

/-- `PFLOOR` takes three floors in range. -/
theorem registerWrite_pfloor {s : State} {host : Nat} (h : Claims.Primary s host) (v : W32) :
    let l := bits v.toNat 6 0
    let m := bits v.toNat 14 8
    let c := bits v.toNat 22 16
    ∃ t, exec (.registerWrite host 0x10020 v .bar0) s = .next t ∧
      (if 16 ≤ l ∧ l ≤ 64 ∧ 16 ≤ m ∧ m ≤ 64 ∧ 16 ≤ c ∧ c ≤ 64 then
        t = { s with pwr := { s.pwr with floorLink := BitVec.ofNat 7 l, floorMem := BitVec.ofNat 7 m, floorComp := BitVec.ofNat 7 c } }
       else OnlyLog s t) := by
  intro l m c
  refine ⟨writePfloor s v.toNat, primary_write h _, ?_⟩
  have key : (decide (16 ≤ l) && decide (l ≤ 64) && (decide (16 ≤ m) && decide (m ≤ 64)) && (decide (16 ≤ c) && decide (c ≤ 64))) =
      decide (16 ≤ l ∧ l ≤ 64 ∧ 16 ≤ m ∧ m ≤ 64 ∧ 16 ≤ c ∧ c ≤ 64) := by
    rw [Bool.eq_iff_iff]
    simp only [Bool.and_eq_true, decide_eq_true_eq, and_assoc]
  show if _ then writePfloor s v.toNat = _ else OnlyLog s (writePfloor s v.toNat)
  simp only [writePfloor, key, decide_eq_true_eq, l, m, c]
  split
  · rfl
  · exact note_onlyLog _ _ _ _

/-- A set-up write of the port that is not the primary is logged and changes nothing. -/
theorem registerWrite_pfloor_other {s : State} {host : Nat} (h : Claims.HostUp s host) (hp : host ≠ b2n s.host.primary) (v : W32) :
    ∃ t, exec (.registerWrite host 0x10020 v .bar0) s = .next t ∧ OnlyLog s t := by
  obtain ⟨hh, up⟩ := h
  exact ⟨_, setupWrite_other hh up hp _, note_onlyLog _ _ _ _⟩

theorem ofNat_toNat_word (v : W32) : BitVec.ofNat 32 v.toNat = v := by simp

/-- A write of `TSETLO`. -/
theorem registerWrite_tsetlo {s : State} {host : Nat} (h : Claims.Primary s host) (v : W32) :
    exec (.registerWrite host 0x18018 v .bar0) s = .next { s with time := { s.time with setLo := v } } := by
  refine (primary_write h { s with time := { s.time with setLo := BitVec.ofNat 32 v.toNat } }).trans ?_
  rw [ofNat_toNat_word]

/-! ### Accesses of a bad size or alignment (R468) -/

theorem badAccess_onlyLog (s : State) (host off : Nat) (w : Bool) : OnlyLog s (badAccess s host off w) := by
  cases w
  · exact note_emit_onlyLog _ _ _ _ _
  · exact note_onlyLog _ _ _ _

/-- A misaligned write moves nothing. -/
theorem registerWrite_misaligned {s : State} {host off : Nat} (h : Claims.HostUp s host) (hb : off < 2 ^ 20) (ha : off % 4 ≠ 0) (v : W32) :
    exec (.registerWrite host off v .bar0) s = .next (badAccess s host off true) := by
  show writeBar0 host off v s = _
  rw [writeBar0, if_neg (by omega), if_pos ha]
  exact hostUp_read h _

/-- An access of 4 aligned bytes is no bad access. -/
theorem bar0BadAccess_good {s : State} {host off : Nat} (h : Claims.HostUp s host) (ha : off % 4 = 0) :
    exec (.bar0BadAccess host off 4 false) s = .next s := by
  refine (hostUp_read h _).trans ?_
  rw [if_pos ⟨Or.inl rfl, ha⟩]

/-- An access of neither 4 nor 8 bytes moves nothing. -/
theorem bar0BadAccess_size {s : State} {host : Nat} {size : Nat} (h : Claims.HostUp s host) (h4 : size ≠ 4) (h8 : size ≠ 8) (off : Nat)
    (w : Bool) : exec (.bar0BadAccess host off size w) s = .next (badAccess s host off w) := by
  refine (hostUp_read h _).trans ?_
  rw [if_neg (fun c => c.1.elim h4 h8)]

/-- A bad read is answered as unsupported. -/
theorem badAccess_out (s : State) (host off : Nat) : .barUnsupported host off ∈ (badAccess s host off false).out :=
  mem_note_out (List.mem_cons_self ..) _ _ _

/-! ### The obligation -/

/-- Settles O51: the records of a control cycle by following two `record`s through the early buffer; each register by its
own block of the map. -/
theorem hostRegisters : Obligations.HostRegisters := by
  unfold Obligations.HostRegisters
  refine ⟨fun s host v h => elogWrite_next h v, fun s host v h h6 h16 hm => emirctlWrite_taken h v h6 h16 hm,
    fun s host v h hx => emirctlWrite_refused h v hx,
    fun s r he hu ht hr hc hw hm h1 h2 => logRingUp_next he hu ht hr hc hw hm h1 h2,
    fun s f g hc hu hl hn hf hg ho => ⟨_, _, record_record_early hc hu hl hn hf hg ho, rfl, rfl, rfl, rfl⟩,
    fun s host off h hb ha => ⟨_, rcRegisterRead_bar0 h hb ha, congrArg _ (afterRead_out s off), fun hr => readValue_of_not_rc hr s host⟩,
    fun s host h => ⟨read_clamps h, read_steps h⟩,
    fun s host v h => registerWrite_pfloor h v, fun s host v h => ⟨registerWrite_tsetlo h v, ?_, ?_, ?_, ?_, ?_⟩,
    fun s host v h hp => registerWrite_pfloor_other h hp v,
    fun s host off v h hb ha => ⟨_, registerWrite_misaligned h hb ha v, badAccess_onlyLog _ _ _ _⟩,
    fun s host off h ha => bar0BadAccess_good h ha,
    fun s host off size w h h4 h8 => ⟨_, bar0BadAccess_size h h4 h8 off w, badAccess_onlyLog _ _ _ _, ?_⟩⟩
  · exact congrArg (fun w => exec (.pcapWrite host w) s) (ofNat_toNat_word v)
  · exact congrArg (fun w => exec (.tepochWrite host w) s) (ofNat_toNat_word v)
  · exact congrArg (fun w => exec (.fdevWrite host w) s) (ofNat_toNat_word v)
  · exact congrArg (fun w => exec (.snctlEnWrite host w) s) (ofNat_toNat_word v)
  · rfl
  · rintro rfl
    exact badAccess_out _ _ _

end Sys2Proof.Machine
end

section
/-! What the reset of a host port keeps and ends (R470, R471): ring pairs that are disabled stay disabled, and the port itself is
as its registers' reset leaves it. -/

namespace Sys2Proof.Machine

open Sys2Proof Sys2Proof.Safety

/-! ### Steps that enable no ring pair and change no port's registers -/

/-- Every disabled ring pair stays disabled, and every host port is as before but for its vectors and its count of messages. -/
structure KeepsPorts (s t : State) : Prop where
  disabled : ∀ r, (s.ring r).phase = .disabled → (t.ring r).phase = .disabled
  ports    : SamePorts s t

theorem keepsPorts_refl (s : State) : KeepsPorts s s := ⟨fun _ h => h, samePorts_of_host rfl⟩

theorem KeepsPorts.trans {s t u : State} (h : KeepsPorts s t) (k : KeepsPorts t u) : KeepsPorts s u :=
  ⟨fun r hr => k.disabled r (h.disabled r hr), samePorts_trans h.ports k.ports⟩

theorem keepsPorts_foldl {α : Type} (f : State → α → State) (h : ∀ u x, KeepsPorts u (f u x)) (l : List α) (s : State) :
    KeepsPorts s (l.foldl f s) := by
  induction l generalizing s with
  | nil => exact keepsPorts_refl s
  | cons x r ih => exact (h s x).trans (ih _)

/-- A step that leaves the ring pairs and the host side alone. -/
theorem keepsPorts_of {s t : State} (hr : t.cmd.rings = s.cmd.rings) (hh : t.host = s.host) : KeepsPorts s t := by
  refine ⟨fun r h => ?_, samePorts_of_host hh⟩
  unfold State.ring at h ⊢
  rw [hr]
  exact h

/-- A ring pair that keeps its phase or is disabled. -/
theorem keepsPorts_setRing (s : State) (k : Nat) (x : RingPair) (h : x.phase = (s.ring k).phase ∨ x.phase = .disabled) :
    KeepsPorts s (s.setRing k x) := by
  refine ⟨fun r hr => ?_, samePorts_of_host rfl⟩
  by_cases e : r = k
  · subst e
    rw [State.ring_setRing_self]
    exact h.elim (fun p => p.trans hr) id
  · rw [State.ring_setRing_ne s _ e]
    exact hr

theorem keepsPorts_setTile (s : State) (k : Nat) (x : Tile) : KeepsPorts s (s.setTile k x) := keepsPorts_of rfl rfl

theorem keepsPorts_record (s : State) (f : Raise) : KeepsPorts s (record s f) :=
  ⟨fun r h => by rw [record_ring]; exact h, (record_keeps s f).ports⟩

/-! ### The stop of a tile and of a pitch (R171, R351) -/

theorem keepsPorts_modLaunch (s : State) (id : Nat) (f : Launch → Launch) : KeepsPorts s (modLaunch s id f) := keepsPorts_of rfl rfl

theorem keepsPorts_stopMembers (s : State) (ring : Nat) : KeepsPorts s (stopMembers s ring) :=
  keepsPorts_foldl _ (fun u _ => (keepsPorts_modLaunch u _ _).trans (keepsPorts_foldl _ (fun _ _ => keepsPorts_setTile _ _ _) _ _)) _ _

theorem keepsPorts_pitchFault (s : State) (ring : Nat) (f : Raise) (replays : Bool) : KeepsPorts s (pitchFault s ring f replays) := by
  have put (p : Pitch) : KeepsPorts s (s.setRing ring { s.ring ring with pitch := p }) := keepsPorts_setRing s ring _ (Or.inl rfl)
  unfold pitchFault
  dsimp only
  split
  · exact (put _).trans (keepsPorts_stopMembers _ _)
  · exact (put _).trans (keepsPorts_stopMembers _ _)
  · split
    · exact put _
    · exact keepsPorts_refl s
  · exact keepsPorts_refl s

theorem keepsPorts_contain (s : State) (ring : Option Nat) (f : Raise) : KeepsPorts s (contain s ring f) := by
  unfold contain
  split
  · split
    · exact keepsPorts_pitchFault _ _ _ _
    · exact keepsPorts_refl s
  · exact keepsPorts_refl s

theorem keepsPorts_tileRaise (s : State) (tile code detail slot pc word kind : Nat) (data : Bytes) :
    KeepsPorts s (tileRaise s tile code detail slot pc word kind data) := by
  have stop (u : State) : KeepsPorts u (stopTile u tile code slot pc word) := keepsPorts_setTile u tile _
  unfold tileRaise
  dsimp only
  refine KeepsPorts.trans ?_ (keepsPorts_contain _ _ _)
  split
  · exact ((keepsPorts_record s _).trans (stop _)).trans (keepsPorts_modLaunch _ _ _)
  · exact (keepsPorts_record s _).trans (stop _)

/-! ### Reads that a port's reset cuts off -/

theorem keepsPorts_closeReq (s : State) (id : Nat) : KeepsPorts s (closeReq s id) := by
  unfold closeReq dropReq
  dsimp only
  split
  · split <;> exact keepsPorts_of rfl rfl
  · exact keepsPorts_of rfl rfl

theorem keepsPorts_writeStatus (s : State) (tile at_ : Nat) (b : Bytes) : KeepsPorts s (writeStatus s tile at_ b) := by
  unfold writeStatus
  split
  · exact keepsPorts_refl s
  · split
    · exact keepsPorts_tileRaise _ _ _ _ _ _ _ _ _
    · exact keepsPorts_setTile _ _ _

theorem keepsPorts_completeWord (s : State) (tile : Nat) (w : W128) (b : Bytes) : KeepsPorts s (completeWord s tile w b) := by
  have status : KeepsPorts s (if statOf w then writeStatus s tile (staddrOf w) b else s) := by
    split
    · exact keepsPorts_writeStatus _ _ _ _
    · exact keepsPorts_refl s
  unfold completeWord
  dsimp only
  split
  · exact status.trans (keepsPorts_setTile _ _ _)
  · exact status

theorem keepsPorts_finishCopy (s : State) (tile : Nat) (c : CopyRun) (fault detail kind : Nat) (data : Bytes) (stalls : Nat) :
    KeepsPorts s (finishCopy s tile c fault detail kind data stalls) := by
  have ended (b : Bytes) : KeepsPorts s (completeWord (dropCopy s tile c.id) tile c.word b) :=
    KeepsPorts.trans (t := dropCopy s tile c.id) (keepsPorts_of rfl rfl) (keepsPorts_completeWord _ _ _ _)
  unfold finishCopy
  dsimp only
  split
  · exact (ended _).trans (keepsPorts_tileRaise _ _ _ _ _ _ _ _ _)
  · exact ended _

theorem keepsPorts_goOn_ifDue {s t : State} (c : Bool) (h : KeepsPorts s t) : KeepsPorts s (goOn s (ifDue c s t)) := by
  cases c
  · exact keepsPorts_refl s
  · exact h

theorem keepsPorts_threadReadFails (s : State) (tile slot : Nat) : KeepsPorts s (goOn s (threadReadFails tile slot s)) := by
  unfold threadReadFails onSlot
  split
  · split
    · split
      · exact keepsPorts_goOn_ifDue _ ((keepsPorts_closeReq s _).trans (keepsPorts_tileRaise _ _ _ _ _ _ _ _ _))
      · exact keepsPorts_refl s
    · exact keepsPorts_refl s
  · exact keepsPorts_refl s

theorem keepsPorts_copyReadFails (s : State) (tile copy : Nat) : KeepsPorts s (goOn s (copyReadFails tile copy s)) := by
  unfold copyReadFails onTile
  split
  · split
    · exact keepsPorts_goOn_ifDue _ (keepsPorts_finishCopy _ _ _ _ _ _ _ _)
    · exact keepsPorts_refl s
  · exact keepsPorts_refl s

theorem keepsPorts_cutReads (s : State) (p : Nat) : KeepsPorts s (cutReads s p) := by
  refine KeepsPorts.trans (keepsPorts_foldl _ (fun u r => ?_) _ s)
    (keepsPorts_foldl _ (fun u x => keepsPorts_foldl _ (fun w c => ?_) _ u) _ _)
  · split
    · split
      · exact keepsPorts_threadReadFails _ _ _
      · exact keepsPorts_refl u
    · exact keepsPorts_refl u
  · dsimp only
    split
    · exact keepsPorts_copyReadFails _ _ _
    · exact keepsPorts_refl w

/-! ### Ring pairs that a port's reset disables (R329, R471) -/

theorem keepsPorts_dropReads (s : State) (ring : Nat) : KeepsPorts s (dropReads s ring) := keepsPorts_of rfl rfl

theorem keepsPorts_disableRing (s : State) (ring : Nat) : KeepsPorts s (disableRing s ring) :=
  ((keepsPorts_stopMembers s ring).trans (keepsPorts_dropReads _ ring)).trans (keepsPorts_setRing _ ring _ (Or.inr rfl))

theorem disableRing_phase (s : State) (ring : Nat) : ((disableRing s ring).ring ring).phase = .disabled := by
  simp [disableRing]

theorem phase_foldl_disableRing {l : List Nat} {r : Nat} (h : r ∈ l) (s : State) : ((l.foldl disableRing s).ring r).phase = .disabled := by
  induction l generalizing s with
  | nil => simp at h
  | cons k l ih =>
    rcases List.mem_cons.mp h with rfl | h
    · exact (keepsPorts_foldl _ keepsPorts_disableRing l _).disabled r (disableRing_phase s r)
    · exact ih h _

/-- The ring pairs of a port that are not disabled. -/
def ringsInUse (s : State) (p : Nat) : List Nat := ((List.range 16).map (16 * p + ·)).filter (fun r => (s.ring r).phase != .disabled)

theorem mem_rings_of_port {p r : Nat} (h : r / 16 = p) : r ∈ (List.range 16).map (16 * p + ·) :=
  List.mem_map.mpr ⟨r % 16, List.mem_range.mpr (Nat.mod_lt r (by omega)), by omega⟩

/-- Disabling the ring pairs in use of a port leaves all of its ring pairs disabled. -/
theorem phase_disable_ringsInUse {p r : Nat} (h : r / 16 = p) (s : State) :
    (((ringsInUse s p).foldl disableRing s).ring r).phase = .disabled := by
  by_cases hr : (s.ring r).phase = .disabled
  · exact (keepsPorts_foldl _ keepsPorts_disableRing _ s).disabled r hr
  · exact phase_foldl_disableRing (List.mem_filter.mpr ⟨mem_rings_of_port h, by simpa using hr⟩) s

theorem keepsPorts_resetRings (s : State) (p : Nat) : KeepsPorts s (resetRings s p) := by
  refine KeepsPorts.trans (t := { s with cmd := { s.cmd with
    doorbell := tdel s.cmd.doorbell p, shadow := tdel s.cmd.shadow p, polled := tdel s.cmd.polled p } })
    (keepsPorts_of rfl rfl) (keepsPorts_foldl _ (fun u r => ?_) _ _)
  split
  · exact keepsPorts_setRing _ _ _ (Or.inl rfl)
  · exact keepsPorts_refl u

/-! ### The reset of a port -/

/-- What a port's reset does to the log and to requests for reports matters to no ring pair. -/
theorem keepsPorts_resetRings_with (s : State) (l : Log) (c : Security) (p : Nat) :
    KeepsPorts s (resetRings { s with log := l, sec := c } p) :=
  KeepsPorts.trans (t := { s with log := l, sec := c }) (keepsPorts_of rfl rfl) (keepsPorts_resetRings _ p)

/-- A port's reset: some state with its ring pairs disabled and its registers kept, then the registers' reset and a record. -/
theorem resetPort_eq (s : State) (p detail : Nat) (cfg : HostPort → Table W32) :
    ∃ u, SamePorts s u ∧ (∀ r, r / 16 = p → (u.ring r).phase = .disabled) ∧
      resetPort s p detail cfg = note (modHost u p (fun h => { resetHostRegs h with cfg := cfg h })) 0x0B04 detail unitHost := by
  have cut := keepsPorts_cutReads ((ringsInUse s p).foldl disableRing s) p
  have all := (keepsPorts_foldl _ keepsPorts_disableRing (ringsInUse s p) s).trans cut
  have last (l : Log) (c : Security) := keepsPorts_resetRings_with (cutReads ((ringsInUse s p).foldl disableRing s) p) l c p
  unfold resetPort
  exact ⟨_, (all.trans (last _ _)).ports, fun r hr => (last _ _).disabled r (cut.disabled r (phase_disable_ringsInUse hr s)), rfl⟩

theorem resetPort_phase (s : State) {p r : Nat} (hr : r / 16 = p) (detail : Nat) (cfg : HostPort → Table W32) :
    ((resetPort s p detail cfg).ring r).phase = .disabled := by
  obtain ⟨u, -, hd, e⟩ := resetPort_eq s p detail cfg
  rw [e, note, record_ring]
  exact hd r hr

/-- The port itself after its reset; its configuration space may not depend on its vectors and count. -/
theorem resetPort_hport (s : State) (p detail : Nat) (cfg : HostPort → Table W32)
    (hc : ∀ h vs n, cfg { h with vectors := vs, sent := n } = cfg h) :
    (resetPort s p detail cfg).hport p = { resetHostRegs (s.hport p) with cfg := cfg (s.hport p) } := by
  obtain ⟨u, hp, -, e⟩ := resetPort_eq s p detail cfg
  have reset : (modHost u p (fun h => { resetHostRegs h with cfg := cfg h })).hport p =
      { resetHostRegs (s.hport p) with cfg := cfg (s.hport p) } := by
    rw [modHost, State.hport_setHport_self, hp p, hc]
    rfl
  rw [e, note, record_hport_of_off _ _ _ (by rw [reset]; rfl), reset]

/-! ### Function Level Reset and PERST (R470, R471) -/

theorem powerState_of_cfg {h : HostPort} {v : W32} (hv : tget? h.cfg 0x44 = some v) : powerState h = v.toNat % 4 := by
  simp [powerState, cfgWord, tget, hv]

theorem tget?_cfgAfterFlr (h : HostPort) (d3hot : Bool) {off : Nat} (h4 : off ≠ 0x04) (h44 : off ≠ 0x44) (h50 : off ≠ 0x50) :
    tget? (cfgAfterFlr h d3hot) off = tget? h.cfg off := by
  simp [cfgAfterFlr, tget?_tset, tget?_tdel, h4, h44, h50]

theorem functionLevelReset_next {s : State} {host : Nat} (h : Claims.HostUp s host) (d3hot : Bool) :
    exec (.functionLevelReset host d3hot) s = .next (functionReset s host d3hot) := hostUp_read h _

/-- A Function Level Reset keeps the link and the configuration space but for what starts requests. -/
theorem functionReset_hport (s : State) (host : Nat) (d3hot : Bool) :
    (functionReset s host d3hot).hport host = { resetHostRegs (s.hport host) with cfg := cfgAfterFlr (s.hport host) d3hot } :=
  resetPort_hport s host 3 _ (fun _ _ _ => rfl)

theorem functionLevelReset_resets {s : State} {host : Nat} (h : Claims.HostUp s host) (d3hot : Bool) :
    ∃ t, exec (.functionLevelReset host d3hot) s = .next t ∧ (t.hport host).up = true ∧ (t.hport host).vectors = [] ∧
      (t.hport host).win = 0 ∧ powerState (t.hport host) = (if d3hot = true then 3 else 0) ∧
      (∀ off, off ≠ 0x04 → off ≠ 0x44 → off ≠ 0x50 → tget? (t.hport host).cfg off = tget? (s.hport host).cfg off) ∧
      ∀ r, r / 16 = host → (t.ring r).phase = .disabled := by
  have e := functionReset_hport s host d3hot
  refine ⟨_, functionLevelReset_next h d3hot, ?_, ?_, ?_, ?_, fun off h4 h44 h50 => ?_, fun r hr => resetPort_phase s hr 3 _⟩
  · rw [e]
    exact h.2
  · rw [e]
    rfl
  · rw [e]
    rfl
  · rw [e, powerState_of_cfg (v := if d3hot then 3 else 0) (by simp [cfgAfterFlr])]
    cases d3hot <;> rfl
  · rw [e]
    exact tget?_cfgAfterFlr _ _ h4 h44 h50

/-- PERST takes the link down; of a port whose domain is on it empties the configuration space and disables the ring pairs. -/
theorem perstAssert_resets (s : State) {host : Nat} (h : host < 2) :
    ∃ t, exec (.perstAssert host) s = .next t ∧ (t.hport host).up = false ∧ (t.hport host).perst = true ∧
      (hostPowered s host = true → (t.hport host).cfg = [] ∧ ∀ r, r / 16 = host → (t.ring r).phase = .disabled) := by
  refine ⟨_, onUnit_of h _, ?_⟩
  cases hp : hostPowered s host
  · simp [modHost]
  · have e := resetPort_hport s host 4 (fun _ => []) (fun _ _ _ => rfl)
    have disabled : ∀ r, r / 16 = host → ((resetPort s host 4 (fun _ => [])).ring r).phase = .disabled :=
      fun r hr => resetPort_phase s hr 4 _
    simpa [modHost, e] using disabled

end Sys2Proof.Machine
end

section
/-! A host port's window, link, vectors and spaces (R463 to R473). -/

namespace Sys2Proof.Machine

open Sys2Proof Sys2Proof.Safety

/-! ### Committed memory without marks or redirects -/

theorem redirectPiece_none {s : State} (h : s.cmd.redirects = []) (n : Nat) : redirectPiece s n = none := by
  simp [redirectPiece, h]

/-- A piece that has neither marks nor a redirect reads good. -/
theorem readPiece_good {r : HbmReading} (hm : r.st.hbm.marks = []) (hr : r.st.cmd.redirects = []) (hs : r.state = .good)
    (p : Nat × Nat) : (readPiece r p).state = .good ∧ (readPiece r p).st = touchStack r.st p.1 := by
  have marks : (touchStack r.st p.1).hbm.marks = [] := hm
  have e := redirectPiece_none (s := touchStack r.st p.1) hr (p.1 / 256)
  unfold readPiece
  simp only [e, readGranule, readPlace_unmarked marks, hs]
  exact ⟨rfl, trivial⟩

theorem foldl_readPiece_good (ps : List (Nat × Nat)) {r : HbmReading} (hm : r.st.hbm.marks = []) (hr : r.st.cmd.redirects = [])
    (hs : r.state = .good) : (ps.foldl readPiece r).state = .good := by
  induction ps generalizing r with
  | nil => exact hs
  | cons p ps ih =>
    obtain ⟨good, st⟩ := readPiece_good hm hr hs p
    exact ih (by rw [st]; exact hm) (by rw [st]; exact hr) good

theorem hbmRead_good {s : State} (hm : s.hbm.marks = []) (hr : s.cmd.redirects = []) (off len : Nat) (remote : Bool) :
    (hbmRead s off len remote).2.1 = .good := foldl_readPiece_good (r := { st := s }) _ hm hr rfl

/-- A run within one granule is one piece. -/
theorem piecesOf_one {a n : Nat} (h : a % 256 + n ≤ 256) (hn : 0 < n) : piecesOf 256 a n = [(a, n)] := by
  have units : unitsOf 256 a n = [a / 256] := by
    rw [unitsOf, if_neg (by omega), show (a + n - 1) / 256 - a / 256 + 1 = 1 by omega]
    simp
  simp only [piecesOf, units, List.map_cons, List.map_nil, List.cons.injEq, Prod.mk.injEq, and_true]
  omega

/-- What storing in a granule leaves: the bytes are in memory, and beside HBM nothing changed. -/
theorem granuleWrite_frame (s : State) (g lo : Nat) (b : Bytes) (bad : Bool) :
    granuleWrite s g lo b bad = { s with hbm := (granuleWrite s g lo b bad).hbm } ∧
      (granuleWrite s g lo b bad).hbm.mem = memWrite zeroByte s.hbm.mem (g * 256 + lo) b := by
  unfold granuleWrite
  dsimp only
  split <;> exact ⟨rfl, rfl⟩

/-- A write within one granule that no redirect supplies lands at its place. -/
theorem hbmWrite_one {s : State} (hr : s.cmd.redirects = []) {a : Nat} {b : Bytes} (h : a % 256 + b.length ≤ 256) (hn : 0 < b.length)
    (bad : Bool) : hbmWrite s a b bad = { s with hbm := (hbmWrite s a b bad).hbm } ∧
      (hbmWrite s a b bad).hbm.mem = memWrite zeroByte s.hbm.mem (physKey s a) b := by
  have e : hbmWrite s a b bad = granuleWrite (touchStack s a) (granuleOf s a) (a % 256) b bad := by
    have none := redirectPiece_none (s := touchStack s a) hr (a / 256)
    simp only [hbmWrite, piecesOf_one h hn, List.foldl_cons, List.foldl_nil, Nat.sub_self, List.drop_zero, List.take_length,
      hbmWritePiece, none]
    rfl
  obtain ⟨frame, mem⟩ := granuleWrite_frame (touchStack s a) (granuleOf s a) (a % 256) b bad
  rw [e]
  exact ⟨frame, mem⟩

/-! ### The window (R469) -/

section
variable {s : State} {host off : Nat}

theorem bar2Read_committed {n : Nat} (h : Claims.HostUp s host) (h1 : beyondBar s host off n = false)
    (h2 : beyondHbm (windowOff s host off) n = false) (hr : refusal s .engine .read none 0 (windowOff s host off) n = 0)
    (hu : unitReady s 0 (windowOff s host off) n = true) (hm : s.hbm.marks = []) (hd : s.cmd.redirects = []) :
    ∃ t, exec (.bar2Read host off n) s = .next t ∧ t.out = .bar2 host (committedBytes s (windowOff s host off) n) false :: s.out ∧
      t.hbm.mem = s.hbm.mem ∧ t.tiles = s.tiles := by
  obtain ⟨bytes, touched⟩ := hbmRead_unmarked hm (windowOff s host off) n false
  have good := hbmRead_good hm hd (windowOff s host off) n false
  refine ⟨(hbmRead s (windowOff s host off) n false).2.2.emit (.bar2 host (committedBytes s (windowOff s host off) n) false),
    (hostUp_read h _).trans ?_, ?_, ?_, ?_⟩
  · simp [h1, h2, hr, hu, memRead', baseRead, good, bytes]
  · rw [State.emit_out, touched]
  · rw [State.emit_hbm, touched_mem touched]
  · rw [State.emit_tiles, touched]

theorem bar2Read_beyondBar {n : Nat} (h : Claims.HostUp s host) (h1 : beyondBar s host off n = true) :
    exec (.bar2Read host off n) s = .next { s with out := .bar2Unsupported host :: s.out } := by
  refine (hostUp_read h _).trans ?_
  simp only [h1, if_true]
  rfl

theorem bar2Write_beyondBar {b : Bytes} (h : Claims.HostUp s host) (h1 : beyondBar s host off b.length = true) (p : Bool) :
    exec (.bar2Write host off b p) s = .next s := by
  refine (hostUp_read h _).trans ?_
  simp only [h1, if_true]

theorem bar2Read_beyondHbm {n : Nat} (h : Claims.HostUp s host) (h1 : beyondBar s host off n = false)
    (h2 : beyondHbm (windowOff s host off) n = true) :
    ∃ t, exec (.bar2Read host off n) s = .next t ∧ OnlyLog s t ∧ .bar2Unsupported host ∈ t.out := by
  refine ⟨note (s.emit (.bar2Unsupported host)) 0x0B02 1 unitHost, (hostUp_read h _).trans ?_, note_emit_onlyLog _ _ _ _ _,
    mem_note_out (List.mem_cons_self ..) _ _ _⟩
  simp [h1, h2]

theorem bar2Read_refused {n : Nat} (h : Claims.HostUp s host) (h1 : beyondBar s host off n = false)
    (h2 : beyondHbm (windowOff s host off) n = false) (hr : refusal s .engine .read none 0 (windowOff s host off) n ≠ 0) :
    ∃ t, exec (.bar2Read host off n) s = .next t ∧ OnlyLog s t ∧ .bar2Abort host ∈ t.out := by
  refine ⟨windowRefused (s.emit (.bar2Abort host)) (refusal s .engine .read none 0 (windowOff s host off) n) (windowOff s host off),
    (hostUp_read h _).trans ?_, record_emit_onlyLog _ _ _,
    mem_record_out (List.mem_cons_self ..) _⟩
  simp [h1, h2, hr]

theorem bar2Write_lands {b : Bytes} (h : Claims.HostUp s host) (h1 : beyondBar s host off b.length = false)
    (h2 : beyondHbm (windowOff s host off) b.length = false)
    (hr : refusal s .engine .write none 0 (windowOff s host off) b.length = 0)
    (hu : unitReady s 0 (windowOff s host off) b.length = true) (hd : s.cmd.redirects = [])
    (hl : windowOff s host off % 256 + b.length ≤ 256) (hn : 0 < b.length) (hw : Mem.wf zeroByte s.hbm.mem = true) :
    ∃ t, exec (.bar2Write host off b false) s = .next t ∧
      memRead zeroByte t.hbm.mem (physKey s (windowOff s host off)) b.length = b ∧ t.tiles = s.tiles ∧
      (∀ x, x < physKey s (windowOff s host off) ∨ physKey s (windowOff s host off) + b.length ≤ x →
        memByte zeroByte t.hbm.mem x = memByte zeroByte s.hbm.mem x) ∧ t.log = s.log := by
  obtain ⟨frame, mem⟩ := hbmWrite_one hd hl hn false
  refine ⟨hbmWrite s (windowOff s host off) b false, (hostUp_read h _).trans ?_, ?_, ?_, fun x hx => ?_, ?_⟩
  · simp [h1, h2, hr, hu, memWrite']
  · rw [mem]
    exact memRead_memWrite _ _ _ _ hw
  · rw [frame]
  · rw [mem]
    exact memByte_memWrite_outside _ _ _ _ _ hw hx
  · rw [frame]

theorem bar2Write_beyondHbm {b : Bytes} (h : Claims.HostUp s host) (h1 : beyondBar s host off b.length = false)
    (h2 : beyondHbm (windowOff s host off) b.length = true) (p : Bool) :
    ∃ t, exec (.bar2Write host off b p) s = .next t ∧ OnlyLog s t := by
  refine ⟨note s 0x0B02 1 unitHost, (hostUp_read h _).trans ?_, note_onlyLog _ _ _ _⟩
  simp [h1, h2]

end

/-! ### The link (R463, R472) -/

/-- The state in which a port's link is up as it trained. -/
def linkedUp (s : State) (host : Nat) (speed : BitVec 3) (lanes : BitVec 4) : State :=
  modHost s host (fun h => { h with perst := false, up := true, speed := speed, width := lanes, flit := speed == 6 })

theorem hostLinkTrain_next {s : State} {host : Nat} {speed : BitVec 3} {lanes : BitVec 4} (h : host < 2)
    (hp : hostPowered s host = true) (hd : (s.hport host).up = false) (hl : linkOk speed lanes = true) (ht : trainingEnded s = true) :
    exec (.hostLinkTrain host speed lanes) s = .next (mirrorEarly (linkedUp s host speed lanes)) := by
  refine (onUnit_of h _).trans ?_
  simp only [hp, hd, hl, ht]
  rfl

theorem hostLinkTrain_up {s : State} {host : Nat} {speed : BitVec 3} {lanes : BitVec 4} (h : host < 2)
    (hp : hostPowered s host = true) (hd : (s.hport host).up = false) (hl : linkOk speed lanes = true) (ht : trainingEnded s = true) :
    ∃ t, exec (.hostLinkTrain host speed lanes) s = .next t ∧ t = { s with host := t.host, log := t.log, out := t.out } ∧
      (s.log.mirEn = false → t = { s with host := t.host }) ∧ t.log.early = s.log.early ∧ (t.hport host).up = true ∧
      (t.hport host).perst = false ∧ (t.hport host).speed = speed ∧ (t.hport host).width = lanes ∧
      (t.hport host).flit = decide (speed = 6) ∧ t.hport (1 - host) = s.hport (1 - host) := by
  have frame := (mirrorEarly_mirrored (linkedUp s host speed lanes)).frame
  have port : (mirrorEarly (linkedUp s host speed lanes)).hport host = (linkedUp s host speed lanes).hport host := by rw [frame]; rfl
  have self : (linkedUp s host speed lanes).hport host =
      { s.hport host with perst := false, up := true, speed := speed, width := lanes, flit := speed == 6 } :=
    State.hport_setHport_self ..
  refine ⟨_, hostLinkTrain_next h hp hd hl ht, ?_, fun hm => ?_, ?_, ?_, ?_, ?_, ?_, ?_, ?_⟩
  · rw [frame]
    rfl
  · have quiet : mirroring (linkedUp s host speed lanes) = false := by
      show (s.log.mirEn && _) = false
      rw [hm]
      rfl
    rw [mirrorEarly, quiet]
    rfl
  · rw [frame]
    rfl
  · rw [port, self]
  · rw [port, self]
  · rw [port, self]
  · rw [port, self]
  · rw [port, self]
    rfl
  · rw [frame]
    exact State.hport_setHport_ne s _ (by omega)

end Sys2Proof.Machine
end

section
/-! A host port's vectors, BAR4 and configuration space, and the obligation on host ports (R465 to R467, R473). -/

namespace Sys2Proof.Machine

open Sys2Proof Sys2Proof.Safety

/-! ### Vectors (R473) -/

theorem sendMessage_out (s : State) (p v : Nat) :
    (sendMessage s p v).out = .msix p v (vectorOf s p v).addr (vectorOf s p v).data :: s.out := rfl

theorem sendMessage_sent (s : State) (p v : Nat) : ((sendMessage s p v).hport p).sent = satInc (s.hport p).sent := by
  simp [sendMessage]

theorem setVector_out (s : State) (p v : Nat) (x : Vector256) : (setVector s p v x).out = s.out := rfl

theorem setVector_sent (s : State) (p v : Nat) (x : Vector256) : ((setVector s p v x).hport p).sent = (s.hport p).sent := by
  simp [setVector]

/-- A vector's point to send: its pending bit while it is masked, else its message. -/
theorem vectorFire_effect (s : State) (host v : Nat) :
    (vectorOf (vectorFire s host v) host v).count = 0 ∧
      (if (vectorOf s host v).masked = true then (vectorOf (vectorFire s host v) host v).pba = true ∧ (vectorFire s host v).out = s.out
       else (vectorFire s host v).out = .msix host v (vectorOf s host v).addr (vectorOf s host v).data :: s.out ∧
        ((vectorFire s host v).hport host).sent = satInc (s.hport host).sent) := by
  unfold vectorFire
  dsimp only
  split
  · rw [vectorOf_setVector_self]
    exact ⟨rfl, rfl, rfl⟩
  · rw [vectorOf_sendMessage, sendMessage_out, sendMessage_sent, setVector_sent, vectorOf_setVector_self]
    exact ⟨rfl, rfl, rfl⟩

theorem msixModerationTimer_fires {s : State} {host v : Nat} (h : host < 2) (hv : v < 256) (ht : (vectorOf s host v).timing = true)
    (hc : 0 < (vectorOf s host v).count)
    (hp : (vectorOf s host v).firstAt + (s.hport host).modTime.toNat * 1200 ≤ s.clk) :
    exec (.msixModerationTimer host v) s = .next (vectorFire s host v) := by
  refine (onUnit_of h _).trans ((onUnit_of hv _).trans ?_)
  have due : s.passed (vectorOf s host v).firstAt (s.hport host).modTime.toNat = true := decide_eq_true hp
  simp [ht, hc, due]

theorem portEvent_unmask (s : State) (host v : Nat) : PortEvent host s (unmask s host v) := by
  unfold unmask
  dsimp only
  split
  · exact (portEvent_setVector s host v _).trans (portEvent_sendMessage _ host v)
  · exact portEvent_setVector s host v _

/-- An unmasked vector sends the message that waits for it. -/
theorem unmask_effect (s : State) (host v : Nat) :
    (vectorOf (unmask s host v) host v).masked = false ∧ (vectorOf (unmask s host v) host v).pba = false ∧
      (unmask s host v).out = (if (vectorOf s host v).pba = true then
        .msix host v (vectorOf s host v).addr (vectorOf s host v).data :: s.out else s.out) := by
  unfold unmask
  dsimp only
  split
  · rw [vectorOf_sendMessage, sendMessage_out, vectorOf_setVector_self]
    exact ⟨rfl, rfl, rfl⟩
  · rename_i clear
    rw [vectorOf_setVector_self]
    exact ⟨rfl, Bool.not_eq_true _ ▸ clear, rfl⟩

theorem msixVectorUnmask_next {s : State} {host v : Nat} (h : Claims.HostUp s host) (hv : v < 256) :
    exec (.msixVectorUnmask host v) s = .next (unmask s host v) := (onUnit_of hv _).trans (hostUp_read h _)

/-! ### BAR4 (R467) -/

theorem bar4Write_next {s : State} {host : Nat} (h : Claims.HostUp s host) (off : Nat) (v : W32) :
    exec (.registerWrite host off v .bar4) s = .next (writeBar4 s host off v.toNat) := hostUp_read h _

/-- A dword of a vector's entry is in the table. -/
theorem writeBar4_entry (s : State) (host : Nat) {k i : Nat} (hk : k < 256) (hi : i = 0 ∨ i = 4 ∨ i = 8) (v : Nat) :
    writeBar4 s host (16 * k + i) v = setVector s host k
      (if i = 0 then { vectorOf s host k with addr := BitVec.ofNat 64 ((vectorOf s host k).addr.toNat / 2 ^ 32 * 2 ^ 32 + v / 4 * 4) }
       else if i = 4 then { vectorOf s host k with addr := BitVec.ofNat 64 (v * 2 ^ 32 + (vectorOf s host k).addr.toNat % 2 ^ 32) }
       else { vectorOf s host k with data := BitVec.ofNat 32 v }) := by
  have entry : (16 * k + i) / 16 = k := by omega
  have dword : (16 * k + i) % 16 = i := by omega
  unfold writeBar4
  simp only [entry, dword]
  rw [if_neg (by omega)]
  rcases hi with rfl | rfl | rfl <;> rfl

/-- The low and the high word of an address fit in 64 bits. -/
theorem addr_lo_toNat (a : W64) (v : W32) :
    (BitVec.ofNat 64 (a.toNat / 2 ^ 32 * 2 ^ 32 + v.toNat / 4 * 4)).toNat = a.toNat / 2 ^ 32 * 2 ^ 32 + v.toNat / 4 * 4 := by
  have ha := a.isLt
  have hv := v.isLt
  rw [BitVec.toNat_ofNat]
  omega

theorem addr_hi_toNat (a : W64) (v : W32) :
    (BitVec.ofNat 64 (v.toNat * 2 ^ 32 + a.toNat % 2 ^ 32)).toNat = v.toNat * 2 ^ 32 + a.toNat % 2 ^ 32 := by
  have hv := v.isLt
  rw [BitVec.toNat_ofNat]
  omega

theorem bar4Write_entry {s : State} {host k : Nat} (h : Claims.HostUp s host) (hk : k < 256) (v : W32) :
    ∃ a b c, exec (.registerWrite host (16 * k) v .bar4) s = .next a ∧ exec (.registerWrite host (16 * k + 4) v .bar4) s = .next b ∧
      exec (.registerWrite host (16 * k + 8) v .bar4) s = .next c ∧
      a = { s with host := a.host } ∧ b = { s with host := b.host } ∧ c = { s with host := c.host } ∧
      (vectorOf a host k).addr.toNat = (vectorOf s host k).addr.toNat / 2 ^ 32 * 2 ^ 32 + v.toNat / 4 * 4 ∧
      (vectorOf b host k).addr.toNat = v.toNat * 2 ^ 32 + (vectorOf s host k).addr.toNat % 2 ^ 32 ∧
      (vectorOf c host k).data = v ∧ ∀ n, n ≠ k → vectorOf a host n = vectorOf s host n := by
  have lo := writeBar4_entry s host hk (Or.inl rfl) v.toNat
  have hi := writeBar4_entry s host hk (Or.inr (Or.inl rfl)) v.toNat
  have data := writeBar4_entry s host hk (Or.inr (Or.inr rfl)) v.toNat
  refine ⟨_, _, _, (bar4Write_next h _ v).trans (congrArg _ lo), (bar4Write_next h _ v).trans (congrArg _ hi),
    (bar4Write_next h _ v).trans (congrArg _ data), rfl, rfl, rfl, ?_, ?_, ?_, fun n hn => vectorOf_setVector_ne _ _ _ hn⟩
  · rw [vectorOf_setVector_self]
    exact addr_lo_toNat _ v
  · rw [vectorOf_setVector_self]
    exact addr_hi_toNat _ v
  · rw [vectorOf_setVector_self]
    exact ofNat_toNat_word v

theorem rcRegisterRead_bar4 {s : State} {host off : Nat} (h : Claims.HostUp s host) (hb : off < 2 ^ 13) (ha : off % 4 = 0) :
    exec (.rcRegisterRead host off .bar4) s =
      .next { s with out := .spaceRead host .bar4 off (BitVec.ofNat 32 (bar4Value (s.hport host) off)) :: s.out } := by
  refine (hostUp_read h _).trans ?_
  simp only [readBar4]
  rw [if_neg (by omega)]
  rfl

/-! ### Configuration space (R465, R466) -/

theorem rcRegisterRead_config {s : State} {host off : Nat} (h : Claims.HostUp s host) (hb : off < 2 ^ 12) (ha : off % 4 = 0)
    (ho : (cfgRow off).open_ = 0) :
    exec (.rcRegisterRead host off .config) s =
      .next { s with out := .spaceRead host .config off (BitVec.ofNat 32 (cfgValue (s.hport host) off)) :: s.out } := by
  refine (hostUp_read h _).trans ?_
  simp only [readConfig, ho, if_true]
  rw [if_neg (by omega)]
  rfl

/-- What a dword of an emptied configuration space holds: its value at reset. -/
theorem cfgWord_reset {h : HostPort} (he : h.cfg = []) (off : Nat) : cfgWord h off = (cfgRow off).reset % 2 ^ 32 := by
  simp [cfgWord, he, tget, tget?]

theorem config_at_reset {h : HostPort} (he : h.cfg = []) : cfgValue h 0x00 = 0x24161F3A ∧ cfgValue h 0x08 = 0x12000000 ∧
    cfgValue h 0x2C = 0x00011F3A ∧ bar2Size h = 2 ^ 30 ∧ powerState h = 0 := by
  have id : (cfgRow 0x00).reset = 0x24161F3A := by decide
  have cls : (cfgRow 0x08).reset = 0x12000000 := by decide
  have sub : (cfgRow 0x2C).reset = 0x00011F3A := by decide
  have size : (cfgRow 0x160).reset = 0xA22 := by decide
  have power : (cfgRow 0x44).reset = 0 := by decide
  simp [cfgValue, bar2Size, bar2Log, powerState, cfgWord_reset he, id, cls, sub, size, power, bits]

theorem configWrite_next {s : State} {host : Nat} (h : Claims.HostUp s host) (off : Nat) (v : W32) :
    exec (.registerWrite host off v .config) s = .next (writeConfig s host off v.toNat) := hostUp_read h _

/-- The bits of `BAR Size` of a number. -/
theorem and_barSize (n : Nat) : n &&& 0x3F00 = n / 2 ^ 8 % 2 ^ 6 * 2 ^ 8 := by
  apply Nat.eq_of_testBit_eq
  intro i
  rw [show (0x3F00 : Nat) = (2 ^ 6 - 1) <<< 8 from rfl, Nat.testBit_and, Nat.testBit_shiftLeft, Nat.testBit_two_pow_sub_one,
    Nat.testBit_mul_two_pow, Nat.testBit_mod_two_pow, Nat.testBit_div_two_pow]
  by_cases hi : 8 ≤ i
  · simp [hi, Bool.and_comm]
  · simp [hi]

/-- `BAR Size` after its bits were replaced. -/
theorem bits_barSize {w : Nat} (hw : w < 2 ^ 32) (v : Nat) :
    bits (BitVec.ofNat 32 (w - (w &&& 0x3F00) + (v &&& 0x3F00))).toNat 13 8 = bits v 13 8 := by
  simp only [and_barSize, bits, BitVec.toNat_ofNat]
  omega

theorem cfgStore_barSize (h : HostPort) {v : Nat} (h10 : 10 ≤ bits v 13 8) (h21 : bits v 13 8 ≤ 21) :
    bar2Size (cfgStore h 0x160 v) = 2 ^ (20 + bits v 13 8) := by
  have mask : cfgMask h 0x160 = 0x3F00 := by
    have row : (cfgRow 0x160).rw = 0x3F00 := by decide
    simp [cfgMask, row]
  have word := bits_barSize (w := cfgWord h 0x160) (BitVec.isLt _) v
  have e : (cfgStore h 0x160 v).cfg =
      tset h.cfg 0x160 (BitVec.ofNat 32 (cfgWord h 0x160 - (cfgWord h 0x160 &&& 0x3F00) + (v &&& 0x3F00))) := by
    simp [cfgStore, mask, cfgTakes, h10, h21]
  rw [bar2Size, bar2Log, cfgWord, e, tget_tset_self, word]

theorem configWrite_barSize {s : State} {host : Nat} (h : Claims.HostUp s host) {v : W32} (h10 : 10 ≤ bits v.toNat 13 8)
    (h21 : bits v.toNat 13 8 ≤ 21) :
    ∃ t, exec (.registerWrite host 0x160 v .config) s = .next t ∧ t = { s with host := t.host } ∧
      bar2Size (t.hport host) = 2 ^ (20 + bits v.toNat 13 8) := by
  have e : writeConfig s host 0x160 v.toNat = modHost s host (fun x => cfgStore x 0x160 v.toNat) := by
    simp [writeConfig, reportTolerance]
  refine ⟨_, (configWrite_next h _ v).trans (congrArg _ e), rfl, ?_⟩
  rw [modHost, State.hport_setHport_self]
  exact cfgStore_barSize _ h10 h21

/-- `Initiate FLR` acts as the reset. -/
theorem configWrite_flr {s : State} {host : Nat} (h : Claims.HostUp s host) {v : W32} (hb : bit v.toNat 15 = true) :
    exec (.registerWrite host 0x68 v .config) s = exec (.functionLevelReset host false) s := by
  rw [configWrite_next h, functionLevelReset_next h]
  simp [writeConfig, hb]

/-- The entry to D3hot acts as a reset. -/
theorem configWrite_d3hot {s : State} {host : Nat} (h : Claims.HostUp s host) {v : W32} (hv : v.toNat % 4 = 3)
    (hp : powerState (s.hport host) = 0) :
    exec (.registerWrite host 0x44 v .config) s = exec (.functionLevelReset host true) s := by
  rw [configWrite_next h, functionLevelReset_next h]
  simp [writeConfig, hv, hp]

/-- The return to D0 empties the configuration space. -/
theorem configWrite_d0 {s : State} {host : Nat} (h : Claims.HostUp s host) {v : W32} (hv : v.toNat % 4 = 0)
    (hp : powerState (s.hport host) = 3) :
    ∃ t, exec (.registerWrite host 0x44 v .config) s = .next t ∧ t = { s with host := t.host } ∧ (t.hport host).cfg = [] ∧
      (t.hport host).vectors = (s.hport host).vectors := by
  have e : writeConfig s host 0x44 v.toNat = modHost s host (fun x => { x with cfg := [] }) := by
    simp [writeConfig, hv, hp]
  refine ⟨_, (configWrite_next h _ v).trans (congrArg _ e), rfl, ?_, ?_⟩
  · simp [modHost]
  · simp [modHost]

/-! ### The obligation -/

/-- Settles O50: the window over committed memory, the resets through what they keep of ring pairs and ports, the spaces by
their own tables. -/
theorem hostPorts : Obligations.HostPorts := by
  unfold Obligations.HostPorts
  refine ⟨fun s host off n h h1 h2 hr hu hm hd => bar2Read_committed h h1 h2 hr hu hm hd,
    fun s host off n h h1 => bar2Read_beyondBar h h1, fun s host off b p h h1 => bar2Write_beyondBar h h1 p,
    fun s host off n h h1 h2 => bar2Read_beyondHbm h h1 h2, fun s host off n h h1 h2 hr => bar2Read_refused h h1 h2 hr,
    fun s host off b h h1 h2 hr hu _ hd hl hn hw => bar2Write_lands h h1 h2 hr hu hd hl hn hw,
    fun s host off b p h h1 h2 => bar2Write_beyondHbm h h1 h2 p,
    fun s host speed lanes h hp hd hl ht => hostLinkTrain_up h hp hd hl ht, fun s host h => perstAssert_resets s h,
    fun s host d3hot h => functionLevelReset_resets h d3hot, fun s host v h hv ht hc hp => ?timer, fun s host v h hv => ?unmask,
    fun s host k v h hk => bar4Write_entry h hk v, fun s host off h hb ha => rcRegisterRead_bar4 h hb ha,
    fun s host off h hb ha ho => rcRegisterRead_config h hb ha ho, fun h he => config_at_reset he,
    fun s host v h h10 h21 => configWrite_barSize h h10 h21, fun s host v h hb => configWrite_flr h hb,
    fun s host v h hv hp => configWrite_d3hot h hv hp, fun s host v h hv hp => configWrite_d0 h hv hp⟩
  case timer =>
    obtain ⟨count, sent⟩ := vectorFire_effect s host v
    exact ⟨_, msixModerationTimer_fires h hv ht hc hp, count, (portEvent_vectorFire s host v).frame, sent⟩
  case unmask =>
    obtain ⟨masked, pba, out⟩ := unmask_effect s host v
    exact ⟨_, msixVectorUnmask_next h hv, masked, pba, (portEvent_unmask s host v).frame, out⟩

end Sys2Proof.Machine
end

section
/-! A pipe's declaration and the counters of its side (R152, R309). -/

namespace Sys2Proof.Machine

open Sys2Proof

/-- A record of R308: the sending side of a pipe to device 7, whose counters are 20 and 21 of tile 1151, with two slots. -/
def senderRecord : Bytes :=
  layout 256 [(0, 1, 1), (2, 2, 7), (4, 1, 3), (5, 1, 31), (6, 2, 1151), (8, 1, 20), (9, 1, 21), (16, 8, 0xFFF0000001000000), (24, 4, 2)]

/-- The PIPE DECLARE descriptor of pipe 6 whose record is at HBM 0. -/
def senderDesc : Desc := { index := 0, raw := layout 64 [(0, 1, 0x11), (9, 1, 6), (16, 8, 0xFFF0000000000000)] }

/-- A powered, trained part whose ring pair 0 holds that descriptor. -/
def senderPart : State :=
  let s : State := { ({} : State) with
    hbm := { stk := (List.range 24).map (fun k => (k, { trained := true })), mem := memWrite zeroByte [] (physKey {} 0) senderRecord }
    pwr := { phase := .run, domains := List.range 156 } }
  s.setRing 0 { phase := .active, size := 64, descs := [senderDesc] }

/-- The same part in a control cycle that has added 5 to counter 20 of tile 1151. -/
def countedPart : State := addCounter senderPart 1151 20 5

/-- A read answered with a declaration record that may stand for a pipe not yet declared. -/
def readsPipe (b : Bytes) (pipe : Nat) : RingRead → Bool
  | .ok c v => c == b && pipeOk v b && (tget? v.job.pipes pipe).isNone
  | _ => false

theorem ok_of_readsPipe {b : Bytes} {pipe : Nat} {r : RingRead} (h : readsPipe b pipe r = true) :
    ∃ v, r = .ok b v ∧ pipeOk v b = true ∧ tget? v.job.pipes pipe = none := by
  unfold readsPipe at h
  split at h
  · rename_i c v
    simp only [Bool.and_eq_true, beq_iff_eq, Option.isNone_iff_eq_none] at h
    obtain ⟨⟨rfl, hp⟩, hn⟩ := h
    exact ⟨v, rfl, hp, hn⟩
  · simp at h

theorem countedPart_runs : Claims.Runs countedPart 0 senderDesc 0x11 0 := by
  unfold Claims.Runs
  decide +kernel

theorem countedPart_reads :
    readsPipe senderRecord (pipeNum senderDesc) (ringRead (beginDesc countedPart 0 senderDesc) 0 (addrOff (opndAddr senderDesc 16)) 256) = true := by
  decide +kernel

/-- The value of counter 20 of tile 1151 after a command. -/
def heldAfter : Res → W32
  | .next t => t.counter 1151 20
  | _ => 0

theorem countedPart_holds : heldAfter (exec (.pipeDeclare 0) countedPart) = 5 := by decide +kernel

/-- Refutes O38: the clause on PIPE DECLARE has the pipe's counters read 0 after it, but a set takes effect before the
increments of its control cycle (R152), so a counter to which this control cycle has added 5 reads 5. -/
theorem not_jobLockAndPipes : ¬ Obligations.JobLockAndPipes := by
  unfold Obligations.JobLockAndPipes
  rintro ⟨-, -, -, -, declares, -⟩
  obtain ⟨v, hr, hp, hn⟩ := ok_of_readsPipe countedPart_reads
  obtain ⟨t, ht, -, -, -, -, counters⟩ :=
    declares countedPart 0 senderDesc senderRecord v countedPart_runs (by decide +kernel) (by decide +kernel) hr hp hn (by decide +kernel)
  have zero : t.counter 1151 20 = 0 := (counters 1151 20).trans (if_pos (by decide +kernel))
  have five : t.counter 1151 20 = 5 := by
    have := countedPart_holds
    rwa [ht] at this
  rw [zero] at five
  exact absurd five (by decide)

end Sys2Proof.Machine
end

section
/-! Which commands go on (R15 to R20, R260, R273, R308, R325, R363, R406): a command answers through the frames that test the
units it names, and past the frames every branch is a next state. A command whose step is not due, or that is refused, goes on
too (DESIGN CHOICE, log entry 5). -/

namespace Sys2Proof.Machine

open Sys2Proof

/-! ### What a command may answer -/

/-- The outcome is a next state. -/
def Goes (r : Res) : Prop := ∃ t, r = .next t

/-- The outcome is a next state, or, where `named` is false, the fault that a named unit does not exist. -/
def Answers (named : Bool) (r : Res) : Prop := Goes r ∨ named = false ∧ r = .fault .noSuchUnit

theorem goes_next {s : State} : Goes (.next s) := ⟨s, rfl⟩

theorem goes_ite {c : Prop} [Decidable c] {a b : Res} (ha : Goes a) (hb : Goes b) : Goes (if c then a else b) := by
  split
  · exact ha
  · exact hb

theorem Goes.answers {r : Res} {named : Bool} (h : Goes r) : Answers named r := Or.inl h

theorem Answers.goes {named : Bool} {r : Res} (h : Answers named r) (k : named = true) : Goes r := by
  obtain h | ⟨hn, -⟩ := h
  · exact h
  · rw [k] at hn
    contradiction

theorem Answers.fault_or_goes {named : Bool} {r : Res} (h : Answers named r) : r = .fault .noSuchUnit ∨ Goes r := by
  obtain h | ⟨-, hf⟩ := h
  · exact Or.inr h
  · exact Or.inl hf

theorem answers_ite {named : Bool} {c : Prop} [Decidable c] {a b : Res} (ha : Answers named a) (hb : Answers named b) :
    Answers named (if c then a else b) := by
  split
  · exact ha
  · exact hb

theorem answers_noSuchUnit {named : Bool} {p : Prop} (h : named = true → p) (k : ¬p) : Answers named (.fault .noSuchUnit) :=
  Or.inr ⟨Bool.eq_false_iff.mpr (fun e => k (h e)), rfl⟩

/-! ### The frames of a named unit -/

theorem answers_onTile {named : Bool} {tile : Nat} {r : Res} (h : named = true → tile < 1152) (hr : Answers named r) :
    Answers named (onTile tile r) := by
  unfold onTile
  split
  · exact hr
  · next k => exact answers_noSuchUnit h k

theorem answers_onSlot {named : Bool} {tile slot : Nat} {r : Res} (h : named = true → tile < 1152 ∧ slot < 2048)
    (hr : Answers named r) : Answers named (onSlot tile slot r) := by
  unfold onSlot
  split
  · exact hr
  · next k => exact answers_noSuchUnit h k

theorem answers_onUnit {named : Bool} {n k : Nat} {r : Res} (h : named = true → k < n) (hr : Answers named r) :
    Answers named (onUnit n k r) := by
  by_cases hk : k < n
  · rwa [onUnit_of hk]
  · rw [onUnit_none hk]
    exact answers_noSuchUnit h hk

/-! What `Instr.wf` says of two units. -/

theorem named_left {p : Prop} [Decidable p] {b : Bool} (h : (decide p && b) = true) : p :=
  of_decide_eq_true (Bool.and_eq_true_iff.mp h).1

theorem named_right {b : Bool} {q : Prop} [Decidable q] (h : (b && decide q) = true) : q :=
  of_decide_eq_true (Bool.and_eq_true_iff.mp h).2

theorem named_and {p q : Prop} [Decidable p] [Decidable q] (h : (decide p && decide q) = true) : p ∧ q :=
  ⟨named_left h, named_right h⟩

/-! ### The frames of a thread's instruction -/

section
variable {named sgn : Bool} {tile slot opc n : Nat} {s : State} (h : named = true → tile < 1152 ∧ slot < 2048)
include h

theorem answers_issue {body : Thread → W32 → State → State} : Answers named (issue opc tile slot s body) := by
  refine answers_onSlot h (Goes.answers ?_)
  split
  · exact goes_next
  · exact goes_ite (goes_ite goes_next goes_next) goes_next

theorem answers_issueReg {f : Thread → W32 → Thread} : Answers named (issueReg opc tile slot s f) := answers_issue h

theorem answers_issueA {f : W64 → W64 → W64} : Answers named (issueA opc tile slot s f) := answers_issueReg h

theorem answers_issueB {f : W64 → W64 → W64} : Answers named (issueB opc tile slot s f) := answers_issueReg h

theorem answers_issueLoad : Answers named (issueLoad opc n sgn tile slot s) := answers_issue h

theorem answers_issueLoadG : Answers named (issueLoadG opc n sgn tile slot s) := answers_issue h

theorem answers_issueStore : Answers named (issueStore opc n tile slot s) := answers_issue h

theorem answers_issueStoreG : Answers named (issueStoreG opc n tile slot s) := answers_issue h

end

/-! ### The frames of an engine's instruction -/

section
variable {named : Bool} {tile op n cycles : Nat} {s : State} (h : named = true → tile < 1152)
include h

theorem answers_startMatrix {ready : Tile → Bool} {body : W128 → State → State} :
    Answers named (startMatrix op tile ready s body) := by
  refine answers_onTile h (Goes.answers ?_)
  split
  · exact goes_next
  · exact goes_next

theorem answers_startVector {body : W128 → State → State} : Answers named (startVector op tile s body) := by
  refine answers_onTile h (Goes.answers ?_)
  split
  · exact goes_next
  · exact goes_next

theorem answers_startPack {kind : Nat} {body : W128 → List VSpec → PackLayout → State → State} :
    Answers named (startPack op kind tile s body) := answers_startVector h

theorem answers_execLanes {aux : Nat → Bool} {f : W128 → List LaneIn → Lane} :
    Answers named (execLanes op n cycles tile aux s f) := answers_startVector h

theorem answers_execTwo {g : FpNum → FpNum → FpNum × Bool} : Answers named (execTwo op tile s g) := answers_execLanes h

theorem answers_execFunction {g : FpNum → FnResult} : Answers named (execFunction op cycles tile s g) := answers_execLanes h

theorem answers_execBits {f : Tile → List VSpec → Nat → W32} : Answers named (execBits op n tile s f) := answers_startVector h

theorem answers_startCopy {body : W128 → CopyBlock → State → State} : Answers named (startCopy op tile s body) := by
  refine answers_onTile h (Goes.answers ?_)
  split
  · exact goes_next
  · exact goes_ite goes_next <| goes_ite goes_next <| goes_ite goes_next <| goes_ite goes_next <|
      goes_ite goes_next <| goes_ite goes_next goes_next

end

/-! ### The frames of a descriptor and of a packet -/

theorem answers_startDesc {named : Bool} {opc op ring : Nat} {s : State} {body : Desc → State → State}
    (h : named = true → ring < 32) : Answers named (startDesc opc op ring s body) := by
  refine answers_onUnit h (Goes.answers ?_)
  split
  · exact goes_next
  · exact goes_ite goes_next <| goes_ite goes_next <| goes_ite goes_next <| goes_ite goes_next goes_next

theorem goes_onDelivered {typ : Byte} {cls src : Nat} {s : State} {body : Packet → Bool → State → State → State} :
    Goes (onDelivered typ cls src s body) := by
  unfold onDelivered
  split
  · exact goes_next
  · exact goes_next

section
variable {named : Bool} {port : Nat} {s : State} {body : Packet → State → State} (h : named = true → port < 16)
include h

theorem answers_onArrived {isMine : Packet → Bool} : Answers named (onArrived port s isMine body) := by
  refine answers_onUnit h (Goes.answers ?_)
  split
  · exact goes_next
  · exact goes_next

theorem answers_onType {typ : Byte} : Answers named (onType typ port s body) := answers_onArrived h

theorem answers_onMgmt {kind : Nat} : Answers named (onMgmt kind port s body) := answers_onArrived h

end

/-! ### The frames of a host port's register access -/

section
variable {named : Bool} {host : Nat} {s r : State} (h : named = true → host < 2)
include h

theorem answers_setupWrite : Answers named (setupWrite host s r) :=
  answers_onUnit h (goes_ite (goes_ite goes_next goes_next) goes_next).answers

theorem answers_portWrite {own : Nat} : Answers named (portWrite host own s r) :=
  answers_onUnit h (goes_ite (goes_ite goes_next goes_next) goes_next).answers

theorem answers_portRead : Answers named (portRead host s r) := answers_onUnit h (goes_ite goes_next goes_next).answers

theorem answers_handoverWrite : Answers named (handoverWrite host s r) := answers_onUnit h (goes_ite goes_next goes_next).answers

/-- A register that no write changes. -/
theorem answers_unwritten : Answers named (onUnit 2 host (.next s)) := answers_onUnit h goes_next.answers

theorem answers_primaryWrite {w : Option State} : Answers named (primaryWrite host s w) := by
  cases w with
  | none => exact answers_unwritten h
  | some t => exact answers_setupWrite h

theorem answers_ownWrite {p : Nat} {w : Option State} : Answers named (ownWrite host p s w) := by
  cases w with
  | none => exact answers_unwritten h
  | some t => exact answers_portWrite h

end

/-! ### A write of BAR0, block by block (R4, R474) -/

/-- The place that `indexAt` finds is one of the `n`. -/
theorem lt_of_indexAt {off base stride n i : Nat} (h : indexAt off base stride n = some i) : i < n := by
  unfold indexAt at h
  split at h
  · next hin => exact Option.some.inj h ▸ hin.2
  · contradiction

section
variable {named : Bool} {host off v : Nat} {s : State} (h : named = true → host < 2)
include h

theorem answers_writeHover : Answers named (writeHover host v s) := by
  unfold writeHover
  dsimp only
  split
  · exact answers_unwritten h
  · exact answers_handoverWrite h
  · exact answers_handoverWrite h
  · exact answers_handoverWrite h
  · exact answers_handoverWrite h

theorem answers_writeRingBlock : Answers named (writeRingBlock host off v s) := by
  unfold writeRingBlock
  split
  · exact answers_ownWrite h
  · exact answers_ownWrite h
  · exact answers_primaryWrite h

theorem answers_writePwrBlock : Answers named (writePwrBlock host off v s) := by
  unfold writePwrBlock
  split
  · exact answers_setupWrite h
  · exact answers_setupWrite h
  · exact answers_setupWrite h
  · exact answers_primaryWrite h

theorem answers_writeTimeBlock : Answers named (writeTimeBlock host off v s) := by
  unfold writeTimeBlock
  split
  · exact answers_setupWrite h
  · exact answers_setupWrite h
  · exact answers_primaryWrite h

theorem answers_writeMemBlock : Answers named (writeMemBlock host off v s) := by
  unfold writeMemBlock
  split
  · exact answers_ite (answers_setupWrite h) (answers_primaryWrite h)
  · exact answers_setupWrite h
  · exact answers_primaryWrite h

/-- The device and the window of a register of the block exist. -/
theorem answers_writeFabBlock : Answers named (writeFabBlock host off v s) := by
  refine answers_ite (answers_setupWrite h) (answers_ite (answers_setupWrite h) ?_)
  split
  · next hd => exact answers_ite (answers_onUnit (fun _ => lt_of_indexAt hd) (answers_setupWrite h)) (answers_primaryWrite h)
  · next hw => exact answers_ite (answers_onUnit (fun _ => lt_of_indexAt hw) (answers_setupWrite h)) (answers_primaryWrite h)
  · exact answers_primaryWrite h

theorem answers_writeReg : Answers named (writeReg host off v s) := by
  refine answers_ite (answers_unwritten h) <| answers_ite (answers_writeHover h) <| answers_ite (answers_primaryWrite h) <|
    answers_ite (answers_writeRingBlock h) <| answers_ite ?irq <| answers_ite (answers_primaryWrite h) <|
    answers_ite (answers_writePwrBlock h) <| answers_ite (answers_writeTimeBlock h) <| answers_ite (answers_primaryWrite h) <|
    answers_ite (answers_writeMemBlock h) <| answers_ite (answers_writeFabBlock h) <| answers_ite (answers_primaryWrite h) <|
    answers_ite (answers_setupWrite h) <| answers_ite (answers_primaryWrite h) (answers_unwritten h)
  case irq =>
    split
    · exact answers_ownWrite h
    · exact answers_unwritten h

theorem answers_registerWrite {value : W32} {space : HostSpace} : Answers named (execRegisterWrite host off value s space) := by
  cases space with
  | bar0 => exact answers_ite (answers_unwritten h) (answers_ite (answers_portRead h) (answers_writeReg h))
  | bar4 => exact answers_portRead h
  | config => exact answers_portRead h

end

/-! ### Commands of more than one unit's frame -/

theorem answers_fenceComplete (who : Fencer) (s : State) : Answers who.wf (execFenceComplete who s) := by
  cases who with
  | thread tile slot =>
    refine answers_onSlot named_and (Goes.answers ?_)
    split
    · exact goes_next
    · exact goes_next
  | ring r =>
    refine answers_onUnit of_decide_eq_true (Goes.answers ?_)
    split
    · split
      · exact goes_next
      · exact goes_next
    · exact goes_next

theorem answers_fenceTimeoutExpire (who : Fencer) (s : State) : Answers who.wf (execFenceTimeoutExpire who s) := by
  cases who with
  | thread tile slot =>
    refine answers_onSlot named_and (Goes.answers ?_)
    split
    · exact goes_next
    · exact goes_next
  | ring r =>
    refine answers_onUnit of_decide_eq_true (Goes.answers ?_)
    split
    · split
      · exact goes_next
      · exact goes_next
      · exact goes_next
    · exact goes_next

theorem answers_copyFenceTimeout (who : Mover) (s : State) : Answers who.wf (execCopyFenceTimeout who s) := by
  cases who with
  | engine tile copy =>
    refine answers_onTile of_decide_eq_true (Goes.answers ?_)
    split
    · exact goes_next
    · exact goes_next
  | ring r =>
    refine answers_onUnit of_decide_eq_true (Goes.answers ?_)
    split
    · split
      · exact goes_next
      · exact goes_next
    · exact goes_next

theorem answers_hostReadFailure (who : HostReader) (s : State) : Answers who.wf (execHostReadFailure who s) := by
  cases who with
  | doorbell host => exact answers_onUnit of_decide_eq_true (goes_ite goes_next goes_next).answers
  | fetch ring => exact answers_onUnit of_decide_eq_true goes_next.answers
  | descriptor ring =>
    dsimp only [execHostReadFailure, descReadFails]
    split
    · exact answers_onUnit of_decide_eq_true goes_next.answers
    · exact answers_startDesc of_decide_eq_true
  | thread tile slot =>
    refine answers_onSlot named_and (Goes.answers ?_)
    split
    · split
      · exact goes_next
      · exact goes_next
    · exact goes_next
  | copy tile copy =>
    refine answers_onTile of_decide_eq_true (Goes.answers ?_)
    split
    · exact goes_next
    · exact goes_next

section
variable {named : Bool} {ring : Nat} {s : State} (h : named = true → ring < 32)
include h

theorem answers_copy {outside : List OutsideLine} : Answers named (execCopy ring outside s) := by
  unfold execCopy
  split
  · exact answers_onUnit h goes_next.answers
  · exact answers_startDesc h

theorem answers_belay : Answers named (execBelay ring s) := by
  unfold execBelay
  split
  · exact answers_onUnit h goes_next.answers
  · exact answers_startDesc h

end

/-- An answer of a partner waits for HBM before it is taken. -/
theorem answers_mgmtPartnerAnswer {named : Bool} {port : Nat} {s : State} (h : named = true → port < 16) :
    Answers named (execMgmtPartnerAnswer port s) := answers_ite goes_next.answers (answers_onMgmt h)

/-! ### Every command -/

/-- Commands of one frame stand together: thread instructions, engines, descriptors, packets, register accesses, events of one
unit or of two, commands of several frames, and commands that name no unit they test. Where a command has branches of its own,
the values it names on the way are put in and each branch is looked at. -/
theorem exec_answers (i : Instr) (s : State) : Answers i.wf (exec i s) := by
  cases i with dsimp only [exec, Instr.wf]
  | br | brl | jr | atoml | atomg | enq | waitc | ctr | bar | fence | rand | exit => exact answers_issue named_and
  | nop | shi | cmp | cmpi | plog | yield | time | sreg | tmap => exact answers_issueReg named_and
  | add | sub | mul | mulh | and | or | xor | shl | shr | sar | min | max | minu | maxu => exact answers_issueA named_and
  | addi | andi | ori | xori | shli | shri | sari => exact answers_issueB named_and
  | ldl1 | ldl2 | ldl4 | ldl8 | ldls1 | ldls2 | ldls4 => exact answers_issueLoad named_and
  | stl1 | stl2 | stl4 | stl8 => exact answers_issueStore named_and
  | ldg1 | ldg2 | ldg4 | ldg8 | ldgs1 | ldgs2 | ldgs4 => exact answers_issueLoadG named_and
  | stg1 | stg2 | stg4 | stg8 => exact answers_issueStoreG named_and
  | mload | mswap | mrun => exact answers_startMatrix of_decide_eq_true
  | vred | vcvt | vld | vst | rmm => exact answers_startVector of_decide_eq_true
  | vfma | vcmp => exact answers_execLanes of_decide_eq_true
  | vadd | vsub | vmul | vmin | vmax => exact answers_execTwo of_decide_eq_true
  | vexp2 | vlog2 | vrcp | vrsq => exact answers_execFunction of_decide_eq_true
  | vsel | vtrn | vmov => exact answers_execBits of_decide_eq_true
  | vpack | vunpk | vsg1 => exact answers_startPack of_decide_eq_true
  | cpy | csig => exact answers_startCopy of_decide_eq_true
  | launch | launchReplayList | memRepair | region | invalidate | bucketDeclare | bucketArm | bucketRelease | jobLockLock
  | jobLockUnlock | pipeDeclare | pipeRemove | gather | pace | fenceDescriptor | wait | signal | timed | pitchOpen
  | pitchAbort | snapshotDeclare | snapshotTake | snapshotRelease | snapshotDiscard | restoreLoad | restorePromote
  | cursorSet | cursorBind | hint | envelope | tileCfg | descriptorNop => exact answers_startDesc of_decide_eq_true
  | packetForward | packetReorder | status | sprepAnswer => exact answers_onArrived of_decide_eq_true
  | ack | aresult => exact answers_onType of_decide_eq_true
  | mgmtPaceReport | mgmtGroupPace | mgmtPartnerQuery => exact answers_onMgmt of_decide_eq_true
  | read | write | writem | atomic | signalPacket | cread | inv | publish | red | pipe | sprep | scommit | sdiscard
  | squery => exact goes_onDelivered.answers
  | mrcommitGo | fdevWrite | frlcWrite | frlcFlush | rsrgoCommit | rsrgoDiscard | snctlEnWrite | pcapWrite | pwinWrite
  | pfixWrite | envclr | tepochWrite | tsethiWrite | sfadvGo | sattGo | smrxGo | sdgoGo | sfcmdErase | sfcmdProgram
  | sfcmdRead | elogWrite | emirctlWrite => exact answers_setupWrite of_decide_eq_true
  | mretWrite => exact answers_setupWrite named_left
  | hoverOffer | hoverAccept | hoverClaim => exact answers_handoverWrite of_decide_eq_true
  | tnowloRead | bar2Read | bar2Write | functionLevelReset | rcRegisterRead | bar0BadAccess =>
    exact answers_portRead of_decide_eq_true
  | pctlEnWrite | pctlRetrain | rhiWrite | fcwhiWrite => exact answers_onUnit named_right (answers_setupWrite named_left)
  | rctlEnWrite | rctlRestart => exact answers_onUnit named_right (answers_portWrite named_left)
  | msixVectorUnmask => exact answers_onUnit named_right (answers_portRead named_left)
  | msixModerationTimer => exact answers_onUnit named_left (answers_onUnit named_right goes_next.answers)
  | hbmTrainingComplete | tileRowPowerOn | bankClearComplete | hbmRefresh | hbmStallTimeout | hbmSelfRefreshEnter
  | laneLockLoss | linkReplayTimeout | linkRxTimeout | timeSampleSend | ropeCardSend | cardTimeout | replyCacheExpire
  | scatterClose | pushedClose | belayPrepareTimeout | hostLinkTrain | partnerCopyTimeout | hbmSelfRefreshExit =>
    exact answers_onUnit of_decide_eq_true goes_next.answers
  | bankEccWriteback => exact answers_onTile of_decide_eq_true goes_next.answers
  | bankRetentionEnter | bankWakeComplete => exact answers_onTile named_left (answers_onUnit named_right goes_next.answers)
  | mloadComplete | mrunRowWrite | mrunCheckSlot | mrunComplete | vectorComplete | copyLineLand | copyComplete
  | launchTileStart | launchTileEnd | tileCfgTakeEffect | matrixReservedOpcode | vectorReservedOpcode
  | copyReservedOpcode =>
    refine answers_onTile of_decide_eq_true (Goes.answers ?_)
    dsimp only [Goes]
    repeat' split
    all_goals exact ⟨_, rfl⟩
  | globalLoadReply | globalStoreAccept | waitcRelease | yieldExpire | icacheFill | threadReservedOpcode =>
    refine answers_onSlot named_and (Goes.answers ?_)
    dsimp only [Goes]
    repeat' split
    all_goals exact ⟨_, rfl⟩
  | edgeBeatReceive | hbmTempRead | linkTrained | flitSend | ropeCardEvaluate | rdata | recallResend | bucketFire
  | ringHop | ringClose | ringTimeout | pushFire | pipePackSend | pipeCreditReturn | gatherEntryIssue | doorbellPoll
  | descriptorFetch | completionRecordWrite | waitPoll | waitTimeout | timedRelease | belayComplete | pitchStopComplete
  | partnerQueryTimeout | captureComplete | drainStart | partnerCopyStep | drainEnd | sensorRead | perstAssert
  | descriptorReservedOpcode =>
    refine answers_onUnit of_decide_eq_true (Goes.answers ?_)
    dsimp only [Goes]
    repeat' split
    all_goals exact ⟨_, rfl⟩
  | flitReceive | contributionFold =>
    refine answers_onUnit named_left (Goes.answers ?_)
    dsimp only [Goes]
    repeat' split
    all_goals exact ⟨_, rfl⟩
  | nvmeCommandComplete =>
    refine answers_onUnit (fun h => named_left (Bool.and_eq_true_iff.mp h).1) <|
      answers_onUnit (fun h => named_right (Bool.and_eq_true_iff.mp h).1) (Goes.answers ?_)
    dsimp only [Goes]
    repeat' split
    all_goals exact ⟨_, rfl⟩
  | fenceComplete => exact answers_fenceComplete _ s
  | fenceTimeoutExpire => exact answers_fenceTimeoutExpire _ s
  | copyFenceTimeout => exact answers_copyFenceTimeout _ s
  | hostReadFailure => exact answers_hostReadFailure _ s
  | copy => exact answers_copy of_decide_eq_true
  | belay => exact answers_belay of_decide_eq_true
  | registerWrite => exact answers_registerWrite of_decide_eq_true
  | mgmtPartnerAnswer => exact answers_mgmtPartnerAnswer of_decide_eq_true
  | vauxRise | rootPllLock | bootVerify | pwrOkRise | pwrOkFall | resetNAssert | resetNRelease | vauxRemove | clockLoss
  | logRingUp | hbmCeWriteback | groupPaceTimeout | paceLostTimeout | handoverOfferLapse | powerSample | controlTick
  | throttleRecoverStep | floorTimeout | coolantReadTimeout | holdoverTimeout | floorAdvanceComplete | flashOpComplete
  | attest | unlock | mctpControlMessage | meshMessageDeliver | thermalComparatorTrip | leaderElection | recallComplete
  | writeWindowClose | paceReportSend | groupPaceSend | throttleStep | nvmeInitComplete | getLog | getSensors | getCert
  | getChal | getBoot => exact goes_next.answers
  | domainEnable | launchWatchdogExpire | launchFaultEnd | hbmPartialWriteFlush | mrcommitComplete | memRepairComplete
  | ackSend | streamRetryExpire | brokenStreamResend | requestRetryExpire | loadTimeoutExpire | creadAbandon | invResend
  | stagePacketResend | scommitResend | inDoubtQuery | stageBlockCopyHome | attestReportComplete | recallTimeout
  | coolantRead | hbmAccess =>
    refine Goes.answers ?_
    dsimp only [Goes, hbmAccess, execDomainEnable, execLaunchWatchdogExpire, execLaunchFaultEnd, execHbmPartialWriteFlush,
      execMrcommitComplete, execMemRepairComplete, execAckSend, execStreamRetryExpire, execBrokenStreamResend,
      execRequestRetryExpire, execLoadTimeoutExpire, execCreadAbandon, execInvResend, execStagePacketResend,
      execScommitResend, execInDoubtQuery, execStageBlockCopyHome, execAttestReportComplete, execRecallTimeout,
      execCoolantRead, execHbmAccess]
    repeat' split
    all_goals exact ⟨_, rfl⟩
  -- RECALL, the one command left: its name is a keyword of Mathlib and cannot stand here.
  | _ => exact goes_onDelivered.answers

/-- Settles O56: every command answers through the frames of the units it names, and past them every branch goes on. -/
theorem wellFormedCommandsRun : Obligations.WellFormedCommandsRun := by
  unfold Obligations.WellFormedCommandsRun
  exact ⟨fun i s h => (exec_answers i s).goes h, fun i s => (exec_answers i s).fault_or_goes⟩

end Sys2Proof.Machine
end

section
/-! What the end of an engine's instruction leaves of its tile (R101, R106, R171): the stop that a fault brings, the record and
the counter of a completion, and the reads of a tile whose codes are good. -/

namespace Sys2Proof.Machine

open Sys2Proof Sys2Proof.Safety

/-! ### The stop of a tile (R171) -/

/-- A stopped tile: its queues are empty, and these copies are left. -/
def Tile.quieted (t : Tile) (cs : List CopyRun) : Tile := { t with mqueue := [], vqueue := [], cqueue := [], copies := cs, trun := 3 }

/-- A tile that an engine's fault has stopped: the registers of R172 hold the fault. -/
def Tile.stopped (t : Tile) (code : Nat) (cs : List CopyRun) : Tile :=
  { t.quieted cs with tfltCode := BitVec.ofNat 16 code, tfltSlot := BitVec.ofNat 11 0x7FF, tfpc := BitVec.ofNat 32 0, tfiw := BitVec.ofNat 32 0 }

/-- Every tile is as before or has stopped without a fault of its own. -/
def Quieted (s t : State) : Prop := ∀ k, t.tile k = s.tile k ∨ ∃ cs, t.tile k = (s.tile k).quieted cs

theorem quieted_of_tiles {s t : State} (h : t.tiles = s.tiles) : Quieted s t := by
  intro k
  left
  unfold State.tile
  rw [h]

theorem Quieted.trans {s t u : State} (h : Quieted s t) (k : Quieted t u) : Quieted s u := by
  intro x
  obtain k | ⟨cs, k⟩ := k x
  · rw [k]
    exact h x
  · right
    obtain h | ⟨ds, h⟩ := h x
    · exact ⟨cs, by rw [k, h]⟩
    · exact ⟨cs, by rw [k, h]; rfl⟩

theorem quieted_foldl {α : Type} (f : State → α → State) (h : ∀ u x, Quieted u (f u x)) (l : List α) (s : State) :
    Quieted s (l.foldl f s) := by
  induction l generalizing s with
  | nil => exact quieted_of_tiles rfl
  | cons x r ih => exact (h s x).trans (ih _)

theorem quieted_quietStop (s : State) (tile : Nat) : Quieted s (quietStop s tile) := by
  intro k
  by_cases h : k = tile
  · subst h
    exact Or.inr ⟨_, State.tile_setTile_self _ _ _⟩
  · exact Or.inl (State.tile_setTile_ne _ _ h)

theorem quieted_modLaunch (s : State) (id : Nat) (f : Launch → Launch) : Quieted s (modLaunch s id f) := quieted_of_tiles rfl

theorem quieted_stopMembers (s : State) (ring : Nat) : Quieted s (stopMembers s ring) :=
  quieted_foldl _ (fun u _ => (quieted_modLaunch u _ _).trans (quieted_foldl _ quieted_quietStop _ _)) _ _

theorem quieted_pitchFault (s : State) (ring : Nat) (f : Raise) (replays : Bool) : Quieted s (pitchFault s ring f replays) := by
  have put (x : RingPair) : Quieted s (s.setRing ring x) := quieted_of_tiles rfl
  unfold pitchFault
  dsimp only
  split
  · exact (put _).trans (quieted_stopMembers _ _)
  · exact (put _).trans (quieted_stopMembers _ _)
  · split
    · exact put _
    · exact quieted_of_tiles rfl
  · exact quieted_of_tiles rfl

theorem quieted_contain (s : State) (ring : Option Nat) (f : Raise) : Quieted s (contain s ring f) := by
  unfold contain
  split
  · split
    · exact quieted_pitchFault _ _ _ _
    · exact quieted_of_tiles rfl
  · exact quieted_of_tiles rfl

theorem stopTile_tile {s : State} {tile : Nat} (h : (s.tile tile).trun ≠ 3) (code : Nat) :
    ∃ cs, (stopTile s tile code 0x7FF 0 0).tile tile = (s.tile tile).stopped code cs := by
  refine ⟨cutCopies 256 (s.tile tile).copies, ?_⟩
  simp only [stopTile, State.tile_setTile_self, if_neg h]
  rfl

/-- A fault of a tile is recorded, its tile stops, and what follows stops tiles at most. -/
theorem tileRaise_quieted (s : State) (tile code detail slot pc word kind : Nat) (data : Bytes) :
    ∃ r, OnlyLog s r ∧ Quieted (stopTile r tile code slot pc word) (tileRaise s tile code detail slot pc word kind data) := by
  let f : Raise := { code := code, detail := detail, unit := unitTile tile, kind := kind, data := data }
  refine ⟨record s (containedRaise s (tileRing s tile) f), record_onlyLog _ _, ?_⟩
  unfold tileRaise
  dsimp only
  refine Quieted.trans ?_ (quieted_contain _ _ _)
  split
  · exact quieted_modLaunch _ _ _
  · exact quieted_of_tiles rfl

/-- A fault of an engine stops its tile, which keeps all but its queues, its copies and the registers of R172. -/
theorem engineRaise_tile {s : State} {tile : Nat} (h : (s.tile tile).trun ≠ 3) (code detail kind : Nat) (data : Bytes) :
    ∃ cs, (engineRaise s tile code detail kind data).tile tile = (s.tile tile).stopped code cs := by
  obtain ⟨r, log, after⟩ := tileRaise_quieted s tile code detail 0x7FF 0 0 kind data
  have same := onlyLog_tile log tile
  obtain ⟨cs, stop⟩ := stopTile_tile (s := r) (by rw [same]; exact h) code
  rw [same] at stop
  obtain e | ⟨ds, e⟩ := after tile
  · exact ⟨cs, e.trans stop⟩
  · exact ⟨ds, e.trans (by rw [stop]; rfl)⟩

theorem stopped_of_tile {t : State} {tile code : Nat} {x : Tile} {cs : List CopyRun} (h : t.tile tile = x.stopped code cs) :
    Stopped t tile code := by
  unfold Stopped
  rw [h]
  exact ⟨rfl, rfl, rfl, rfl, rfl⟩

/-! ### Steps that change one tile -/

theorem tset_tset {α : Type} (t : Table α) (k : Nat) (x y : α) : tset (tset t k x) k y = tset t k y := by
  induction t with
  | nil => simp [tset]
  | cons p r ih =>
    obtain ⟨a, v⟩ := p
    by_cases h : k < a
    · simp [tset, h]
    · by_cases e : k = a
      · simp [tset, e]
      · simp [tset, h, e, ih]

@[simp] theorem State.setTile_setTile (s : State) (k : Nat) (x y : Tile) : (s.setTile k x).setTile k y = s.setTile k y := by
  simp [State.setTile, tset_tset]

theorem onlyTile_refl (tile : Nat) (s : State) : OnlyTile tile s s := ⟨rfl, fun _ _ => rfl⟩

theorem onlyTile_trans {tile : Nat} {s t u : State} (h : OnlyTile tile s t) (k : OnlyTile tile t u) : OnlyTile tile s u :=
  ⟨by rw [k.1, h.1], fun x hx => (k.2 x hx).trans (h.2 x hx)⟩

theorem onlyTile_setTile (s : State) (tile : Nat) (x : Tile) : OnlyTile tile s (s.setTile tile x) :=
  ⟨rfl, fun _ hx => State.tile_setTile_ne s x hx⟩

theorem onlyTileAndLog_of_onlyTile {tile : Nat} {s t u : State} (h : OnlyTile tile s t) (k : OnlyTileAndLog tile t u) :
    OnlyTileAndLog tile s u := by
  obtain ⟨h1, h2⟩ := h
  obtain ⟨k1, k2⟩ := k
  rw [h1] at k1
  exact ⟨k1, fun x hx => (k2 x hx).trans (h2 x hx)⟩

/-! ### The record and the counter of a completion (R101) -/

/-- The record of a word with `STAT` has a place that the engine can write. -/
def RecordFits (w : W128) : Prop := statOf w = true → staddrOf w + 32 ≤ sramBytes ∧ touchesContext (staddrOf w) 32 = false

theorem recordFits_of_noStat {w : W128} (h : statOf w = false) : RecordFits w := by
  intro k
  rw [h] at k
  contradiction

/-- A tile with the bytes, codes, power and counters of another: what a completion may change. -/
def Tile.recorded (x y : Tile) : Tile :=
  { x with mem := y.mem, marks := y.marks, writeback := y.writeback, banks := y.banks, counters := y.counters, changes := y.changes }

theorem writeStatus_fits {s : State} {tile at_ : Nat} {b : Bytes} (h : at_ + b.length ≤ sramBytes)
    (k : touchesContext at_ b.length = false) :
    writeStatus s tile at_ b = s.setTile tile (((s.tile tile).touch s.clk at_ b.length).store at_ b) := by
  unfold writeStatus
  rw [if_neg (Nat.not_lt.mpr h), if_neg (by rw [k]; exact Bool.false_ne_true)]

/-- The state once the record of a completion is written. -/
def recordWritten (s : State) (tile : Nat) (w : W128) (b : Bytes) : State :=
  if statOf w then s.setTile tile (((s.tile tile).touch s.clk (staddrOf w) b.length).store (staddrOf w) b) else s

theorem completeWord_fits {w : W128} (h : RecordFits w) {b : Bytes} (hb : b.length = 32) (s : State) (tile : Nat) :
    completeWord s tile w b =
      if cenOf w then addCounter (recordWritten s tile w b) tile (ctrOf w) 1 else recordWritten s tile w b := by
  unfold completeWord recordWritten
  cases hs : statOf w with
  | false => rfl
  | true => rw [if_pos rfl, if_pos rfl, writeStatus_fits (by rw [hb]; exact (h hs).1) (by rw [hb]; exact (h hs).2)]

theorem recordWritten_onlyTile (s : State) (tile : Nat) (w : W128) (b : Bytes) : OnlyTile tile s (recordWritten s tile w b) := by
  unfold recordWritten
  split
  · exact onlyTile_setTile _ _ _
  · exact onlyTile_refl _ _

theorem recordWritten_tile (s : State) (tile : Nat) (w : W128) (b : Bytes) :
    (recordWritten s tile w b).tile tile = (s.tile tile).recorded ((recordWritten s tile w b).tile tile) := by
  unfold recordWritten
  split
  · rw [State.tile_setTile_self]
    rfl
  · rfl

theorem recordWritten_counters (s : State) (tile : Nat) (w : W128) (b : Bytes) (k : Nat) :
    (recordWritten s tile w b).counter tile k = s.counter tile k := by
  unfold recordWritten State.counter
  split
  · rw [State.tile_setTile_self]
    rfl
  · rfl

/-- A completion reaches its tile alone. -/
theorem completeWord_onlyTile {w : W128} (h : RecordFits w) {b : Bytes} (hb : b.length = 32) (s : State) (tile : Nat) :
    OnlyTile tile s (completeWord s tile w b) := by
  rw [completeWord_fits h hb]
  split
  · exact onlyTile_trans (recordWritten_onlyTile _ _ _ _) (onlyTile_setTile _ _ _)
  · exact recordWritten_onlyTile _ _ _ _

/-- An addition to a counter changes the tile's counters and the note of their changes. -/
theorem addCounter_tile (s : State) (tile k : Nat) (n : W32) :
    (addCounter s tile k n).tile tile = { s.tile tile with
      counters := tset (s.tile tile).counters k (s.counter tile k + n)
      changes := tset (s.tile tile).changes k
        { (s.tile tile).change s.clk k with add := ((s.tile tile).change s.clk k).add + n } } :=
  State.tile_setTile_self _ _ _

/-- A completion leaves all of its tile but bytes, codes, power and counters. -/
theorem completeWord_tile {w : W128} (h : RecordFits w) {b : Bytes} (hb : b.length = 32) (s : State) (tile : Nat) :
    (completeWord s tile w b).tile tile = (s.tile tile).recorded ((completeWord s tile w b).tile tile) := by
  rw [completeWord_fits h hb]
  split
  · rw [addCounter_tile, recordWritten_tile]
    rfl
  · exact recordWritten_tile _ _ _ _

theorem completeWord_mem (s : State) (tile : Nat) {w : W128} (h : RecordFits w) {b : Bytes} (hb : b.length = 32) :
    ((completeWord s tile w b).tile tile).mem = ((recordWritten s tile w b).tile tile).mem := by
  rw [completeWord_fits h hb]
  split
  · rw [addCounter_tile]
  · rfl

theorem completeWord_mem_of_noStat (s : State) (tile : Nat) {w : W128} (h : statOf w = false) {b : Bytes} (hb : b.length = 32) :
    ((completeWord s tile w b).tile tile).mem = (s.tile tile).mem := by
  rw [completeWord_mem s tile (recordFits_of_noStat h) hb, recordWritten, if_neg (by rw [h]; exact Bool.false_ne_true)]

theorem completeWord_completed {s : State} {tile : Nat} {w : W128} (h : RecordPlace s tile w) {b : Bytes} (hb : b.length = 32) :
    Completed s (completeWord s tile w b) tile w b := by
  obtain ⟨hw, hf⟩ := h
  have e := completeWord_mem s tile hf hb
  refine ⟨fun k => ?_, fun hs => ?_, fun a => ?_⟩
  · rw [completeWord_fits hf hb]
    cases cenOf w with
    | false => simp [recordWritten_counters]
    | true =>
      simp only [if_true, State.counter_addCounter, recordWritten_counters, true_and]
      split
      · rename_i hk
        rw [hk]
      · rfl
  · rw [e, recordWritten, if_pos hs, State.tile_setTile_self, store_mem]
    exact memRead_memWrite _ _ _ _ hw
  · rw [e, recordWritten]
    cases hs : statOf w with
    | false => exact Or.inr rfl
    | true =>
      rw [if_pos rfl, State.tile_setTile_self, store_mem]
      by_cases ha : staddrOf w ≤ a ∧ a < staddrOf w + b.length
      · exact Or.inl ⟨rfl, ha⟩
      · exact Or.inr (memByte_memWrite_outside _ _ _ _ _ hw (by omega))

/-- `Completed` looks at the bytes and the counters of the tile alone. -/
theorem completed_congr {s s' t t' : State} {tile : Nat} {w : W128} {b : Bytes} (h : Completed s t tile w b)
    (hm : (s'.tile tile).mem = (s.tile tile).mem) (hc : (s'.tile tile).counters = (s.tile tile).counters)
    (ht : t'.tile tile = t.tile tile) : Completed s' t' tile w b := by
  simp only [Completed, State.counter] at h ⊢
  rw [hm, hc, ht]
  exact h

/-! ### Reads of good codes (R180, R434) -/

theorem bankBad_of_good {t : Tile} (h : t.marks = []) (off n : Nat) : bankBad t off n = false := by
  simp [bankBad, Tile.marked, h]

theorem bankChecks_of_good {s : State} {tile : Nat} (h : (s.tile tile).marks = []) (off n : Nat) : bankChecks s tile off n = s := by
  simp [bankChecks, h]

theorem storeChecks_of_good {s : State} {tile : Nat} (h : (s.tile tile).storeMarks = []) (hit : TileStore → Bool) :
    storeChecks s tile hit = s := by
  simp [storeChecks, h]

/-- Of the part only the banks' times of last access on one tile changed. -/
def OnlyTouchedTile (tile : Nat) (s t : State) : Prop :=
  OnlyTile tile s t ∧ ∃ bs, t.tile tile = { s.tile tile with banks := bs }

theorem onlyTouchedTile_refl (tile : Nat) (s : State) : OnlyTouchedTile tile s s := ⟨onlyTile_refl _ _, _, rfl⟩

theorem OnlyTouchedTile.trans {tile : Nat} {s t u : State} (h : OnlyTouchedTile tile s t) (k : OnlyTouchedTile tile t u) :
    OnlyTouchedTile tile s u := by
  obtain ⟨h, b, eb⟩ := h
  obtain ⟨k, c, ec⟩ := k
  exact ⟨onlyTile_trans h k, c, by rw [ec, eb]⟩

theorem touched_bankChecks {s : State} {tile : Nat} (h : (s.tile tile).marks = []) (off n : Nat) :
    OnlyTouchedTile tile s (bankChecks (s.setTile tile ((s.tile tile).touch s.clk off n)) tile off n) := by
  rw [bankChecks_of_good (by rw [State.tile_setTile_self]; exact h)]
  exact ⟨onlyTile_setTile _ _ _, _, State.tile_setTile_self _ _ _⟩

theorem OnlyTouchedTile.marks {tile : Nat} {s t : State} (h : OnlyTouchedTile tile s t) :
    (t.tile tile).marks = (s.tile tile).marks ∧ (t.tile tile).storeMarks = (s.tile tile).storeMarks := by
  obtain ⟨-, bs, e⟩ := h
  rw [e]
  exact ⟨rfl, rfl⟩

theorem touched_foldl {tile : Nat} (l : List (Nat × Nat)) {s : State} (h : (s.tile tile).marks = []) :
    OnlyTouchedTile tile s
      (l.foldl (fun u a => bankChecks (u.setTile tile ((u.tile tile).touch u.clk a.1 a.2)) tile a.1 a.2) s) := by
  induction l generalizing s with
  | nil => exact onlyTouchedTile_refl _ _
  | cons a r ih =>
    have first := touched_bankChecks h a.1 a.2
    exact first.trans (ih (first.marks.1.trans h))

end Sys2Proof.Machine
end

section
/-! The end of a matrix instruction and the reads of a run (R101, R105, R106, R171). -/

namespace Sys2Proof.Machine

open Sys2Proof Sys2Proof.Safety

/-! ### Completion and refusal (R101, R105) -/

theorem matrixRecord_length (w : W128) (x : MatrixStatus) (cycles : Nat) : (matrixRecord w x cycles).length = 32 :=
  layout_length _ _ (by simp)

theorem addPitchCounts_frame (s : State) (tile nf sat : Nat) :
    addPitchCounts s tile nf sat = { s with cmd := { s.cmd with rings := (addPitchCounts s tile nf sat).cmd.rings } } := by
  unfold addPitchCounts
  split <;> rfl

theorem reportNf_onlyLog (s : State) (tile : Nat) (nf : Bool) : OnlyLog s (reportNf s tile nf) := by
  unfold reportNf
  split
  · exact record_onlyLog _ _
  · exact onlyLog_refl _

theorem endMatrix_tile (s : State) (tile : Nat) (w : W128) (x : MatrixStatus) (cycles k : Nat) :
    (endMatrix s tile w x cycles).tile k = (completeWord s tile w (matrixRecord w x (cycles % 2 ^ 32))).tile k := by
  unfold endMatrix
  rw [onlyLog_tile (reportNf_onlyLog _ _ _), addPitchCounts_frame]
  rfl

/-- A change of one tile, then of ring pairs, then of the log. -/
theorem onlyTileAndLog_of_steps {tile : Nat} {s c p t : State} (hc : OnlyTile tile s c)
    (hp : p = { c with cmd := { c.cmd with rings := p.cmd.rings } }) (ht : OnlyLog p t) : OnlyTileAndLog tile s t := by
  have tiles : p.tiles = c.tiles := by rw [hp]
  have start : p = { s with tiles := t.tiles, cmd := { s.cmd with rings := t.cmd.rings } } := by
    rw [ht.1, tiles, hp, hc.1]
  refine ⟨?_, fun x hx => ?_⟩
  · rw [← start]
    exact ht
  · rw [onlyLog_tile ht, State.tile, tiles]
    exact hc.2 x hx

/-- The end of an instruction reaches its tile, the counts of its pitch and the log. -/
theorem endMatrix_onlyTileAndLog {w : W128} (h : RecordFits w) (s : State) (tile : Nat) (x : MatrixStatus) (cycles : Nat) :
    OnlyTileAndLog tile s (endMatrix s tile w x cycles) :=
  onlyTileAndLog_of_steps (completeWord_onlyTile h (matrixRecord_length w x (cycles % 2 ^ 32)) s tile)
    (addPitchCounts_frame _ _ _ _) (reportNf_onlyLog _ _ _)

/-- An instruction that ends without a fault, once its effect `x` on the tile has taken place. -/
theorem finishMatrix_completes {s : State} {tile : Nat} {w : W128} {x : Tile} {st : MatrixStatus} (h : RecordPlace s tile w)
    (hf : st.fault = 0) (hm : x.mem = (s.tile tile).mem) (hc : x.counters = (s.tile tile).counters) (cycles kind : Nat) (data : Bytes) :
    let t := finishMatrix (s.setTile tile x) tile w st cycles kind data
    OnlyTileAndLog tile s t ∧ Completed s t tile w (matrixRecord w st (cycles % 2 ^ 32)) ∧ t.tile tile = x.recorded (t.tile tile) := by
  intro t
  have ht : t = endMatrix (s.setTile tile x) tile w st cycles := if_pos hf
  have self : (s.setTile tile x).tile tile = x := State.tile_setTile_self _ _ _
  have len := matrixRecord_length w st (cycles % 2 ^ 32)
  have place : RecordPlace (s.setTile tile x) tile w := ⟨by rw [self, hm]; exact h.1, h.2⟩
  have tile_eq := endMatrix_tile (s.setTile tile x) tile w st cycles tile
  rw [ht]
  refine ⟨onlyTileAndLog_of_onlyTile (onlyTile_setTile s tile x) (endMatrix_onlyTileAndLog h.2 _ _ _ _),
    completed_congr (completeWord_completed place len) (by rw [self, hm]) (by rw [self, hc]) tile_eq, ?_⟩
  rw [tile_eq, completeWord_tile h.2 len, self]
  rfl

/-- An instruction that ends with a fault stops its tile, once its effect `x` on the tile has taken place. -/
theorem endMatrix_stops {s : State} {tile : Nat} {w : W128} {x : Tile} (h : RecordFits w) (hx : x.trun ≠ 3) (st : MatrixStatus)
    (cycles code kind : Nat) (data : Bytes) :
    ∃ y cs, (engineRaise (endMatrix (s.setTile tile x) tile w st cycles) tile code 0 kind data).tile tile =
      (x.recorded y).stopped code cs ∧ (statOf w = false → y.mem = x.mem) := by
  have self : (s.setTile tile x).tile tile = x := State.tile_setTile_self _ _ _
  have len := matrixRecord_length w st (cycles % 2 ^ 32)
  have ended := (endMatrix_tile (s.setTile tile x) tile w st cycles tile).trans (completeWord_tile h len _ _)
  rw [self] at ended
  obtain ⟨cs, e⟩ := engineRaise_tile (s := endMatrix (s.setTile tile x) tile w st cycles) (tile := tile)
    (by rw [ended]; exact hx) code 0 kind data
  refine ⟨_, cs, e.trans (by rw [ended]), fun hs => ?_⟩
  rw [completeWord_mem_of_noStat _ _ hs len, self]

/-- A refused instruction stops its tile, once its effect `x` on the tile has taken place (R105). -/
theorem refuseMatrix_stops {s : State} {tile : Nat} {w : W128} {x : Tile} (h : RecordFits w) (hx : x.trun ≠ 3) {code : Nat}
    (h0 : code ≠ 0) (h16 : code < 2 ^ 16) :
    ∃ y cs, (refuseMatrix (s.setTile tile x) tile w code).tile tile = (x.recorded y).stopped code cs ∧
      (statOf w = false → y.mem = x.mem) := by
  have value : (BitVec.ofNat 16 code).toNat = code := by rw [BitVec.toNat_ofNat]; exact Nat.mod_eq_of_lt h16
  have nonzero : BitVec.ofNat 16 code ≠ 0 := fun e => h0 (by rw [← value, e]; rfl)
  have e : refuseMatrix (s.setTile tile x) tile w code =
      engineRaise (endMatrix (s.setTile tile x) tile w { fault := BitVec.ofNat 16 code } 0) tile code 0 0 [] := by
    unfold refuseMatrix finishMatrix
    rw [if_neg nonzero, value]
  rw [e]
  exact endMatrix_stops h hx _ _ _ _ _

/-! ### The head of the matrix queue -/

/-- A tile that serves its matrix queue has not stopped. -/
theorem matrixHead_running {s : State} {tile : Nat} {w : W128} (h : matrixHead s tile = some w) : (s.tile tile).trun ≠ 3 := by
  intro e
  simp [matrixHead, e] at h

/-- The tile without the head of its matrix queue. -/
def Tile.popped (t : Tile) : Tile := { t with mqueue := t.mqueue.tail }

theorem popMatrix_tile (s : State) (tile : Nat) : (popMatrix s tile).tile tile = (s.tile tile).popped := State.tile_setTile_self _ _ _

theorem popMatrix_eq (s : State) (tile : Nat) : popMatrix s tile = s.setTile tile (s.tile tile).popped := rfl

theorem setTile_popMatrix (s : State) (tile : Nat) (x : Tile) : (popMatrix s tile).setTile tile x = s.setTile tile x :=
  State.setTile_setTile _ _ _ _

/-! ### Reads of a run on a clean tile -/

/-- Good granules: the bytes of a run are read and `go` follows. -/
theorem readStream_of_good {s : State} {tile : Nat} (h : (s.tile tile).marks = []) (r : MatrixRun) (reads : List (Nat × Nat)) :
    ∃ v, OnlyTouchedTile tile s v ∧ ∀ go, readStream s tile r reads go = go v := by
  refine ⟨_, touched_foldl reads h, fun go => ?_⟩
  have none_bad : reads.find? (fun a => bankBad (s.tile tile) a.1 a.2) = none := by
    rw [List.find?_eq_none]
    intro a _
    rw [bankBad_of_good h]
    exact Bool.false_ne_true
  unfold readStream
  simp only [none_bad]

/-- A run that ends with a fault leaves the list of runs, completes, and stops its tile. -/
theorem failRun_stops {s : State} {tile : Nat} {r : MatrixRun} (h : RecordFits r.word) (hx : (s.tile tile).trun ≠ 3)
    (st : MatrixStatus) (code stop kind : Nat) (data : Bytes) :
    ∃ y cs, (failRun s tile r st code stop kind data).tile tile =
      (Tile.recorded { s.tile tile with mruns := dropRun (s.tile tile) (s.tile tile).mruns } y).stopped code cs ∧
      (statOf r.word = false → y.mem = (s.tile tile).mem) :=
  endMatrix_stops (x := { s.tile tile with mruns := dropRun (s.tile tile) (s.tile tile).mruns }) h hx _ _ _ _ _

end Sys2Proof.Machine
end

section
/-! Loading, swapping and starting on the matrix array, and the obligations on its weights (R70 to R75, R105). -/

namespace Sys2Proof.Machine

open Sys2Proof Sys2Proof.Safety

/-! ### The codes of R105 -/

theorem mloadRefusal_lt (t : Tile) (w : W128) : mloadRefusal t w < 2 ^ 16 := by
  unfold mloadRefusal
  repeat' split
  all_goals decide

/-- MSWAP passes its checks only with a valid shadow set. -/
theorem mswapRefusal_eq_zero {t : Tile} {w : W128} (h : mswapRefusal t w = 0) : t.shadow.valid = true := by
  cases hv : t.shadow.valid with
  | true => rfl
  | false =>
    simp only [mswapRefusal, hv, if_neg Bool.false_ne_true] at h
    repeat' split at h
    all_goals contradiction

theorem mswapRefusal_of_invalid {t : Tile} {w : W128} (h : t.shadow.valid = false)
    (k : mswapRefusal { t with shadow := { t.shadow with valid := true } } w = 0) : mswapRefusal t w = 0x0108 := by
  have invalid : ¬t.shadow.valid = true := Bool.eq_false_iff.mp h
  unfold mswapRefusal at k ⊢
  split at k
  next => contradiction
  next reserved =>
    split at k
    next => contradiction
    next off =>
      split at k
      next => contradiction
      next area => rw [if_neg reserved, if_neg off, if_neg area, if_neg invalid]

theorem mrunRefusal_of_invalid {t : Tile} {w : W128} (h : t.active.valid = false) (hn : 0 < rNvec w)
    (k : mrunRefusal { t with active := { t.active with valid := true, squareChecked := true } } w = 0) :
    mrunRefusal t w = 0x0108 := by
  unfold mrunRefusal at k ⊢
  generalize (if rDir w then 128 else 256) = entries at k ⊢
  split at k
  next => contradiction
  next reserved =>
    split at k
    next => contradiction
    next off =>
      split at k
      next => contradiction
      next area =>
        split at k
        next => contradiction
        next rows =>
          rw [if_neg reserved, if_neg off, if_neg area, if_neg rows, if_neg (Nat.ne_of_gt hn), if_pos h]

/-! ### MLOAD (R70 to R73) -/

/-- The head of the matrix queue runs its body once its order conditions hold. -/
theorem startMatrix_body {op tile : Nat} {s t : State} {w : W128} (h : Claims.MatrixHead s tile w op) {ready : Tile → Bool}
    (hr : ready (s.tile tile) = true) {body : W128 → State → State} (hb : body w (popMatrix s tile) = t) :
    startMatrix op tile ready s body = .next t := by
  obtain ⟨ht, hw, ho, -⟩ := h
  rw [startMatrix_next ht hw ho hr, hb]

theorem mload_refused {s : State} {tile : Nat} {w : W128} (h : Claims.MatrixHead s tile w 0x01) (hl : (s.tile tile).mload = none)
    (hc : mloadRefusal (s.tile tile) w ≠ 0) :
    exec (.mload tile) s = .next (refuseMatrix (s.setTile tile { (s.tile tile).popped with
      shadow := { (s.tile tile).shadow with valid := false } }) tile w (mloadRefusal (s.tile tile) w)) := by
  show execMload tile s = _
  refine startMatrix_body h (by rw [hl]; rfl) ?_
  have code : mloadRefusal ((popMatrix s tile).tile tile) w = mloadRefusal (s.tile tile) w := by
    rw [popMatrix_tile]
    rfl
  dsimp only
  rw [code, if_pos hc, spoilShadow, setTile_popMatrix, popMatrix_tile]
  rfl

theorem mload_starts {s : State} {tile : Nat} {w : W128} (h : Claims.MatrixHead s tile w 0x01) (hl : (s.tile tile).mload = none)
    (hc : mloadRefusal (s.tile tile) w = 0) (hn : 0 < mCols w) :
    exec (.mload tile) s = .next (s.setTile tile
      { (s.tile tile).popped.touch s.clk (mPaddr w) (mPacks w * 256) with mload := some (loadResult (s.tile tile).popped w) }) := by
  show execMload tile s = _
  refine startMatrix_body h (by rw [hl]; rfl) ?_
  have marks : (s.tile tile).popped.marks = [] := h.2.2.2.1
  have code : mloadRefusal (s.tile tile).popped w = 0 := hc
  dsimp only
  rw [popMatrix_tile, code, if_neg (by decide), if_neg (Nat.ne_of_gt hn), bankBad_of_good marks, if_neg Bool.false_ne_true,
    setTile_popMatrix, bankChecks_of_good (by rw [State.tile_setTile_self]; exact marks), State.tile_setTile_self,
    State.setTile_setTile]
  rfl

theorem mloadComplete_next {s : State} {tile : Nat} {m : MatrixLoad} (ht : tile < 1152) (hm : (s.tile tile).mload = some m)
    (hf : m.fault = 0) (hfl : s.floored = false) (stalls : Nat) :
    exec (.mloadComplete tile stalls) s = .next (finishMatrix (s.setTile tile { s.tile tile with mload := none, shadow := m.result })
      tile m.word {} (m.cycles + stalls) 0 []) := by
  refine (onTile_of ht _).trans ?_
  dsimp only
  rw [hm]
  dsimp only
  rw [hfl, if_neg Bool.false_ne_true, if_pos hf, State.tile_setTile_self, State.setTile_setTile]

/-- Settles O10: an MLOAD reads into a load of its own; only its completion, or its refusal, reaches the shadow set. -/
theorem matrixWeights : Obligations.MatrixWeights := by
  unfold Obligations.MatrixWeights
  refine ⟨fun s tile w h hl hc hn => ?_, fun s tile w h hl hc hr hs => ?_, fun s tile stalls m ht hm hf hfl hp => ?_⟩
  · refine ⟨_, mload_starts h hl hc hn, onlyTile_setTile _ _ _, ?_⟩
    rw [State.tile_setTile_self, popMatrix_tile]
    rfl
  · obtain ⟨y, cs, e, mem⟩ := refuseMatrix_stops (s := s) (tile := tile)
      (x := { (s.tile tile).popped with shadow := { (s.tile tile).shadow with valid := false } })
      (recordFits_of_noStat hs) hr hc (mloadRefusal_lt _ _)
    refine ⟨_, mload_refused h hl hc, stopped_of_tile e, ?_⟩
    rw [e]
    exact ⟨rfl, rfl, mem hs⟩
  · obtain ⟨reach, completed, e⟩ := finishMatrix_completes (x := { s.tile tile with mload := none, shadow := m.result }) hp
      (st := {}) rfl rfl rfl (m.cycles + stalls) 0 []
    refine ⟨_, mloadComplete_next ht hm hf hfl stalls, reach, ?_⟩
    rw [e]
    exact ⟨rfl, rfl, rfl, rfl, rfl, completed⟩

/-! ### MSWAP (R74) -/

theorem mswap_copies {s : State} {tile : Nat} {w : W128} (h : Claims.MatrixHead s tile w 0x02) (hl : (s.tile tile).mload = none)
    (hf : cellsFree (s.tile tile) = true) (hc : mswapRefusal (s.tile tile) w = 0) :
    exec (.mswap tile) s = .next (finishMatrix (s.setTile tile { (s.tile tile).popped with active := (s.tile tile).shadow })
      tile w {} 1 0 []) := by
  show execMswap tile s = _
  refine startMatrix_body h (by rw [hl, hf]; rfl) ?_
  have code : mswapRefusal (s.tile tile).popped w = 0 := hc
  dsimp only
  rw [popMatrix_tile, code, if_neg (by decide), setTile_popMatrix]
  rfl

theorem mswap_refused {s : State} {tile : Nat} {w : W128} (h : Claims.MatrixHead s tile w 0x02) (hl : (s.tile tile).mload = none)
    (hf : cellsFree (s.tile tile) = true) {code : Nat} (hc : mswapRefusal (s.tile tile) w = code) (h0 : code ≠ 0) :
    exec (.mswap tile) s = .next (refuseMatrix (s.setTile tile (s.tile tile).popped) tile w code) := by
  show execMswap tile s = _
  refine startMatrix_body h (by rw [hl, hf]; rfl) ?_
  have refused : mswapRefusal (s.tile tile).popped w = code := hc
  dsimp only
  rw [popMatrix_tile, refused, if_pos h0, popMatrix_eq]

/-! ### MRUN (R75, R78) -/

theorem mrun_starts {s : State} {tile : Nat} {w : W128} (h : Claims.MatrixHead s tile w 0x03) (hf : cellsFree (s.tile tile) = true)
    (hc : mrunRefusal (s.tile tile) w = 0) (hn : 0 < rNvec w) :
    exec (.mrun tile) s = .next (s.setTile tile
      { (s.tile tile).popped with mruns := (s.tile tile).mruns ++ [{ word := w }] }) := by
  show execMrun tile s = _
  refine startMatrix_body h hf ?_
  have code : mrunRefusal (s.tile tile).popped w = 0 := hc
  dsimp only
  rw [popMatrix_tile, code, if_neg (by decide), if_neg (fun e => Nat.ne_of_gt hn e.1), setTile_popMatrix]
  rfl

theorem mrun_refused {s : State} {tile : Nat} {w : W128} (h : Claims.MatrixHead s tile w 0x03) (hf : cellsFree (s.tile tile) = true)
    {code : Nat} (hc : mrunRefusal (s.tile tile) w = code) (h0 : code ≠ 0) :
    exec (.mrun tile) s = .next (refuseMatrix (s.setTile tile (s.tile tile).popped) tile w code) := by
  show execMrun tile s = _
  refine startMatrix_body h hf ?_
  have refused : mrunRefusal (s.tile tile).popped w = code := hc
  dsimp only
  rw [popMatrix_tile, refused, if_pos h0, popMatrix_eq]

/-- Settles O58: the checks of MSWAP and MRUN look for a valid set, and only an MSWAP that passes them copies one. -/
theorem swapActivatesShadow : Obligations.SwapActivatesShadow := by
  unfold Obligations.SwapActivatesShadow
  refine ⟨fun s tile w h hl hf hc hp => ?_, fun s tile w h hl hf hv hp hc => ?_, fun s tile w h hf hn hv hp hc => ?_⟩
  · obtain ⟨reach, completed, e⟩ := finishMatrix_completes
      (x := { (s.tile tile).popped with active := (s.tile tile).shadow }) hp (st := {}) rfl rfl rfl 1 0 []
    refine ⟨_, mswap_copies h hl hf hc, reach, ?_⟩
    rw [e]
    exact ⟨rfl, rfl, mswapRefusal_eq_zero hc, rfl, rfl, rfl, completed⟩
  · obtain ⟨y, cs, e, -⟩ := refuseMatrix_stops (x := (s.tile tile).popped) hp.2 (matrixHead_running h.2.1) (code := 0x0108)
      (by decide) (by decide)
    refine ⟨_, mswap_refused h hl hf (mswapRefusal_of_invalid hv hc) (by decide), stopped_of_tile e, ?_⟩
    rw [e]
    exact ⟨rfl, rfl⟩
  · obtain ⟨y, cs, e, -⟩ := refuseMatrix_stops (x := (s.tile tile).popped) hp.2 (matrixHead_running h.2.1) (code := 0x0108)
      (by decide) (by decide)
    refine ⟨_, mrun_refused h hf (mrunRefusal_of_invalid hv hn hc) (by decide), stopped_of_tile e, ?_⟩
    rw [e]
    exact ⟨rfl, rfl, rfl⟩

end Sys2Proof.Machine
end

section
/-! The rows of a run, its completion and its check slots (R78 to R99, R105). -/

namespace Sys2Proof.Machine

open Sys2Proof Sys2Proof.Safety

/-! ### An accumulator bank after a row (R90) -/

/-- An entry after a run of entries was written. -/
theorem tget_tsetRun {α : Type} (vs : List α) (t : Table α) (k j : Nat) (d : α) :
    tget (tsetRun t k vs) j d = if k ≤ j then (vs[j - k]?).getD (tget t j d) else tget t j d := by
  induction vs generalizing t k with
  | nil => simp [tsetRun]
  | cons v vs ih =>
    rw [tsetRun, ih]
    by_cases h : k + 1 ≤ j
    · have e : j - k = (j - (k + 1)) + 1 := by omega
      rw [if_pos h, if_pos (by omega), e, List.getElem?_cons_succ, tget_tset_ne _ _ _ (by omega)]
    · rw [if_neg h]
      by_cases hj : j = k
      · subst hj
        simp
      · rw [tget_tset_ne _ _ _ hj, if_neg (by omega)]

theorem accum_putAccum_self (t : Tile) (b : Bool) (k : Nat) (vs : List W32) : (t.putAccum b k vs).accum b = tsetRun (t.accum b) k vs := by
  cases b <;> rfl

theorem accum_putAccum_other (t : Tile) (b : Bool) (k : Nat) (vs : List W32) : (t.putAccum b k vs).accum (!b) = t.accum (!b) := by
  cases b <;> rfl

/-- What a row leaves of its tile beside the accumulator banks. -/
theorem putAccum_frame (t : Tile) (b : Bool) (k : Nat) (vs : List W32) :
    t.putAccum b k vs = { t with
      acc0 := (t.putAccum b k vs).acc0, acc1 := (t.putAccum b k vs).acc1, storeMarks := (t.putAccum b k vs).storeMarks } := by
  cases b <;> rfl

/-- The value that a row gives to an output. -/
def rowValue (t : Tile) (w : W128) (i : Nat) (v : Stream) (o : Nat) : W32 :=
  let z := (combineSlices t.active (rDir w) v.slices v.scales o).1
  if rAcc w then addFp32 (tget (t.accum (rBank w)) (rowEntry w i + o) 0) z else z

theorem rowValues_values (t : Tile) (w : W128) (i : Nat) (v : Stream) :
    (rowValues t w i v.slices v.scales).map (·.1) = (List.range (rowOutputs t w)).map (rowValue t w i v) := by
  simp only [rowValues, List.map_map]
  rfl

/-- An entry of the row's bank after the row. -/
theorem tget_row (t : Tile) (w : W128) (i : Nat) (v : Stream) (e : Nat) :
    tget (tsetRun (t.accum (rBank w)) (rowEntry w i) ((rowValues t w i v.slices v.scales).map (·.1))) e 0 =
      if rowEntry w i ≤ e ∧ e < rowEntry w i + rowOutputs t w then rowValue t w i v (e - rowEntry w i)
      else tget (t.accum (rBank w)) e 0 := by
  rw [rowValues_values, tget_tsetRun]
  by_cases h : rowEntry w i ≤ e
  · by_cases k : e - rowEntry w i < rowOutputs t w
    · rw [if_pos h, if_pos ⟨h, by omega⟩]
      simp [k]
    · rw [if_pos h, if_neg (by omega)]
      simp [k]
  · rw [if_neg h, if_neg (fun x => h x.1)]

/-! ### The list of runs -/

/-- Which run streams depends on the tile's mode alone. -/
theorem runStreamed_congr {t u : Tile} (h : u.mode = t.mode) (r : MatrixRun) : runStreamed u r = runStreamed t r := by
  simp only [runStreamed, runChecks, h]

/-- The run that `setRun` replaces does not depend on the banks' times of access. -/
theorem setRun_touched {s u : State} {tile : Nat} (h : OnlyTouchedTile tile s u) : setRun (u.tile tile) = setRun (s.tile tile) := by
  obtain ⟨-, bs, e⟩ := h
  have mode : (u.tile tile).mode = (s.tile tile).mode := by rw [e]
  funext r l
  induction l with
  | nil => rfl
  | cons x l ih => rw [setRun, setRun, runStreamed_congr mode, ih]

/-! ### A row (R78 to R90) -/

section
variable (s : State) (tile : Nat) (r : MatrixRun) (v : Stream)

theorem putRow_onlyTile : OnlyTile tile s (putRow s tile r v) := onlyTile_setTile _ _ _

theorem putRow_tile : (putRow s tile r v).tile tile =
    { (s.tile tile).putAccum (rBank r.word) (rowEntry r.word r.rows)
        ((rowValues (s.tile tile) r.word r.rows v.slices v.scales).map (·.1)) with
      ainex := ((putRow s tile r v).tile tile).ainex, mruns := ((putRow s tile r v).tile tile).mruns } := by
  unfold putRow
  simp only [State.tile_setTile_self]

/-- The bank that a run names, after one of its rows. -/
theorem putRow_bank (e : Nat) : tget (((putRow s tile r v).tile tile).accum (rBank r.word)) e 0 =
    if rowEntry r.word r.rows ≤ e ∧ e < rowEntry r.word r.rows + rowOutputs (s.tile tile) r.word then
      rowValue (s.tile tile) r.word r.rows v (e - rowEntry r.word r.rows)
    else tget ((s.tile tile).accum (rBank r.word)) e 0 := by
  rw [← tget_row, ← accum_putAccum_self, putRow_tile]
  rfl

theorem putRow_otherBank : ((putRow s tile r v).tile tile).accum (!rBank r.word) = (s.tile tile).accum (!rBank r.word) := by
  rw [putRow_tile]
  exact accum_putAccum_other (s.tile tile) _ _ _

theorem putRow_active : ((putRow s tile r v).tile tile).active = (s.tile tile).active := by
  rw [putRow_tile, putAccum_frame]

theorem putRow_mem : ((putRow s tile r v).tile tile).mem = (s.tile tile).mem := by
  rw [putRow_tile, putAccum_frame]

theorem putRow_runs : ∃ x, ((putRow s tile r v).tile tile).mruns = setRun (s.tile tile) { r with
    rows := r.rows + 1, part := [], partScales := [], status := x
    sums := if (s.tile tile).mode = 1 then addSums r.sums (v.slices.drop r.part.length) else [] } (s.tile tile).mruns := by
  unfold putRow
  simp only [State.tile_setTile_self]
  rw [putAccum_frame]
  exact ⟨_, rfl⟩

end

/-- The times of access of the banks bear on no value of a row. -/
theorem rowValue_touched {s u : State} {tile : Nat} (h : OnlyTouchedTile tile s u) :
    rowValue (u.tile tile) = rowValue (s.tile tile) := by
  obtain ⟨-, bs, e⟩ := h
  rw [e]
  rfl

/-- A run that has met further stalls. -/
def MatrixRun.stalled (r : MatrixRun) (n : Nat) : MatrixRun := { r with stalls := r.stalls + n }

section
variable {s : State} {tile : Nat} {r : MatrixRun} (h : Claims.Streams s tile r) (stalls : Nat)
include h

/-- A row whose operand decodes is written once its bytes are read. -/
theorem mrunRowWrite_puts (hd : rowDue (s.tile tile) r = true) (hv : (streamTo (s.tile tile) r (rPass r.word)).fault = none) :
    ∃ u, OnlyTouchedTile tile s u ∧ exec (.mrunRowWrite tile stalls) s =
      .next (putRow u tile (r.stalled stalls) (streamTo (s.tile tile) r (rPass r.word))) := by
  obtain ⟨ht, hr, hf, hm, hs⟩ := h
  obtain ⟨u, touched, read⟩ := readStream_of_good hm (r.stalled stalls) (streamReads (r.stalled stalls) (rPass r.word))
  refine ⟨u, touched, (onTile_of ht _).trans ?_⟩
  have good : (u.tile tile).storeMarks = [] := touched.marks.2.trans hs
  simp only [hr, hf, hd, Bool.not_true, Bool.or_self, if_neg Bool.false_ne_true]
  refine congrArg Host.Outcome.next ((read _).trans ?_)
  have stream : (streamTo (s.tile tile) (r.stalled stalls) (rPass r.word)).fault = none := hv
  simp only [MatrixRun.stalled] at stream ⊢
  simp only [stream, hs, List.any_nil, if_neg Bool.false_ne_true, storeChecks_of_good good]
  rfl

/-- A row whose operand cannot be decoded ends the run. -/
theorem mrunRowWrite_fails (hd : rowDue (s.tile tile) r = true) {e : Nat × Nat × Nat}
    (hv : (streamTo (s.tile tile) r (rPass r.word)).fault = some e) :
    ∃ u stop data, OnlyTouchedTile tile s u ∧ exec (.mrunRowWrite tile stalls) s =
      .next (failRun u tile (r.stalled stalls) r.status e.1 stop 1 data) := by
  obtain ⟨ht, hr, hf, hm, hs⟩ := h
  obtain ⟨u, touched, read⟩ := readStream_of_good hm (r.stalled stalls) (streamReads (r.stalled stalls) (rPass r.word))
  let v := streamTo (s.tile tile) r (rPass r.word)
  refine ⟨u, slotStart (s.tile tile) (rPass r.word * r.rows + v.slices.length), dataPack (tileAddr tile e.2.1) e.2.2, touched,
    (onTile_of ht _).trans ?_⟩
  simp only [hr, hf, hd, Bool.not_true, Bool.or_self, if_neg Bool.false_ne_true]
  refine congrArg Host.Outcome.next ((read _).trans ?_)
  have stream : (streamTo (s.tile tile) (r.stalled stalls) (rPass r.word)).fault = some e := hv
  simp only [MatrixRun.stalled] at stream ⊢
  simp only [stream]
  rfl

end

/-! ### The end of a run (R92, R106) -/

theorem mrunComplete_next {s : State} {tile : Nat} {r : MatrixRun} {rest : List MatrixRun} (ht : tile < 1152)
    (hr : (s.tile tile).mruns = r :: rest) (hd : runStreamed (s.tile tile) r = true) (stalls : Nat) :
    exec (.mrunComplete tile stalls) s = .next (finishMatrix (s.setTile tile { s.tile tile with mruns := rest }) tile r.word r.status
      (if rNvec r.word = 0 then 0 else runCycles (s.tile tile) r.word + r.stalls + stalls) 0 []) := by
  refine (onTile_of ht _).trans ?_
  simp only [hr, hd, ifDue_true]

/-- Settles O11: a row is `putRow` on the tile whose banks were read, and a run that fails or ends leaves the accumulators. -/
theorem matrixRuns : Obligations.MatrixRuns := by
  unfold Obligations.MatrixRuns
  refine ⟨fun s tile w h hf hc hn => ?_, ?_, fun s tile stalls r e h hd hr hs hv => ?_,
    fun s tile stalls r rest ht hr hd hf hp => ?_⟩
  · refine ⟨_, mrun_starts h hf hc hn, onlyTile_setTile _ _ _, ?_⟩
    rw [State.tile_setTile_self]
    rfl
  · intro s tile stalls r h hd w at_ v hv
    obtain ⟨u, touched, next⟩ := mrunRowWrite_puts h stalls hd hv
    obtain ⟨x, runs⟩ := putRow_runs u tile (r.stalled stalls) v
    have bank := putRow_bank u tile (r.stalled stalls) v
    have other := putRow_otherBank u tile (r.stalled stalls) v
    have active := putRow_active u tile (r.stalled stalls) v
    have mem := putRow_mem u tile (r.stalled stalls) v
    rw [rowValue_touched touched] at bank
    rw [setRun_touched touched] at runs
    obtain ⟨reach, bs, e⟩ := touched
    rw [e] at bank other active mem runs
    refine ⟨_, next, onlyTile_trans reach (putRow_onlyTile _ _ _ _), fun o ho => ?_, fun k hk => ?_, other, active, mem, x, ?_⟩
    · refine (bank (at_ + o)).trans ((if_pos ⟨Nat.le_add_right _ _, Nat.add_lt_add_left ho _⟩).trans ?_)
      show rowValue (s.tile tile) w r.rows v (at_ + o - at_) = _
      rw [Nat.add_sub_cancel_left]
      rfl
    · refine (bank k).trans (if_neg ?_)
      rintro ⟨h1, h2⟩
      exact hk.elim (Nat.not_lt.mpr h1) (Nat.not_le.mpr h2)
    · exact runs
  · obtain ⟨u, stop, data, ⟨-, bs, touched⟩, next⟩ := mrunRowWrite_fails h stalls hd hv
    obtain ⟨y, cs, ended, mem⟩ := failRun_stops (r := r.stalled stalls) (recordFits_of_noStat hs) (by rw [touched]; exact hr)
      r.status e.1 stop 1 data
    refine ⟨_, next, stopped_of_tile ended, ?_⟩
    rw [ended]
    rw [touched] at mem ⊢
    exact ⟨rfl, rfl, mem hs⟩
  · obtain ⟨reach, completed, e⟩ := finishMatrix_completes (x := { s.tile tile with mruns := rest }) hp (st := r.status) hf rfl rfl
      (if rNvec r.word = 0 then 0 else runCycles (s.tile tile) r.word + r.stalls + stalls) 0 []
    refine ⟨_, mrunComplete_next ht hr hd stalls, reach, ?_⟩
    rw [e]
    exact ⟨rfl, rfl, rfl, completed⟩

end Sys2Proof.Machine
end

section
/-! Check slots, reserved opcodes of the three engines (R94 to R99, R101, R105, R113, R162), and the obligation on them. -/

namespace Sys2Proof.Machine

open Sys2Proof Sys2Proof.Safety

/-! ### Check slots (R94 to R99) -/

/-- A run whose vector has streamed to the end of its window. -/
def MatrixRun.windowed (r : MatrixRun) (v : Stream) : MatrixRun :=
  { r with part := v.slices, partScales := v.scales, sums := addSums r.sums (v.slices.drop r.part.length) }

/-- A run after a check slot: the sums of the next window start at zero. -/
def MatrixRun.checked (r : MatrixRun) : MatrixRun :=
  { r with checks := r.checks + 1, sums := [], status := { r.status with chkd := true } }

/-- A tile once a comparison has failed: the count of mismatches and the suspect (R96). -/
def Tile.mismatched (t : Tile) (suspect : Nat) : Tile :=
  { t with mismatch := if t.mismatch = 0xFFFF then t.mismatch else t.mismatch + 1, suspect := BitVec.ofNat 16 suspect }

theorem mismatched_count (t : Tile) (suspect : Nat) :
    (t.mismatched suspect).mismatch = if t.mismatch = 0xFFFF then 0xFFFF else t.mismatch + 1 := by
  unfold Tile.mismatched
  dsimp only
  split
  · assumption
  · rfl

/-- The check slot that is due on a clean tile compares once its bytes are read. -/
theorem mrunCheckSlot_compares {s : State} {tile : Nat} {r : MatrixRun} (h : Claims.Streams s tile r) (stalls : Nat)
    (hc : r.checks < runChecks (s.tile tile) r.word) (hr : rowsBefore r.word r.checks ≤ r.rows)
    (hv : (streamTo (s.tile tile) r (windowEnd r.word r.checks - rPass r.word * r.rows)).fault = none) :
    ∃ u, OnlyTouchedTile tile s u ∧ exec (.mrunCheckSlot tile stalls) s = .next (checkRun u tile ((r.stalled stalls).windowed
      (streamTo (s.tile tile) r (windowEnd r.word r.checks - rPass r.word * r.rows)))) := by
  obtain ⟨ht, hn, hf, hm, -⟩ := h
  obtain ⟨u, touched, read⟩ := readStream_of_good hm (r.stalled stalls)
    (streamReads (r.stalled stalls) (windowEnd r.word r.checks - rPass r.word * r.rows))
  refine ⟨u, touched, (onTile_of ht _).trans ?_⟩
  have due : ¬(s.floored = true ∨ r.checks ≥ runChecks (s.tile tile) r.word ∨ r.rows < rowsBefore r.word r.checks) := by
    rw [hf]
    rintro (x | x | x)
    · contradiction
    · exact absurd hc (Nat.not_lt.mpr x)
    · exact absurd hr (Nat.not_le.mpr x)
  simp only [hn, if_neg due]
  refine congrArg Host.Outcome.next ((read _).trans ?_)
  have stream : (streamTo (s.tile tile) (r.stalled stalls) (windowEnd r.word r.checks - rPass r.word * r.rows)).fault = none := hv
  simp only [MatrixRun.stalled] at stream ⊢
  simp only [stream]
  rfl

section
variable {s : State} {tile : Nat} {r : MatrixRun}

/-- A check slot that finds nothing ends, and the sums start again. -/
theorem checkRun_clean (hw : rDir r.word = true ∨ firstFailing (s.tile tile).active r.sums = none)
    (hv : firstFailing (s.tile tile).active (List.replicate 512 1) = none) :
    checkRun s tile r = s.setTile tile { s.tile tile with mruns := setRun (s.tile tile) r.checked (s.tile tile).mruns } := by
  have window : (if rDir r.word then none else firstFailing (s.tile tile).active r.sums) = none := by
    split
    · rfl
    · exact hw.resolve_left ‹_›
  unfold checkRun
  simp only [window, hv]
  rfl

/-- A check slot whose window comparison fails counts it, names the suspect and ends the run (R96, R99). -/
theorem checkRun_fails (hd : rDir r.word = false) {f : Nat × Nat} (hf : firstFailing (s.tile tile).active r.sums = some f) :
    ∃ x stop data, checkRun s tile r =
      failRun (s.setTile tile ((s.tile tile).mismatched f.2)) tile r.checked x 0x0102 stop 7 data := by
  unfold checkRun
  simp only [hd, if_neg Bool.false_ne_true, hf]
  exact ⟨_, _, _, rfl⟩

end

/-! ### Reserved opcodes (R101, R113, R162) -/

theorem matrixReserved_next {s : State} {tile : Nat} {w : W128} (ht : tile < 1152) (hw : matrixHead s tile = some w)
    (ho : opOf w = 0 ∨ 3 < opOf w) :
    exec (.matrixReservedOpcode tile) s = .next (refuseMatrix (s.setTile tile (s.tile tile).popped) tile w 0x0108) := by
  refine (onTile_of ht _).trans ?_
  have reserved : (opOf w == 0 || decide (opOf w > 3)) = true := by simpa using ho
  simp only [hw, reserved, ifDue_true]
  rfl

theorem vectorReserved_next {s : State} {tile : Nat} {w : W128} (ht : tile < 1152) (hw : vectorHead s tile = some w)
    (ho : opOf w ∉ vectorOpcodes) :
    exec (.vectorReservedOpcode tile) s = .next (s.setTile tile { s.tile tile with
      vqueue := (s.tile tile).vqueue.tail, vrun := some { word := w, cycles := 1, status := { fault := 0x010A } } }) := by
  refine (onTile_of ht _).trans ?_
  have reserved : (!vectorOpcodes.contains (opOf w)) = true := by simpa using ho
  simp only [hw, reserved, ifDue_true, refuseVector, runVector, State.tile_setTile_self, State.setTile_setTile]
  rfl

/-- A tile that serves its copy queue has not stopped. -/
theorem copyHead_running {s : State} {tile : Nat} {w : W128} (h : copyHead s tile = some w) : (s.tile tile).trun ≠ 3 := by
  intro e
  simp [copyHead, e] at h

theorem copyReserved_next {s : State} {tile : Nat} {w : W128} (ht : tile < 1152) (hw : copyHead s tile = some w)
    (h0 : opOf w ≠ 0x80) (h1 : opOf w ≠ 0x81) :
    exec (.copyReservedOpcode tile) s =
      .next (refuseCopy (s.setTile tile { s.tile tile with cqueue := (s.tile tile).cqueue.tail }) tile w 0x010C) := by
  refine (onTile_of ht _).trans ?_
  have reserved : (opOf w != 0x80 && opOf w != 0x81) = true := by simp [h0, h1]
  simp only [hw, reserved, ifDue_true]

theorem copyRecord_length (c : CopyRun) (fault cycles : Nat) : (copyRecord c fault cycles).length = 32 := layout_length _ _ (by simp)

/-- A refused copy instruction stops its tile, once its effect `x` on the tile has taken place (R162). -/
theorem refuseCopy_stops {s : State} {tile : Nat} {w : W128} {x : Tile} (hs : statOf w = false) (hx : x.trun ≠ 3) (code : Nat) :
    ∃ y cs, (refuseCopy (s.setTile tile x) tile w code).tile tile = (x.recorded y).stopped code cs ∧ y.mem = x.mem := by
  have self : (s.setTile tile x).tile tile = x := State.tile_setTile_self _ _ _
  let c : CopyRun := { id := 0, word := w, block := ⟨0, 0, 0, 0, 0, 0, 0, false, false⟩, faddr := 0, start := s.clk }
  have len := copyRecord_length c code 0
  have ended := completeWord_tile (recordFits_of_noStat hs) len (s.setTile tile x) tile
  rw [self] at ended
  obtain ⟨cs, e⟩ := engineRaise_tile (s := completeWord (s.setTile tile x) tile w (copyRecord c code 0)) (tile := tile)
    (by rw [ended]; exact hx) code 0 1 (dataAddr 0)
  exact ⟨_, cs, e.trans (by rw [ended]), by rw [completeWord_mem_of_noStat _ _ hs len, self]⟩

/-- Settles O12: a check slot is `checkRun` on the tile whose banks were read; a reserved opcode is a refusal, or in the vector
engine a run of one cycle with its fault. -/
theorem matrixChecks : Obligations.MatrixChecks := by
  unfold Obligations.MatrixChecks
  refine ⟨?_, ?_, fun s tile w ht hw ho hs => ?_, fun s tile w ht hw ho => ?_, fun s tile w ht hw h0 h1 hs => ?_⟩
  · intro s tile stalls r h hc hr v hv hwin hver
    obtain ⟨u, touched, next⟩ := mrunCheckSlot_compares h stalls hc hr hv
    have clean := checkRun_clean (s := u) (tile := tile) (r := (r.stalled stalls).windowed v)
    rw [setRun_touched touched] at clean
    obtain ⟨reach, bs, e⟩ := touched
    rw [e] at clean
    refine ⟨_, next, ?_⟩
    rw [clean hwin hver]
    refine ⟨onlyTile_trans reach (onlyTile_setTile _ _ _), ?_⟩
    rw [State.tile_setTile_self]
    rfl
  · intro s tile stalls r f h hc hr hd hx hs v hv hf
    obtain ⟨u, ⟨reach, bs, e⟩, next⟩ := mrunCheckSlot_compares h stalls hc hr hv
    obtain ⟨x, stop, data, fails⟩ := checkRun_fails (s := u) (tile := tile) (r := (r.stalled stalls).windowed v) hd
      (by rw [e]; exact hf)
    obtain ⟨y, cs, ended, -⟩ := failRun_stops (s := u.setTile tile ((u.tile tile).mismatched f.2)) (tile := tile)
      (r := ((r.stalled stalls).windowed v).checked) (recordFits_of_noStat hs) (by rw [State.tile_setTile_self, e]; exact hx)
      x 0x0102 stop 7 data
    rw [← fails, State.tile_setTile_self, e] at ended
    refine ⟨_, next, stopped_of_tile ended, ?_⟩
    rw [ended]
    exact ⟨rfl, mismatched_count (s.tile tile) f.2, rfl, rfl⟩
  · obtain ⟨y, cs, e, mem⟩ := refuseMatrix_stops (x := (s.tile tile).popped) (recordFits_of_noStat hs) (matrixHead_running hw)
      (code := 0x0108) (by decide) (by decide)
    refine ⟨_, matrixReserved_next ht hw ho, stopped_of_tile e, ?_⟩
    rw [e]
    exact mem hs
  · refine ⟨_, vectorReserved_next ht hw ho, onlyTile_setTile _ _ _, ?_⟩
    rw [State.tile_setTile_self]
    exact ⟨rfl, rfl, rfl⟩
  · obtain ⟨y, cs, e, mem⟩ := refuseCopy_stops (x := { s.tile tile with cqueue := (s.tile tile).cqueue.tail }) hs
      (copyHead_running hw) 0x010C
    refine ⟨_, copyReserved_next ht hw h0 h1, stopped_of_tile e, ?_⟩
    rw [e]
    exact mem

end Sys2Proof.Machine
end

section
/-! TILE_CFG: its request, its taking effect, and the width that marked columns leave (R65, R67, R68). -/

namespace Sys2Proof.Machine

open Sys2Proof Sys2Proof.Safety

/-! ### The width (R65) -/

theorem widthFor_narrow (m : BitVec 260) : widthFor 0 m = min 256 ((260 - badCount m) / 8 * 8) := rfl

/-- Marking further columns leaves no fewer bad ones. -/
theorem badCount_or (m n : BitVec 260) : badCount m ≤ badCount (m ||| n) := by
  unfold badCount
  rw [← List.countP_eq_length_filter, ← List.countP_eq_length_filter]
  refine List.countP_mono_left fun i _ hi => ?_
  rw [bit_eq_testBit] at hi ⊢
  rw [BitVec.toNat_or, Nat.testBit_or, hi, Bool.true_or]

theorem widthFor_or (m n : BitVec 260) : widthFor 0 (m ||| n) ≤ widthFor 0 m := by
  have more := badCount_or m n
  simp only [widthFor_narrow]
  omega

/-! ### The request (R67) -/

@[simp] theorem beginDesc_tile (s : State) (ring : Nat) (d : Desc) (k : Nat) : (beginDesc s ring d).tile k = s.tile k := by
  rw [beginDesc_only]
  rfl

@[simp] theorem modDesc_tile (s : State) (ring index : Nat) (f : Desc → Desc) (k : Nat) : (modDesc s ring index f).tile k = s.tile k := rfl

/-- A descriptor that the ring pair would start is one of its descriptors. -/
theorem nextDesc_mem {s : State} {ring : Nat} {d : Desc} (h : nextDesc s ring = some d) : d ∈ (s.ring ring).descs := by
  unfold nextDesc at h
  dsimp only at h
  split at h
  · contradiction
  · split at h
    · contradiction
    · rename_i x hx
      split at h
      · contradiction
      · split at h
        · contradiction
        · injection h with e
          exact e ▸ List.mem_of_find?_eq_some hx

theorem descOf_of_mem {s : State} {ring : Nat} {d : Desc} (h : d ∈ (s.ring ring).descs) : ∃ x, descOf s ring d.index = some x :=
  Option.isSome_iff_exists.mp (List.find?_isSome.mpr ⟨d, h, beq_self_eq_true _⟩)

/-- A descriptor that has begun is still one of its ring pair's. -/
theorem descOf_beginDesc {s : State} {ring : Nat} {d : Desc} {k : Nat} {x : Desc} (h : descOf s ring k = some x) :
    ∃ y, descOf (beginDesc s ring d) ring k = some y := by
  have changed := descOf_modDesc s ring d.index
    (fun x => { x with phase := .running, run := .none, inPitch := x.inPitch || inPitch s ring }) (fun _ => rfl) k
  rw [h] at changed
  unfold beginDesc
  dsimp only
  split
  · unfold descOf at changed ⊢
    rw [State.ring_setRing_self]
    exact ⟨_, changed⟩
  · exact ⟨_, changed⟩

theorem tileCfg_waits {s : State} {ring : Nat} {d : Desc} (h : Claims.Runs s ring d 0x30 0) (hc : tileCfgRefusal s d = 0)
    (hn : (s.tile (opnd d 8 2)).config = none) :
    exec (.tileCfg ring) s = .next (runDesc ((beginDesc s ring d).setTile (opnd d 8 2)
      { s.tile (opnd d 8 2) with config := some ⟨ring, cfgMode d, cfgKeep d, cfgMarks d⟩ }) ring d (.tileCfg (opnd d 8 2))) := by
  obtain ⟨hr, hd, h1, h2, h3, h4⟩ := h
  show execTileCfg ring s = _
  refine (startDesc_next hr hd h1 h2 h3 h4).trans ?_
  simp only [hc, hn, beginDesc_tile]
  rfl

/-! ### Taking effect (R67, R68) -/

section
variable (t : Tile) (c : TileConfig)

/-- The mode that a request leaves: no tile is in NARROW with no column. -/
def configuredMode : BitVec 2 :=
  let want := if c.keep then t.mode else c.mode
  if want = 0 ∧ widthFor 0 (t.badMap ||| c.bad) = 0 then 2 else want

theorem configured_config : (configured t c).config = none := by
  unfold configured
  extract_lets map want mode t1
  split <;> rfl

theorem configured_badMap : (configured t c).badMap = t.badMap ||| c.bad := by
  unfold configured
  extract_lets map want mode t1
  split <;> rfl

theorem configured_mode : (configured t c).mode = configuredMode t c := by
  unfold configured
  extract_lets map want mode t1
  split <;> rfl

end

/-- A change of the mode or of the marks makes both weight sets invalid (R68). -/
theorem configured_invalid {t : Tile} {c : TileConfig} (h : configuredMode t c ≠ t.mode ∨ t.badMap ||| c.bad ≠ t.badMap) :
    (configured t c).active.valid = false ∧ (configured t c).shadow.valid = false := by
  unfold configured
  extract_lets map want mode t1
  have change : ¬(mode = t.mode ∧ map = t.badMap) := fun same => h.elim (fun k => k same.1) (fun k => k same.2)
  rw [if_neg change]
  exact ⟨rfl, rfl⟩

/-- A tile whose row has switched off. -/
def Tile.unpowered (t : Tile) : Tile :=
  { t with
    mem := [], marks := [], writeback := [], storeMarks := [], banks := [], acc0 := [], acc1 := [], vregs := []
    active := {}, shadow := {} }

/-- The release of a row leaves each tile as it is or switches it off. -/
theorem rowRelease_tile (s : State) (tile k : Nat) :
    (rowRelease s tile).tile k = s.tile k ∨ (rowRelease s tile).tile k = (s.tile k).unpowered := by
  have off : ∀ (l : List Nat) (u : State), let v := l.foldl (fun u t => u.setTile t (u.tile t).unpowered) u
      v.tile k = u.tile k ∨ v.tile k = (u.tile k).unpowered := by
    intro l
    induction l with
    | nil => exact fun u => Or.inl rfl
    | cons t l ih =>
      intro u
      have first : (u.setTile t (u.tile t).unpowered).tile k = u.tile k ∨
          (u.setTile t (u.tile t).unpowered).tile k = (u.tile k).unpowered := by
        by_cases e : k = t
        · exact Or.inr (e ▸ State.tile_setTile_self _ _ _)
        · exact Or.inl (State.tile_setTile_ne _ _ e)
      obtain h | h := ih (u.setTile t (u.tile t).unpowered)
      · exact first.imp h.trans h.trans
      · right
        refine h.trans ?_
        obtain f | f := first
        · rw [f]
        · rw [f]
          rfl
  unfold rowRelease
  dsimp only
  split
  · exact off _ s
  · exact Or.inl rfl

/-- On an idle array the request takes effect, and the row is released where every tile of it is OFF. -/
theorem tileCfgTakeEffect_next {s : State} {tile : Nat} {c : TileConfig} (ht : tile < 1152) (hc : (s.tile tile).config = some c)
    (hq : (s.tile tile).mqueue = []) (hl : (s.tile tile).mload = none) (hr : (s.tile tile).mruns = []) :
    ∃ t, exec (.tileCfgTakeEffect tile) s = .next t ∧
      t.tile tile = (rowRelease (s.setTile tile (configured (s.tile tile) c)) tile).tile tile := by
  have idle : ¬((s.tile tile).mqueue ≠ [] ∨ (s.tile tile).mload.isSome = true ∨ (s.tile tile).mruns ≠ []) := by
    simp [hq, hl, hr]
  have e : exec (.tileCfgTakeEffect tile) s = _ := onTile_of ht _
  simp only [hc, if_neg idle] at e
  split at e
  · exact ⟨_, e, rfl⟩
  · exact ⟨_, e, rfl⟩

/-- Settles O13: the request is a field of the tile until the array is idle; `configured` says what it changes. -/
theorem tileConfiguration : Obligations.TileConfiguration := by
  unfold Obligations.TileConfiguration
  refine ⟨fun s ring d h hc hn => ?_, fun s tile c ht hc hq hl hr => ?_, fun m => ?_⟩
  · obtain ⟨x, hx⟩ := descOf_of_mem (nextDesc_mem h.2.1)
    obtain ⟨y, hy⟩ := descOf_beginDesc (d := d) hx
    refine ⟨_, tileCfg_waits h hc hn, runDesc_running _ _ _ _ hy, ?_, fun k hk => ?_, beginDesc_hbm _ _ _⟩
    · exact State.tile_setTile_self _ _ _
    · exact (State.tile_setTile_ne _ _ hk).trans (beginDesc_tile _ _ _ _)
  · obtain ⟨t, next, e⟩ := tileCfgTakeEffect_next ht hc hq hl hr
    refine ⟨t, next, ?_⟩
    have released := rowRelease_tile (s.setTile tile (configured (s.tile tile) c)) tile tile
    rw [← e, State.tile_setTile_self] at released
    obtain h | h := released
    · rw [h]
      exact ⟨configured_config _ _, configured_badMap _ _, configured_mode _ _, configured_invalid⟩
    · rw [h]
      exact ⟨configured_config _ _, configured_badMap _ _, configured_mode _ _, fun _ => ⟨rfl, rfl⟩⟩
  · refine ⟨?_, ?_, rfl, rfl, widthFor_or m⟩
    · rw [widthFor_narrow]
      omega
    · rw [widthFor_narrow]
      exact Nat.min_le_left _ _

end Sys2Proof.Machine
end

section
/-! The banks of a tile: write-back, retention and wake, and the switching on and clearing of a row (R180 to R182, R403). -/

namespace Sys2Proof.Machine

open Sys2Proof Sys2Proof.Safety

/-! ### Banks of one tile (R180, R181) -/

theorem passed_eq_true {s : State} {since us : Nat} (h : since + us * 1200 ≤ s.clk) : s.passed since us = true := decide_eq_true h

/-- A bank of a tile after one was replaced. -/
theorem Tile.bank_tset (t : Tile) (k j : Nat) (x : BankState) :
    Tile.bank { t with banks := tset t.banks k x } j = if j = k then x else t.bank j := tget_tset _ _ _ _ _

theorem bankEccWriteback_next {s : State} {tile g : Nat} (ht : tile < 1152) (hg : g ∈ (s.tile tile).writeback) :
    exec (.bankEccWriteback tile g) s = .next (s.setTile tile { s.tile tile with
      writeback := (s.tile tile).writeback.filter (· != g), marks := tdel (s.tile tile).marks g }) := by
  refine (onTile_of ht _).trans ?_
  rw [List.contains_iff_mem.mpr hg, ifDue_true]

theorem bankRetentionEnter_next {s : State} {tile b : Nat} (ht : tile < 1152) (hb : b < 6) (hl : (s.tile tile).launch = none)
    (hr : s.pwr.reten = true) (hp : ((s.tile tile).bank b).power = .on) (hi : ((s.tile tile).bank b).access + 100 * 1200 ≤ s.clk) :
    exec (.bankRetentionEnter tile b) s = .next (s.setTile tile { s.tile tile with
      banks := tset (s.tile tile).banks b { (s.tile tile).bank b with power := .retention, since := s.clk } }) := by
  refine (onTile_of ht _).trans ((onUnit_of hb _).trans ?_)
  simp [tileBusy, hl, hr, hp, passed_eq_true hi]

/-- What has lost bits during a wake marks codes, and leaves the banks and the bytes. -/
theorem foldl_markUpset_frame (bank : Nat) (us : List TileUpset) (t : Tile) :
    (us.foldl (markUpset bank) t).banks = t.banks ∧ (us.foldl (markUpset bank) t).mem = t.mem := by
  induction us generalizing t with
  | nil => exact ⟨rfl, rfl⟩
  | cons u us ih =>
    have one : (markUpset bank t u).banks = t.banks ∧ (markUpset bank t u).mem = t.mem := by
      cases u with
      | granule g many =>
        unfold markUpset
        dsimp only
        split <;> exact ⟨rfl, rfl⟩
      | store p many => exact ⟨rfl, rfl⟩
    obtain ⟨hb, hm⟩ := ih (markUpset bank t u)
    exact ⟨hb.trans one.1, hm.trans one.2⟩

theorem foldl_markUpset_bank (bank : Nat) (us : List TileUpset) (t : Tile) (n : Nat) :
    (us.foldl (markUpset bank) t).bank n = t.bank n := by
  unfold Tile.bank
  rw [(foldl_markUpset_frame bank us t).1]

theorem bankWakeComplete_next {s : State} {tile b : Nat} (ht : tile < 1152) (hb : b < 6)
    (hp : ((s.tile tile).bank b).power = .waking) (hi : ((s.tile tile).bank b).since + 2 * 1200 ≤ s.clk) (upsets : List TileUpset) :
    exec (.bankWakeComplete tile b upsets) s = .next (s.setTile tile (upsets.foldl (markUpset b) { s.tile tile with
      banks := tset (s.tile tile).banks b { (s.tile tile).bank b with power := .on } })) := by
  refine (onTile_of ht _).trans ((onUnit_of hb _).trans ?_)
  simp [hp, passed_eq_true hi]

/-! ### A change of several tiles -/

/-- Change each tile of a list, by what it is and the clock. -/
def eachTile (g : Nat → Tile → Tile) (l : List Nat) (s : State) : State := l.foldl (fun u t => u.setTile t (g u.clk (u.tile t))) s

theorem eachTile_frame (g : Nat → Tile → Tile) (l : List Nat) (s : State) :
    eachTile g l s = { s with tiles := (eachTile g l s).tiles } := by
  induction l generalizing s with
  | nil => rfl
  | cons t l ih => exact ih (s.setTile t (g s.clk (s.tile t)))

theorem eachTile_outside (g : Nat → Tile → Tile) {l : List Nat} {x : Nat} (h : x ∉ l) (s : State) :
    (eachTile g l s).tile x = s.tile x := by
  induction l generalizing s with
  | nil => rfl
  | cons t l ih =>
    rw [List.mem_cons, not_or] at h
    obtain ⟨ht, hl⟩ := h
    exact (ih hl (s.setTile t (g s.clk (s.tile t)))).trans (State.tile_setTile_ne s _ ht)

theorem eachTile_inside (g : Nat → Tile → Tile) {l : List Nat} (hn : l.Nodup) {x : Nat} (h : x ∈ l) (s : State) :
    (eachTile g l s).tile x = g s.clk (s.tile x) := by
  induction l generalizing s with
  | nil => contradiction
  | cons t l ih =>
    obtain ⟨ht, hl⟩ := List.nodup_cons.mp hn
    show (eachTile g l (s.setTile t (g s.clk (s.tile t)))).tile x = _
    by_cases e : x = t
    · subst e
      exact (eachTile_outside g ht _).trans (State.tile_setTile_self _ _ _)
    · have hx := (List.mem_cons.mp h).resolve_left e
      rw [ih hl hx, State.setTile_clk, State.tile_setTile_ne s _ e]

theorem rowTiles_nodup (domain : Nat) : (rowTiles domain).Nodup :=
  List.pairwise_map.mpr (List.Pairwise.imp (fun distinct e => distinct (by omega)) List.nodup_range)

/-! ### A row switches on (R182, R403) -/

/-- A tile whose banks have begun to clear. -/
def Tile.clearing (delay clk : Nat) (t : Tile) : Tile :=
  { t with
    mem := [], marks := [], writeback := [], storeMarks := []
    banks := (List.range 6).map (fun b => (b, { power := .clearing, since := clk + delay, access := clk })) }

theorem foldl_clearTile (delay : Nat) (l : List Nat) (s : State) : l.foldl (clearTile delay) s = eachTile (Tile.clearing delay) l s := rfl

/-- A table that lists a value for each number of a list. -/
theorem tget_map_pair {α : Type} (f : Nat → α) {l : List Nat} {k : Nat} (h : k ∈ l) (d : α) :
    tget (l.map (fun b => (b, f b))) k d = f k := by
  induction l with
  | nil => contradiction
  | cons a l ih =>
    by_cases e : a = k
    · simp only [List.map_cons, tget, tget?, e, if_true, Option.getD_some]
    · have rest := ih ((List.mem_cons.mp h).resolve_left (Ne.symm e))
      simpa only [List.map_cons, tget, tget?, e, if_false] using rest

theorem Tile.clearing_bank (delay clk : Nat) (t : Tile) {b : Nat} (hb : b < 6) :
    (t.clearing delay clk).bank b = { power := .clearing, since := clk + delay, access := clk } :=
  tget_map_pair _ (List.mem_range.mpr hb) _

theorem self_mem_insertNat (n : Nat) (l : List Nat) : n ∈ insertNat n l := by
  induction l with
  | nil => exact List.mem_singleton_self n
  | cons a r ih =>
    unfold insertNat
    split
    · exact List.mem_cons_self
    · split
      · rename_i e
        exact e ▸ List.mem_cons_self
      · exact List.mem_cons_of_mem a ih

/-- A row switches on where the ramp lets it: the level has not outrun the up-ramp (log entry 88). -/
theorem tileRowPowerOn_next {s : State} {dm : Nat} (hd : dm < 108) (h8 : dm % 9 ≠ 8) (hoff : dm ∉ s.pwr.domains)
    (hcol : dm / 9 * 9 + 8 ∈ s.pwr.domains) (hp : s.pwr.phase ≠ .off) (ht : s.pwr.phase ≠ .tripped) (hu : rowUsable s dm = true)
    (hw : rowWanted s dm = true ∨ rowHeldOff s dm = false) (hr : rampUpOk s = true) :
    exec (.tileRowPowerOn dm) s = .next (eachTile (Tile.clearing 60000) (rowTiles dm)
      { s with pwr := { s.pwr with domains := insertNat dm s.pwr.domains } }) := by
  refine (onUnit_of hd _).trans ?_
  have wanted : (rowWanted s dm || !rowHeldOff s dm) = true := by simpa using hw
  simp only [wanted, hu, hr, List.contains_iff_mem.mpr hcol, Bool.and_true, bne_iff_ne.mpr h8, bne_iff_ne.mpr hp, bne_iff_ne.mpr ht,
    List.contains_eq_mem, hoff, decide_false, Bool.not_false, ifDue_true]
  rfl

/-! ### The end of the clearing (R182) -/

/-- A bank that has cleared for 16,384 control cycles is on. -/
def BankState.cleared (clk : Nat) (b : BankState) : BankState :=
  if b.power = .clearing ∧ clk ≥ b.since + 16384 then { b with power := .on, access := clk } else b

def Tile.cleared (clk : Nat) (t : Tile) : Tile := { t with banks := t.banks.map (fun b => (b.1, b.2.cleared clk)) }

/-- A value of a table after every listed one was changed. -/
theorem tget_map {α : Type} (f : α → α) (t : Table α) (k : Nat) {d : α} (h : f d = d) :
    tget (t.map (fun p => (p.1, f p.2))) k d = f (tget t k d) := by
  induction t with
  | nil => exact h.symm
  | cons p r ih =>
    by_cases e : p.1 = k
    · simp [tget, tget?, e]
    · simpa [tget, tget?, e] using ih

theorem Tile.cleared_bank (clk : Nat) (t : Tile) (b : Nat) : (t.cleared clk).bank b = (t.bank b).cleared clk := tget_map _ _ _ rfl

theorem bankClearComplete_next {s : State} {dm x b : Nat} (hd : dm < 108) (h8 : dm % 9 ≠ 8) (hx : x ∈ rowTiles dm) (hb : b < 6)
    (hp : ((s.tile x).bank b).power = .clearing) (hi : ((s.tile x).bank b).since + 16384 ≤ s.clk) :
    exec (.bankClearComplete dm) s = .next (eachTile Tile.cleared (rowTiles dm) s) := by
  have some_due : (rowTiles dm).any (fun t => (List.range 6).any (fun b =>
      ((s.tile t).bank b).power == .clearing && decide (s.clk ≥ ((s.tile t).bank b).since + 16384))) = true :=
    List.any_eq_true.mpr ⟨x, hx, List.any_eq_true.mpr ⟨b, List.mem_range.mpr hb, by simpa using ⟨hp, hi⟩⟩⟩
  refine (onUnit_of hd _).trans ?_
  simp only [some_due, bne_iff_ne.mpr h8, Bool.and_true, ifDue_true]
  rfl

/-! ### The obligation -/

/-- Settles O21: each step changes a tile's banks by an equation of its own, and a row's tiles one by one. -/
theorem tileBanks : Obligations.TileBanks := by
  unfold Obligations.TileBanks
  refine ⟨fun s tile g ht hg => ?_, fun s tile b ht hb hl hr hp hi => ?_, fun s tile b upsets ht hb hp hi => ?_,
    fun s dm hd h8 hoff hcol hp ht hu hw hr => ?_, fun s dm x b hd h8 hx hb hp hi => ?_⟩
  · refine ⟨_, bankEccWriteback_next ht hg, onlyTile_setTile _ _ _, ?_⟩
    rw [State.tile_setTile_self]
    refine ⟨?_, fun n hn => ?_, by simp, rfl⟩
    · rw [tget?_tdel, if_pos rfl]
    · rw [tget?_tdel, if_neg hn]
  · refine ⟨_, bankRetentionEnter_next ht hb hl hr hp hi, onlyTile_setTile _ _ _, ?_⟩
    rw [State.tile_setTile_self]
    refine ⟨?_, fun n hn => ?_, rfl⟩
    · rw [Tile.bank_tset, if_pos rfl]
    · rw [Tile.bank_tset, if_neg hn]
  · refine ⟨_, bankWakeComplete_next ht hb hp hi upsets, onlyTile_setTile _ _ _, ?_⟩
    rw [State.tile_setTile_self]
    refine ⟨?_, fun n hn => ?_, (foldl_markUpset_frame _ _ _).2⟩
    · rw [foldl_markUpset_bank, Tile.bank_tset, if_pos rfl]
    · rw [foldl_markUpset_bank, Tile.bank_tset, if_neg hn]
  · refine ⟨_, tileRowPowerOn_next hd h8 hoff hcol hp ht hu hw hr, ?_, ?_, fun x hx => ?_, fun x hx => eachTile_outside _ hx _⟩
    · rw [eachTile_frame]
      exact self_mem_insertNat _ _
    · rw [eachTile_frame]
    · rw [eachTile_inside _ (rowTiles_nodup dm) hx]
      refine ⟨rfl, rfl, fun b hb => ?_⟩
      rw [Tile.clearing_bank _ _ _ hb]
      exact ⟨rfl, rfl⟩
  · refine ⟨_, bankClearComplete_next hd h8 hx hb hp hi, ?_, ?_, fun y hy => eachTile_outside _ hy _⟩
    · rw [eachTile_inside _ (rowTiles_nodup dm) hx, Tile.cleared_bank, BankState.cleared, if_pos ⟨hp, hi⟩]
    · rw [eachTile_inside _ (rowTiles_nodup dm) hx]
      rfl

end Sys2Proof.Machine
end

section
/-! Messages of the mesh at a tile: one that a double-bit error discards, and a request performed at its port (R183 to R185). -/

namespace Sys2Proof.Machine

open Sys2Proof Sys2Proof.Safety

/-! ### A request and its leaving -/

theorem id_of_reqOf {s : State} {q : Nat} {r : MemReq} (h : reqOf s q = some r) : r.id = q := by simpa using List.find?_some h

/-- A request that is taken away leaves its tile's load/store path. -/
theorem dropReq_frame (s : State) (q : Nat) :
    dropReq s q = { s with tiles := (dropReq s q).tiles, reqs := s.reqs.filter (fun r => r.id != q) } := by
  unfold dropReq
  dsimp only
  split
  · split <;> rfl
  · rfl

theorem dropReq_tile (s : State) (q k : Nat) : ∃ l, (dropReq s q).tile k = { s.tile k with lsu := l } := by
  unfold dropReq
  dsimp only
  split
  · split
    · rename_i t _ _
      by_cases e : k = t
      · subst e
        exact ⟨_, State.tile_setTile_self _ _ _⟩
      · exact ⟨_, State.tile_setTile_ne _ _ e⟩
    · exact ⟨_, rfl⟩
  · exact ⟨_, rfl⟩

theorem dropReq_mem (s : State) (q k : Nat) : ((dropReq s q).tile k).mem = (s.tile k).mem := by
  obtain ⟨l, e⟩ := dropReq_tile s q k
  rw [e]

theorem reqOf_of_dropped {s t : State} {q : Nat} (h : t.reqs = (dropReq s q).reqs) : reqOf t q = none := by
  unfold reqOf
  rw [h, dropReq_frame]
  simp

theorem reqOf_setReqReply {s : State} {q : Nat} {r : MemReq} (h : reqOf s q = some r) (p : Reply) :
    reqOf (setReqReply s q p) q = some { r with reply := p } := by
  have hid := id_of_reqOf h
  unfold reqOf at h ⊢
  unfold setReqReply
  have same : (fun x : MemReq => x.id == q) ∘ (fun x : MemReq => if x.id == q then { x with reply := p } else x) =
      (fun x => x.id == q) := by
    funext x
    dsimp only [Function.comp_apply]
    split <;> rfl
  rw [List.find?_map, same, h, Option.map_some, if_pos (by simpa using hid)]

/-! ### A message that a double-bit error discards (R183) -/

/-- A field that every step of a run keeps is as before the run. -/
theorem foldl_keeps {α β : Type} (p : State → β) (f : State → α → State) (h : ∀ u x, p (f u x) = p u) (l : List α)
    (s : State) : p (l.foldl f s) = p s := by
  induction l generalizing s with
  | nil => rfl
  | cons x l ih => exact (ih (f s x)).trans (h s x)

theorem stopMembers_reqs (s : State) (ring : Nat) : (stopMembers s ring).reqs = s.reqs := by
  unfold stopMembers
  refine foldl_keeps State.reqs _ (fun u l => ?_) _ s
  exact foldl_keeps State.reqs quietStop (fun _ _ => rfl) _ _

theorem contain_reqs (s : State) (ring : Option Nat) (f : Raise) : (contain s ring f).reqs = s.reqs := by
  unfold contain
  split
  · split
    · unfold pitchFault
      dsimp only
      split
      · exact stopMembers_reqs _ _
      · exact stopMembers_reqs _ _
      · split <;> rfl
      · rfl
    · rfl
  · rfl

/-- The fault of a tile's engine takes no request away. -/
theorem engineRaise_reqs (s : State) (tile code detail kind : Nat) (data : Bytes) :
    (engineRaise s tile code detail kind data).reqs = s.reqs := by
  have recorded (f : Raise) : (record s f).reqs = s.reqs := by rw [(record_onlyLog s f).1]
  unfold engineRaise tileRaise
  dsimp only
  rw [contain_reqs]
  split <;> exact recorded _

/-! ### A request of a thread on its way (R148, R183, R185) -/

section
variable {s : State} {q : Nat} {r : MemReq} (hq : reqOf s q = some r) (hr : r.reply = .none) (ha : r.away = false)
  (hf : firstInOrder s r = true)
include hq hr ha hf

theorem meshRequest_next (errors : MeshErrors) :
    exec (.meshMessageDeliver (.request q) errors) s =
      .next (meshDeliver s (meshTile s r.addr ((issuerTile r.issuer).getD 0)) r.addr errors (dropReq s q) (fun u =>
        if !isOwn u r.addr || decide (addrSpace r.addr > 1) then requestAtGateway r u
        else if addrSpace r.addr = 0 then some u else requestAtTile r u)) := by
  show Host.Outcome.next (deliverRequest q errors s) = _
  unfold deliverRequest
  simp only [hq, hr, ha, hf, bne_self_eq_false, Bool.or_false, Bool.not_true, Bool.false_eq_true, if_false]

/-- A double-bit error takes the request away and stops the tile at which it is met. -/
theorem meshRequest_double (ht : (s.tile (meshTile s r.addr ((issuerTile r.issuer).getD 0))).trun ≠ 3) :
    ∃ t, exec (.meshMessageDeliver (.request q) .double) s = .next t ∧ reqOf t q = none ∧
      Stopped t (meshTile s r.addr ((issuerTile r.issuer).getD 0)) 0x0203 := by
  refine ⟨_, meshRequest_next hq hr ha hf .double, reqOf_of_dropped (engineRaise_reqs _ _ _ _ _ _), ?_⟩
  obtain ⟨l, e⟩ := dropReq_tile s q (meshTile s r.addr ((issuerTile r.issuer).getD 0))
  obtain ⟨cs, stopped⟩ := engineRaise_tile (s := dropReq s q) (by rw [e]; exact ht) 0x0203 0 1 (dataAddr r.addr)
  exact stopped_of_tile stopped

variable (ho : isOwn s r.addr = true) (hs : addrSpace r.addr = 1) (hu : unitReady s 1 (addrOff r.addr) r.len = true)
include ho hs hu

/-- A request that passes its checks is performed at the port of the tile that it names, a load once its line is free. -/
theorem meshRequest_performs (hc : refusal s r.issuer (accOf r.act) none 1 (addrOff r.addr) r.len = 0)
    (hl : r.act.isRead = true → lineFree s r = true) :
    exec (.meshMessageDeliver (.request q) .none) s = .next (performAtTile s r) := by
  have free : ¬(r.act.isRead && !lineFree s r) = true := by
    cases hx : r.act.isRead with
    | false => exact Bool.false_ne_true
    | true => simp [hl hx]
  have performed : requestAtTile r s = some (performAtTile s r) := by
    show (if refusal s r.issuer (accOf r.act) none 1 (addrOff r.addr) r.len ≠ 0 then _ else _) = _
    rw [if_neg (fun refused => refused hc), if_neg free, if_neg (by simp [hu])]
  rw [meshRequest_next hq hr ha hf]
  simp [meshDeliver, ho, hs, performed]

end

/-! ### A request at the port of its tile (R180, R183) -/

/-- A load on a tile whose codes are good keeps its bytes and touches the banks. -/
theorem performAtTile_read {s : State} {r : MemReq} (hact : r.act = .read) (hm : (s.tile (addrTile r.addr)).marks = []) :
    performAtTile s r = setReqReply (s.setTile (addrTile r.addr) ((s.tile (addrTile r.addr)).touch s.clk (addrLocal r.addr) r.len)) r.id
      (.data (tileBytes (s.tile (addrTile r.addr)) (addrLocal r.addr) r.len) .good) := by
  have read : memRead' s none 1 (addrOff r.addr) r.len false = tileRead s (addrTile r.addr) (addrLocal r.addr) r.len := rfl
  unfold performAtTile
  simp only [hact, read, tileRead, bankBad_of_good hm]
  rw [bankChecks_of_good (by rw [State.tile_setTile_self]; exact hm)]
  rfl

theorem performAtTile_write {s : State} {r : MemReq} {b : Bytes} (hact : r.act = .write b) :
    performAtTile s r = dropReq (s.setTile (addrTile r.addr)
      (((s.tile (addrTile r.addr)).touch s.clk (addrLocal r.addr) b.length).store (addrLocal r.addr) b)) r.id := by
  unfold performAtTile
  rw [hact]
  rfl

theorem setTile_mem_of_eq (s : State) (k : Nat) {x : Tile} (h : x.mem = (s.tile k).mem) (y : Nat) :
    ((s.setTile k x).tile y).mem = (s.tile y).mem := by
  rw [State.tile_setTile]
  split
  · rename_i e
    rw [h, e]
  · rfl

end Sys2Proof.Machine
end

section
/-! The edges between the dies (R187) and the halt that the loss of one brings (R438), and the obligation on the mesh and the
edges. -/

namespace Sys2Proof.Machine

open Sys2Proof Sys2Proof.Safety

/-! ### A record halts nothing -/

theorem appendRecord_halted (s : State) (r : LogRecord) : (appendRecord s r).log.halted = s.log.halted := by
  unfold appendRecord
  dsimp only
  split
  · simp [writeRing]
  · split <;> rfl

theorem replaceRecord_halted (s : State) (r : LogRecord) : (replaceRecord s r).log.halted = s.log.halted := by
  unfold replaceRecord
  dsimp only
  split
  · rw [postRecord_log]
  · rfl

theorem storeRecord_halted (s : State) (r : LogRecord) : (storeRecord s r).log.halted = s.log.halted := by
  have moved := foldl_keeps (fun u => u.log.halted) replaceRecord replaceRecord_halted (movedBy s r).dropLast s
  unfold storeRecord
  dsimp only
  split
  · exact (appendRecord_halted _ _).trans moved
  · exact moved

theorem record_halted (s : State) (f : Raise) : (record s f).log.halted = s.log.halted := by
  cases h : suppressed s f with
  | true => rw [record_of_suppressed h]; rfl
  | false =>
    obtain ⟨u, hu, e⟩ := record_of_not_suppressed h
    have same : (record s f).log.halted = (storedRecord s f).log.halted := by rw [e, errorEvents_frame, hu.frame]
    rw [same, storedRecord, storeRecord_halted]

theorem record_edges (s : State) (f : Raise) : (record s f).edges = s.edges := by rw [(record_onlyLog s f).1]

theorem record_cmd (s : State) (f : Raise) : (record s f).cmd = s.cmd := by rw [(record_onlyLog s f).1]

/-! ### The halt (R438, R439) -/

theorem emptyRlc_frame (s : State) : emptyRlc s = { s with hbm := (emptyRlc s).hbm } := by
  unfold emptyRlc
  split <;> rfl

theorem ring_of_cmd {s t : State} (h : t.cmd = s.cmd) (r : Nat) : t.ring r = s.ring r := by
  unfold State.ring
  rw [h]

/-! The change of the job epoch: it leaves the edges, drops no stage of an empty list, and keeps the phase of every ring pair. -/

theorem epochChange_edges (s : State) : (epochChange s).edges = s.edges := by
  unfold epochChange cardsDue
  dsimp only
  rw [emptyRlc_frame]
  exact foldl_keeps State.edges forgetPushes (fun _ _ => rfl) _ s

theorem epochChange_stages {s : State} (h : s.cmd.stages = []) : (epochChange s).cmd.stages = [] := by
  unfold epochChange cardsDue
  dsimp only
  rw [emptyRlc_frame, h]
  exact List.filter_eq_nil_iff.mpr (by simp [h])

theorem epochChange_phase (s : State) (r : Nat) : ((epochChange s).ring r).phase = (s.ring r).phase := by
  unfold epochChange cardsDue State.ring
  dsimp only
  rw [emptyRlc_frame]
  refine (congrArg RingPair.phase (tget_map (fun x : RingPair => { x with sent := [] }) _ r rfl)).trans ?_
  dsimp only
  rw [foldl_keeps State.cmd forgetPushes (fun _ _ => rfl)]

theorem dropAllStages_edges (s : State) : (dropAllStages s).edges = s.edges := by
  unfold dropAllStages
  dsimp only
  rw [foldl_keeps State.edges forgetPushes (fun _ _ => rfl)]
  exact foldl_keeps State.edges _ (fun u _ => record_edges u _) _ s

theorem dropAllStages_cmd (s : State) : (dropAllStages s).cmd = { s.cmd with stages := [] } := by
  unfold dropAllStages
  dsimp only
  rw [foldl_keeps State.cmd forgetPushes (fun _ _ => rfl), foldl_keeps State.cmd _ (fun u _ => record_cmd u _)]

theorem stopAllRings_phase (s : State) (r : Nat) : ((stopAllRings s).ring r).phase ≠ .active := by
  have all : (stopAllRings s).cmd.rings.all (fun x => x.2.phase != .active) = true := by simp [stopAllRings]
  exact bne_iff_ne.mp (tget_of_all (fun x : RingPair => x.phase != .active) _ r {} all rfl)

theorem halt_edges (s : State) (code : Nat) : (halt s code).edges = s.edges := by
  unfold halt
  dsimp only
  rw [epochChange_edges]
  dsimp only
  rw [dropAllStages_edges]
  exact foldl_keeps State.edges (fun t x => quietStop t x.1) (fun _ _ => rfl) s.tiles s

/-- What the halt leaves of the command processor: every ring pair stops, every stage is dropped, and the job epoch changes. -/
theorem halt_cmd (s : State) (code : Nat) :
    ∃ u v, (halt s code).cmd = (epochChange u).cmd ∧ u.cmd = { (stopAllRings v).cmd with stages := [] } := by
  unfold halt
  dsimp only
  exact ⟨_, _, rfl, dropAllStages_cmd _⟩

/-- The halted part: FAULT_N is low, no stage is left, and no ring pair is active. -/
theorem halt_halts (s : State) (code : Nat) : (halt s code).log.halted = true ∧ (halt s code).pins.faultLow = true ∧
    (halt s code).cmd.stages = [] ∧ ∀ r, ((halt s code).ring r).phase ≠ .active := by
  obtain ⟨u, v, changed, dropped⟩ := halt_cmd s code
  refine ⟨rfl, rfl, ?_, fun r => ?_⟩
  · rw [changed]
    exact epochChange_stages (by rw [dropped])
  · have phase : ((halt s code).ring r).phase = ((stopAllRings v).ring r).phase := by
      rw [ring_of_cmd changed, epochChange_phase]
      unfold State.ring
      rw [dropped]
    rw [phase]
    exact stopAllRings_phase v r

/-! ### Beats of an edge (R187) -/

section
variable {s : State} {e : Nat} (he : e < 24) (hd : (tget s.edges e {}).down = false)
include he hd

theorem edgeBeatReceive_good : exec (.edgeBeatReceive e true) s =
    .next { s with edges := tset s.edges e { tget s.edges e {} with fails := 0 } } := by
  refine (onUnit_of he _).trans ?_
  simp only [hd, Bool.false_eq_true, if_false, if_true]

/-- A failed beat counts and is logged; the sixteenth in a row takes the edge down and is FATAL. -/
theorem edgeBeatReceive_bad :
    let s1 := note { s with edges := tset s.edges e { tget s.edges e {} with fails := (tget s.edges e {}).fails + 1 } } 0x0202 0
      (unitCompute (edgeDie e))
    exec (.edgeBeatReceive e false) s = .next (if (tget s.edges e {}).fails + 1 ≥ 16 then
      fatal { s1 with edges := tset s1.edges e { fails := (tget s.edges e {}).fails + 1, down := true } }
        { code := 0x0204, unit := unitCompute (edgeDie e) }
      else s1) := by
  refine (onUnit_of he _).trans ?_
  simp only [hd, Bool.false_eq_true, if_false]
  split <;> rfl

end

/-! ### The obligation -/

/-- Settles O22: the request, the beat and the halt each through the lemmas that say once what they do. -/
theorem meshAndEdges : Obligations.MeshAndEdges := by
  unfold Obligations.MeshAndEdges
  refine ⟨fun s q r hq hr ha hf ht => meshRequest_double hq hr ha hf ht,
    fun s q r hq ho hs hr ha hf hact hl hc hu hm => ?_, fun s q r b hq ho hs hr ha hf hact hb hc hu hw => ?_,
    fun s e he hd => ?_, fun s e he hd => ?_⟩
  · have next := meshRequest_performs hq hr ha hf ho hs hu (by rw [hact]; exact hc) (fun _ => hl)
    rw [performAtTile_read hact hm, id_of_reqOf hq] at next
    exact ⟨_, _, next, rfl, reqOf_setReqReply hq _, rfl, setTile_mem_of_eq s _ rfl⟩
  · refine ⟨_, meshRequest_performs hq hr ha hf ho hs hu (by rw [hact]; exact hc) (by simp [hact, MemAct.isRead]), ?_⟩
    rw [performAtTile_write hact, id_of_reqOf hq]
    refine ⟨by rw [dropReq_frame]; rfl, reqOf_of_dropped rfl, ?_, fun a out => ?_, fun y hy => ?_⟩
    · rw [dropReq_mem, State.tile_setTile_self, store_mem]
      exact memRead_memWrite _ _ _ _ hw
    · rw [dropReq_mem, State.tile_setTile_self, store_mem]
      exact memByte_memWrite_outside _ _ _ _ _ hw out
    · rw [dropReq_mem, State.tile_setTile_ne s _ hy]
  · refine ⟨_, edgeBeatReceive_good he hd, rfl, ?_, ?_, fun n hn => tget_tset_ne _ _ _ hn⟩
    · rw [tget_tset_self]
    · rw [tget_tset_self]
      exact hd
  · refine ⟨_, edgeBeatReceive_bad he hd, ?_⟩
    dsimp only
    by_cases h : (tget s.edges e {}).fails + 1 < 16
    · rw [if_pos h, if_neg (Nat.not_le.mpr h), note, record_edges, record_halted, tget_tset_self]
      exact ⟨rfl, hd, rfl⟩
    · rw [if_neg h, if_pos (Nat.not_lt.mp h), fatal, halt_edges, record_edges, tget_tset_self]
      exact ⟨rfl, rfl, halt_halts _ _⟩

end Sys2Proof.Machine
end
